-- ==== Sys2Proof/Word.lean ====
section
/-!
DEFINITION. The words of the K936: cells, words and their relatives (02_cells_words_formats R2, R3, R26), host bytes,
64-bit registers and code parcels, and the numbers that name units (01_architecture R4, R10).
-/

namespace Sys2Proof

/-- A cell: bits 7:0 data, bit 8 the mark (R2). -/
abbrev Cell := BitVec 9
/-- A half word: two cells (R3). -/
abbrev Half := BitVec 18
/-- A word: four cells (R3). -/
abbrev Word := BitVec 36
/-- A double word: eight cells (R3). -/
abbrev DWord := BitVec 72
/-- A quad word: sixteen cells (R3). -/
abbrev QWord := BitVec 144
/-- A host byte. -/
abbrev Byte := BitVec 8
/-- A 64-bit register value (R514). -/
abbrev Reg := BitVec 64
/-- A code parcel (R46). -/
abbrev Parcel := BitVec 14

/-- A ledger core LC0 to LC95 (R4, R10). -/
abbrev CoreId := Fin 96
/-- An island I0 to I11 (R4). -/
abbrev IslandId := Fin 12
/-- A posting unit PU0 to PU255 (R10). -/
abbrev PuId := Fin 256
/-- A memory stack M0 to M7 (R10). -/
abbrev StackId := Fin 8
/-- An island bank SB0 to SB15 (R319). -/
abbrev BankId := Fin 16
/-- A queue 0 to 271 (R382). -/
abbrev QueueId := Fin 272
/-- A task slot 0 to 63 (R223). -/
abbrev SlotId := Fin 64
/-- A distributor source 0 to 1023 (R220). -/
abbrev SourceId := Fin 1024

end Sys2Proof
end

