-- ==== Sys2Proof/Syntax.lean ====
section
/-!
DEFINITION. The commands that the K936 takes: one constructor of `Instr` for each row of the table of operations and
events, and the types of their operands. Instruction specifiers are kept raw, so that every encoding check of R65 to R78
is made when the instruction executes.
-/

namespace Sys2Proof

/-- A specifier parcel with its extension parcels (R67, R68): bits 13:10 MODE, 9:6 REG, 5:3 SEG, 2:0 EXT. -/
structure Spec where
  mode : BitVec 4
  reg : BitVec 4
  seg : BitVec 3
  ext : BitVec 3
  xs : List Parcel
  deriving DecidableEq, Repr

/-- The four views of the register space (R511, R328). -/
inductive View where
  /-- PF1 BAR0. -/
  | pf1
  /-- PF0 BAR0. -/
  | pf0
  /-- The custody register window. -/
  | cwin
  /-- The ledger register window. -/
  | lwin
  /-- The doorbell pages: BAR2 of PF0, or of PF1 (R376, R386). -/
  | bells (pf1 : Bool)
  deriving DecidableEq, Repr

/-- What a stored line holds against its line code when it is read (R43, R297). -/
inductive Upset where
  | clean
  | correctable
  | uncorrectable
  deriving DecidableEq, Repr

/-- Kinds of access that the translation chain distinguishes (R336, R338). -/
inductive Access where
  | read
  | write
  /-- A read-modify-write operand. -/
  | rmw
  | posting
  /-- LKT or LKR (R314). -/
  | lock
  | fetch
  | crd
  | cwr
  deriving DecidableEq, Repr

/-- A request to a table walker (R341): for one linear page, in a world's data or code space. -/
structure WalkReq where
  core : Fin 8
  world : Bool
  sup : Bool
  page : BitVec 36
  acc : Access
  segKey : BitVec 4
  speculative : Bool
  deriving DecidableEq, Repr

/-- Trained rates of the host link (R374). -/
inductive LinkRate where
  | gt8 | gt16 | gt32 | gt64
  deriving DecidableEq, Repr

/-- Trained widths of the host link (R374). -/
inductive LinkWidth where
  | x1 | x4 | x8 | x16
  deriving DecidableEq, Repr

/-- Transports of SPDM (R377). -/
inductive Transport where
  | pcieVdm | smbus | i3c
  deriving DecidableEq, Repr

/-- SPDM request codes (R377). -/
inductive SpdmCode where
  | getVersion | getCapabilities | negotiateAlgorithms | getDigests | getCertificate | challenge | getMeasurements
  /-- KEY_EXCHANGE, PSK_EXCHANGE, secured messages and all other codes. -/
  | unsupported
  deriving DecidableEq, Repr

/-- What the identity exchange tells of the twin at JOIN (R417, R426, R444): its role bit, pair state, mode, epoch, next record
number, and the lines of its local memory whose JW is 1, with their MIRROR_EPOCH. -/
structure TwinId where
  standby : Bool
  state : BitVec 4
  mode : BitVec 2
  epoch : BitVec 32
  nextSeq : BitVec 64
  lines : List (BitVec 37 × BitVec 32) := []
  deriving DecidableEq, Repr

/-- A journal record (R423, R424). `body` holds words 3 to 13. -/
structure Record where
  kind : BitVec 4
  op : BitVec 4 := 0
  ty : BitVec 2 := 0
  dsm : Bool := false
  status : BitVec 4 := 0
  segtag : BitVec 16 := 0
  seq : BitVec 64
  body : List Word
  epoch : BitVec 32
  src : BitVec 9
  peer : BitVec 5 := 0
  rnum : BitVec 22 := 0
  deriving DecidableEq, Repr

/-- The metadata of a stored line (R42). -/
structure LineInfo where
  mirrorEpoch : BitVec 32 := 0
  heat : BitVec 16 := 0
  postTag : BitVec 16 := 0
  poison : Bool := false
  postSeqH : BitVec 48 := 0
  jw : Bool := false
  deriving DecidableEq, Repr

/-- Structures of a core of which one way or entry can be fenced (R457). -/
inductive CorePart where
  | l1Way | lineBuffer | btbEntry | dtlbEntry
  deriving DecidableEq, Repr

/-- Structures of an island of which one way or entry can be fenced (R457). -/
inductive IslandPart where
  | tlbEntry | walkEntry | codeWay
  deriving DecidableEq, Repr

/-- Units of the fault hub's table (R457): the failing part that a report names. -/
inductive UnitRef where
  | coreEntry (core : Fin 96) (part : CorePart) (n : Nat)
  | islandEntry (island : Fin 12) (part : IslandPart) (n : Nat)
  | corePort (core : Fin 96)
  | core (core : Fin 96)
  | walker (island : Fin 12) (n : Fin 8)
  | geyser (island : Fin 12)
  | bankColumn (island : Fin 12) (bank : Fin 16) (col : Fin 40)
  | postingUnit (p : Fin 256)
  /-- Storage of up to 16 frames' lines on one pseudo-channel; the frames are named. -/
  | lines (p : Fin 256) (frames : List (BitVec 32))
  /-- A stage-2 table line of copy A or B, by physical line number. -/
  | tableLine (copyB : Bool) (line : BitVec 37)
  | twinLane (n : Fin 32)
  | ethLane (port : Bool) (lane : Fin 8)
  | pcieLane (n : Fin 16)
  | custodyCore
  /-- A micro-word of a core's control store (R487). -/
  | microWord (core : Fin 96)
  /-- A whole island, pseudo-channel or memory controller, more than 16 frames, or another I/O-die unit. -/
  | device (utype : BitVec 4) (uidx : BitVec 12)
  deriving DecidableEq, Repr

/-- A far request of a peer (R449, R450). -/
inductive FarReq where
  /-- A read for a core of the requester, or for the engines and queues of its island. -/
  | read (core : Fin 96) (addr : BitVec 38) (n : Nat)
  | write (addr : BitVec 38) (cells : List Cell)
  /-- A store of a field: bits 7:0 of each cell, its mark kept (R28, R269). -/
  | field (addr : BitVec 38) (cells : List Cell)
  /-- A line of a page that moves to the peer, with its metadata (R371, R297). -/
  | line (addr : BitVec 38) (cells : List Cell) (info : LineInfo)
  /-- A posting: operation, type, sign mode, amount or new word, floor or expected word, journaling and request number. -/
  | posting (addr : BitVec 38) (op : BitVec 4) (ty : BitVec 2) (dsm : Bool) (x y : List Cell) (jr : Bool)
      (segtag : BitVec 16) (rnum : BitVec 22)
  deriving DecidableEq, Repr

/-- The body of a pool-transport datagram (R448, R449). -/
inductive PoolBody where
  | request (r : FarReq)
  | readData (core : Fin 96) (cells : List Cell) (poisoned : Bool)
  | postAck (id : Nat) (status : BitVec 4) (old : List Cell)
  /-- A home asks for a frame to move its frame to, and the answer: the frame, or a refusal (R371). -/
  | pageAsk (frame : Nat)
  | pageGive (frame : Nat) (target : Option Nat)
  /-- A page has moved (R371): world, intermediate page, old frame on the sender, new frame, its new home, the heat record's words. -/
  | pageMoved (world : Bool) (back frame target : Nat) (home : Fin 32) (record : List Nat)
  /-- The receiver of `pageMoved` has removed its translations; a frame that was given is not needed. -/
  | pageDone (frame : Nat)
  | pageDrop (target : Nat)
  | ackOnly
  /-- A body in a frame without MACsec protection (R447); every other body came protected. -/
  | unsecured (body : PoolBody)
  deriving DecidableEq, Repr

/-- What the checks of R484 read from an image copy: the parts that the flash bytes determine. -/
structure ImageInfo where
  readable : Bool := true
  keySlot : Fin 4 := 0
  keyHashOk : Bool := true
  signed : Bool := true
  svn : BitVec 12 := 0
  plvl : BitVec 8 := 0
  patchTagOk : Bool := true
  deriving DecidableEq, Repr

/-- Triggers of a warm reset (R493, R375). -/
inductive WarmCause where
  | perst | hotReset | linkDown
  deriving DecidableEq, Repr

/-- Blocks that have a lock bit (R519). -/
inductive LockBlock where
  | conversion | faultHub | clockPower
  deriving DecidableEq, Repr

/-- Supply rails of groups 2 to 6 (R530, R531). -/
inductive Rail where
  | vaux | vsram | vcoreA | vcoreB | vcoreC | vcoreD | vcoreIo | vio | vpp | vdd | vddq
  deriving DecidableEq, Repr

/-- Reference clocks (R533). -/
inductive RefClock where
  | pcie | sysclk | eth | fum
  deriving DecidableEq, Repr

/-- Configuration-space fields that the manual names (R374, R376, R521, R381): identity, the capabilities of R374 with their enable bits,
the Device Serial Number's two halves, and the six dwords of the base address registers. -/
inductive CfgField where
  | vendorId | deviceId | revisionId | classCode | subsystemVendorId | subsystemId
  | busMaster | msixEnable | msixMask | d3hot | completionTimeout
  | maxPayload | maxReadRequest | aer | ecrcGeneration | ecrcCheck | aspmSupport | aspmL1
  | serialLow | serialHigh
  | bar (n : Fin 6)
  deriving DecidableEq, Repr

/-- A configuration request. -/
inductive CfgReq where
  | read (f : CfgField)
  | write (f : CfgField) (value : BitVec 32)
  deriving DecidableEq, Repr

/-- Operations of the test access port (R507, R508). -/
inductive TapOp where
  | idcode | bypass | samplePreload | extest | ieee1500 | bist
  deriving DecidableEq, Repr

/-- The commands: one constructor for each row of the table of operations and events. A core instruction names its
core, bits 5:0 of its opcode parcel (`ob`, R66, R76), and its further parcels as fetched (R65). -/
inductive Instr where
  /-- NOP (R73): Instruction that does nothing beyond the loop-back check. -/
  | nop (c : CoreId) (ob : BitVec 6)
  /-- FENCE (R316): Waits until earlier loads, stores and postings of the core have been performed or accepted. -/
  | fence (c : CoreId) (ob : BitVec 6)
  /-- FENCE_P (R317): Waits as FENCE does and also for posting acknowledgements, and optionally for the twin's acknowledgement. -/
  | fenceP (c : CoreId) (ob : BitVec 6)
  /-- IFLUSH (R246): Waits for earlier instructions, then empties the line buffers and clears the branch-target buffer. -/
  | iflush (c : CoreId) (ob : BitVec 6)
  /-- SVC (R106): Saves PC and CSTAT, exchanges G15 with SCE_SP and enters supervisor level at SCE_PC. -/
  | svc (c : CoreId) (ob : BitVec 6)
  /-- SRET (R107): Checks SSTAT, then restores CSTAT and the stack pointer and returns to LNK. -/
  | sret (c : CoreId) (ob : BitVec 6)
  /-- RTE (R209): Checks and restores an exception frame, or writes the frame back into a task slot. -/
  | rte (c : CoreId) (ob : BitVec 6)
  /-- MFC (R58): Reads a control register of the current context. -/
  | mfc (c : CoreId) (ob : BitVec 6) (d : Spec)
  /-- MTC (R58): Writes a control register of the current context, subject to rights and exposed distances. -/
  | mtc (c : CoreId) (ob : BitVec 6) (a : Spec)
  /-- MFCW (R58): From CS, reads the ledger-world copy of a per-world control register. -/
  | mfcw (c : CoreId) (ob : BitVec 6) (d : Spec)
  /-- MTCW (R58): From CS, writes the ledger-world copy of a per-world control register. -/
  | mtcw (c : CoreId) (ob : BitVec 6) (a : Spec)
  /-- MFB (R53): Reads a register of the bank that BWIN selects. -/
  | mfb (c : CoreId) (ob : BitVec 6) (d : Spec)
  /-- MTB (R53): Writes a register of the bank that BWIN selects. -/
  | mtb (c : CoreId) (ob : BitVec 6) (a : Spec)
  /-- LSEG (R61): Loads a segment register from the descriptor table with the ordered checks. -/
  | lseg (c : CoreId) (ob : BitVec 6) (a : Spec)
  /-- SSEG (R61): Stores the selector of a segment register as a word. -/
  | sseg (c : CoreId) (ob : BitVec 6) (d : Spec)
  /-- BR (R98): Unconditional relative branch. -/
  | br (c : CoreId) (ob : BitVec 6) (ps : List Parcel)
  /-- BZ (R98): Branches when all bits of Gt are zero. -/
  | bz (c : CoreId) (ob : BitVec 6) (ps : List Parcel)
  /-- BNZ (R98): Branches when any bit of Gt is one. -/
  | bnz (c : CoreId) (ob : BitVec 6) (ps : List Parcel)
  /-- JMP (R99): Continues at the parcel index that its operand supplies. -/
  | jmp (c : CoreId) (ob : BitVec 6) (a : Spec)
  /-- CALL (R104): Pushes the mask, the return index and the named registers through S1, then branches. -/
  | call (c : CoreId) (ob : BitVec 6) (mask : Parcel) (ps : List Parcel)
  /-- RET (R105): Checks the stacked mask, restores the named registers and G15, and returns. -/
  | ret (c : CoreId) (ob : BitVec 6)
  /-- LOOP (R100): Starts a hardware loop, pushing the loop stack, or skips the body when the count is zero. -/
  | loop (c : CoreId) (ob : BitVec 6) (ps : List Parcel) (a : Spec)
  /-- LBRK (R102): Ends the innermost loop and continues at its LEXIT. -/
  | lbrk (c : CoreId) (ob : BitVec 6)
  /-- TLBI (R348): Waits for earlier stores, then launches a device-wide translation invalidation of the selected kind. -/
  | tlbi (c : CoreId) (ob : BitVec 6) (a : Spec)
  /-- TLBSYNC (R350): Waits until earlier invalidations are applied everywhere and the accesses that used them are performed. -/
  | tlbsync (c : CoreId) (ob : BitVec 6)
  /-- CWR (R49): Writes parcels into code space through a code window and invalidates the affected code-cache lines. -/
  | cwr (c : CoreId) (ob : BitVec 6) (a d : Spec)
  /-- CRD (R49): Reads parcels from code space through a code window into half words. -/
  | crd (c : CoreId) (ob : BitVec 6) (a d : Spec)
  /-- SGO_START (R258): SGO with CMD 0: takes a snapshot and queues a new stream context, or is refused. -/
  | sgoStart (c : CoreId) (ob : BitVec 6) (a : Spec)
  /-- SGO_RESUME (R258): SGO with CMD 1: takes a fresh snapshot and re-queues a paused or stopped context. -/
  | sgoResume (c : CoreId) (ob : BitVec 6) (a : Spec)
  /-- SGO_CANCEL (R258): SGO with CMD 2: frees a context, or stops a running one at its next element boundary. -/
  | sgoCancel (c : CoreId) (ob : BitVec 6) (a : Spec)
  /-- TWAIT (R226): Consumes awaited events, yields, or blocks the task slot. -/
  | twait (c : CoreId) (ob : BitVec 6) (a : Spec)
  /-- TSIG (R227): KIND 0: sends a signal event to a slot of a core. -/
  | tsig (c : CoreId) (ob : BitVec 6) (a : Spec)
  /-- GATE_CALL (R208): TSIG with KIND 3 from LS: delivers a custody-HDT gate. -/
  | gateCall (c : CoreId) (ob : BitVec 6) (a : Spec)
  /-- TBRD (R75): Reads the 64-bit Fumarole time base into a double word. -/
  | tbrd (c : CoreId) (ob : BitVec 6) (d : Spec)
  /-- TSLOT_READ (R224): Reads a field of a task slot, or XOWN. -/
  | tslotRead (c : CoreId) (ob : BitVec 6) (a d : Spec)
  /-- TSLOT_WRITE (R224): Writes a field of a task slot, or XOWN, with its refusal checks. -/
  | tslotWrite (c : CoreId) (ob : BitVec 6) (a d : Spec)
  /-- IDLE (R230): Stops fetching until an acceptable request or another ready slot exists. -/
  | idle (c : CoreId) (ob : BitVec 6)
  /-- ADD (R87): Two's complement addition of the selected width; sets OV on overflow. -/
  | add (c : CoreId) (ob : BitVec 6) (a b d : Spec)
  /-- SUB (R87): Two's complement subtraction; sets OV on overflow. -/
  | sub (c : CoreId) (ob : BitVec 6) (a b d : Spec)
  /-- MUL (R87): Signed multiply, writing the low bits of the product. -/
  | mul (c : CoreId) (ob : BitVec 6) (a b d : Spec)
  /-- MULU (R87): Unsigned multiply, writing the low bits of the product. -/
  | mulu (c : CoreId) (ob : BitVec 6) (a b d : Spec)
  /-- DIV (R87): Signed divide with the remainder to Gq. -/
  | div (c : CoreId) (ob : BitVec 6) (a b d : Spec)
  /-- DIVU (R87): Unsigned divide with the remainder to Gq. -/
  | divu (c : CoreId) (ob : BitVec 6) (a b d : Spec)
  /-- NEG (R87): Negation. -/
  | neg (c : CoreId) (ob : BitVec 6) (a d : Spec)
  /-- ABS (R87): Absolute value. -/
  | abs (c : CoreId) (ob : BitVec 6) (a d : Spec)
  /-- BESIDE_PIPE_COMPLETE (R91): Completion of a multiply, divide, decimal or floating operation that runs beside the pipeline, writing its results. -/
  | besidePipeComplete (c : CoreId)
  /-- MOV (R92): Copies an integer operand. -/
  | mov (c : CoreId) (ob : BitVec 6) (a d : Spec)
  /-- AND (R92): Bitwise AND. -/
  | and (c : CoreId) (ob : BitVec 6) (a b d : Spec)
  /-- OR (R92): Bitwise OR. -/
  | or (c : CoreId) (ob : BitVec 6) (a b d : Spec)
  /-- XOR (R92): Bitwise exclusive OR. -/
  | xor (c : CoreId) (ob : BitVec 6) (a b d : Spec)
  /-- ANDN (R92): AND with the complement of the second operand. -/
  | andn (c : CoreId) (ob : BitVec 6) (a b d : Spec)
  /-- NOT (R92): Bitwise complement. -/
  | not (c : CoreId) (ob : BitVec 6) (a d : Spec)
  /-- SHL (R93): Logical shift left. -/
  | shl (c : CoreId) (ob : BitVec 6) (a b d : Spec)
  /-- SHR (R93): Logical shift right. -/
  | shr (c : CoreId) (ob : BitVec 6) (a b d : Spec)
  /-- SHA (R93): Arithmetic shift right. -/
  | sha (c : CoreId) (ob : BitVec 6) (a b d : Spec)
  /-- ROL (R93): Rotate left. -/
  | rol (c : CoreId) (ob : BitVec 6) (a b d : Spec)
  /-- ROR (R93): Rotate right. -/
  | ror (c : CoreId) (ob : BitVec 6) (a b d : Spec)
  /-- INS (R94): Inserts a bit field into the destination. -/
  | ins (c : CoreId) (ob : BitVec 6) (a b d : Spec)
  /-- EXT (R94): Extracts a sign-extended bit field. -/
  | ext (c : CoreId) (ob : BitVec 6) (a b d : Spec)
  /-- EXTU (R94): Extracts a zero-extended bit field. -/
  | extu (c : CoreId) (ob : BitVec 6) (a b d : Spec)
  /-- CLZ (R95): Counts leading zero bits. -/
  | clz (c : CoreId) (ob : BitVec 6) (a d : Spec)
  /-- POPC (R95): Counts one bits. -/
  | popc (c : CoreId) (ob : BitVec 6) (a d : Spec)
  /-- PERM (R96): Permutes the cells of a double word under a selector, optionally clearing marks. -/
  | perm (c : CoreId) (ob : BitVec 6) (a b d : Spec)
  /-- CEQ (R97): Compares for equality into a G register. -/
  | ceq (c : CoreId) (ob : BitVec 6) (a b d : Spec)
  /-- CNE (R97): Compares for inequality. -/
  | cne (c : CoreId) (ob : BitVec 6) (a b d : Spec)
  /-- CLT (R97): Signed less-than compare. -/
  | clt (c : CoreId) (ob : BitVec 6) (a b d : Spec)
  /-- CLE (R97): Signed less-or-equal compare. -/
  | cle (c : CoreId) (ob : BitVec 6) (a b d : Spec)
  /-- CLTU (R97): Unsigned less-than compare. -/
  | cltu (c : CoreId) (ob : BitVec 6) (a b d : Spec)
  /-- CLEU (R97): Unsigned less-or-equal compare. -/
  | cleu (c : CoreId) (ob : BitVec 6) (a b d : Spec)
  /-- TST (R97): Tests whether the AND of the operands is non-zero. -/
  | tst (c : CoreId) (ob : BitVec 6) (a b d : Spec)
  /-- DADD (R118): Packed decimal addition with truncation on overflow. -/
  | dadd (c : CoreId) (ob : BitVec 6) (lp : Parcel) (a b d : Spec)
  /-- DSUB (R118): Packed decimal subtraction. -/
  | dsub (c : CoreId) (ob : BitVec 6) (lp : Parcel) (a b d : Spec)
  /-- DMUL (R122): Packed decimal multiplication built in the destination, with micro-trap points. -/
  | dmul (c : CoreId) (ob : BitVec 6) (lp : Parcel) (a b d : Spec)
  /-- DDIV (R123): Packed decimal division, with the quotient to d and the remainder to a. -/
  | ddiv (c : CoreId) (ob : BitVec 6) (lp : Parcel) (a b d : Spec)
  /-- DCMP (R119): Packed decimal compare into a G register pair. -/
  | dcmp (c : CoreId) (ob : BitVec 6) (lp : Parcel) (a b d : Spec)
  /-- DSRP (R127): Decimal shift and round. -/
  | dsrp (c : CoreId) (ob : BitVec 6) (lp : Parcel) (a b d : Spec)
  /-- DZAD (R118): Decimal zero-and-add, which normalises a field. -/
  | dzad (c : CoreId) (ob : BitVec 6) (lp : Parcel) (a d : Spec)
  /-- DTST (R120): Tests the validity of a packed field. -/
  | dtst (c : CoreId) (ob : BitVec 6) (lp : Parcel) (a d : Spec)
  /-- CVZP (R129): Converts zoned to packed. -/
  | cvzp (c : CoreId) (ob : BitVec 6) (lp : Parcel) (a d : Spec)
  /-- CVPZ (R129): Converts packed to zoned. -/
  | cvpz (c : CoreId) (ob : BitVec 6) (lp : Parcel) (a d : Spec)
  /-- CVDB (R131): Converts packed to a binary word. -/
  | cvdb (c : CoreId) (ob : BitVec 6) (lp : Parcel) (a d : Spec)
  /-- CVDX (R131): Converts packed to a binary double word. -/
  | cvdx (c : CoreId) (ob : BitVec 6) (lp : Parcel) (a d : Spec)
  /-- CVBD (R132): Converts a binary word to packed. -/
  | cvbd (c : CoreId) (ob : BitVec 6) (lp : Parcel) (a d : Spec)
  /-- CVXD (R132): Converts a binary double word to packed. -/
  | cvxd (c : CoreId) (ob : BitVec 6) (lp : Parcel) (a d : Spec)
  /-- CVDQ (R133): Converts packed to decimal128. -/
  | cvdq (c : CoreId) (ob : BitVec 6) (lp : Parcel) (a d : Spec)
  /-- CVQD (R134): Rounds decimal128 to an integer and converts it to packed. -/
  | cvqd (c : CoreId) (ob : BitVec 6) (lp : Parcel) (a d : Spec)
  /-- DADDM (R111): To-mark form of DADD. -/
  | daddm (c : CoreId) (ob : BitVec 6) (lp : Parcel) (a b d : Spec)
  /-- DSUBM (R111): To-mark form of DSUB. -/
  | dsubm (c : CoreId) (ob : BitVec 6) (lp : Parcel) (a b d : Spec)
  /-- DCMPM (R111): To-mark form of DCMP. -/
  | dcmpm (c : CoreId) (ob : BitVec 6) (lp : Parcel) (a b d : Spec)
  /-- DZADM (R111): To-mark form of DZAD. -/
  | dzadm (c : CoreId) (ob : BitVec 6) (lp : Parcel) (a d : Spec)
  /-- DTSTM (R111): To-mark form of DTST. -/
  | dtstm (c : CoreId) (ob : BitVec 6) (lp : Parcel) (a d : Spec)
  /-- CVZPM (R112): To-mark CVZP that also writes destination marks. -/
  | cvzpm (c : CoreId) (ob : BitVec 6) (lp : Parcel) (a d : Spec)
  /-- CVPZM (R112): To-mark CVPZ that also writes destination marks. -/
  | cvpzm (c : CoreId) (ob : BitVec 6) (lp : Parcel) (a d : Spec)
  /-- DCLZ (R121): Counts the leading zero digits of a packed field. -/
  | dclz (c : CoreId) (ob : BitVec 6) (lp : Parcel) (a d : Spec)
  /-- ZADD (R130): Zoned decimal addition. -/
  | zadd (c : CoreId) (ob : BitVec 6) (lp : Parcel) (a b d : Spec)
  /-- ZSUB (R130): Zoned decimal subtraction. -/
  | zsub (c : CoreId) (ob : BitVec 6) (lp : Parcel) (a b d : Spec)
  /-- ZMUL (R130): Zoned decimal multiplication. -/
  | zmul (c : CoreId) (ob : BitVec 6) (lp : Parcel) (a b d : Spec)
  /-- ZDIV (R130): Zoned decimal division. -/
  | zdiv (c : CoreId) (ob : BitVec 6) (lp : Parcel) (a b d : Spec)
  /-- ZCMP (R130): Zoned decimal compare. -/
  | zcmp (c : CoreId) (ob : BitVec 6) (lp : Parcel) (a b d : Spec)
  /-- ZSRP (R130): Zoned decimal shift and round. -/
  | zsrp (c : CoreId) (ob : BitVec 6) (lp : Parcel) (a b d : Spec)
  /-- ZZAD (R130): Zoned zero-and-add. -/
  | zzad (c : CoreId) (ob : BitVec 6) (lp : Parcel) (a d : Spec)
  /-- ZTST (R130): Tests the validity of a zoned field. -/
  | ztst (c : CoreId) (ob : BitVec 6) (lp : Parcel) (a d : Spec)
  /-- MVA (R149): Ascending cell move with propagating overlap. -/
  | mva (c : CoreId) (ob : BitVec 6) (a d : Spec)
  /-- MVL (R150): Move whose result is that of reading the whole source first. -/
  | mvl (c : CoreId) (ob : BitVec 6) (a d : Spec)
  /-- MVF (R151): Move with fill. -/
  | mvf (c : CoreId) (ob : BitVec 6) (a d f : Spec)
  /-- MVM (R152): Moves or maps marks. -/
  | mvm (c : CoreId) (ob : BitVec 6) (a d : Spec)
  /-- CMC (R153): Compares two cell strings. -/
  | cmc (c : CoreId) (ob : BitVec 6) (a b d : Spec)
  /-- XLAT (R156): Translates a string in place through a table. -/
  | xlat (c : CoreId) (ob : BitVec 6) (d t : Spec)
  /-- XTST (R157): Searches for the first cell with a non-zero table entry. -/
  | xtst (c : CoreId) (ob : BitVec 6) (a t d : Spec)
  /-- SRC (R154): Searches for a cell that matches G v under the variant. -/
  | src (c : CoreId) (ob : BitVec 6) (a v d : Spec)
  /-- SRM (R155): Searches for a marked or unmarked cell. -/
  | srm (c : CoreId) (ob : BitVec 6) (a d : Spec)
  /-- EDIT (R163): Edits a packed amount into a pattern after a pre-check. -/
  | edit (c : CoreId) (ob : BitVec 6) (p a d g : Spec)
  /-- EDTM (R164): EDIT-AND-MARK: edits and marks the first significant cell. -/
  | edtm (c : CoreId) (ob : BitVec 6) (p a d g m : Spec)
  /-- FADD (R170): binary64 addition. -/
  | fadd (c : CoreId) (ob : BitVec 6) (a b d : Spec)
  /-- FSUB (R170): binary64 subtraction. -/
  | fsub (c : CoreId) (ob : BitVec 6) (a b d : Spec)
  /-- FMUL (R170): binary64 multiplication. -/
  | fmul (c : CoreId) (ob : BitVec 6) (a b d : Spec)
  /-- FDIV (R170): binary64 division. -/
  | fdiv (c : CoreId) (ob : BitVec 6) (a b d : Spec)
  /-- FMA (R170): binary64 fused multiply-add. -/
  | fma (c : CoreId) (ob : BitVec 6) (a b e d : Spec)
  /-- FSQRT (R170): binary64 square root. -/
  | fsqrt (c : CoreId) (ob : BitVec 6) (a d : Spec)
  /-- FCMP (R177): binary64 compare under a predicate. -/
  | fcmp (c : CoreId) (ob : BitVec 6) (a b d : Spec)
  /-- FCVT (R178): binary64 conversion of the selected kind. -/
  | fcvt (c : CoreId) (ob : BitVec 6) (a d : Spec)
  /-- QADD (R170): decimal128 addition. -/
  | qadd (c : CoreId) (ob : BitVec 6) (a b d : Spec)
  /-- QSUB (R170): decimal128 subtraction. -/
  | qsub (c : CoreId) (ob : BitVec 6) (a b d : Spec)
  /-- QMUL (R170): decimal128 multiplication. -/
  | qmul (c : CoreId) (ob : BitVec 6) (a b d : Spec)
  /-- QDIV (R170): decimal128 division. -/
  | qdiv (c : CoreId) (ob : BitVec 6) (a b d : Spec)
  /-- QFMA (R170): decimal128 fused multiply-add. -/
  | qfma (c : CoreId) (ob : BitVec 6) (a b e d : Spec)
  /-- QSQRT (R170): decimal128 square root. -/
  | qsqrt (c : CoreId) (ob : BitVec 6) (a d : Spec)
  /-- QCMP (R177): decimal128 compare under a predicate. -/
  | qcmp (c : CoreId) (ob : BitVec 6) (a b d : Spec)
  /-- QQUA (R176): Quantizes a decimal128 value to the exponent of a second operand. -/
  | qqua (c : CoreId) (ob : BitVec 6) (a b d : Spec)
  /-- QCVT (R178): decimal128 conversion of the selected kind. -/
  | qcvt (c : CoreId) (ob : BitVec 6) (a d : Spec)
  /-- FMOV (R179): Bit copy of a binary64 value of the selected kind. -/
  | fmov (c : CoreId) (ob : BitVec 6) (a d : Spec)
  /-- QMOV (R179): Bit copy of a decimal128 value of the selected kind. -/
  | qmov (c : CoreId) (ob : BitVec 6) (a d : Spec)
  /-- VLD (R187): Vector load of active elements, resumable through VRESUME. -/
  | vld (c : CoreId) (ob : BitVec 6) (a d : Spec)
  /-- VST (R187): Vector store of active elements. -/
  | vst (c : CoreId) (ob : BitVec 6) (a d : Spec)
  /-- VADD (R190): Lane-wise add: integer, decimal or binary64. -/
  | vadd (c : CoreId) (ob : BitVec 6) (a b d : Spec)
  /-- VSUB (R190): Lane-wise subtract. -/
  | vsub (c : CoreId) (ob : BitVec 6) (a b d : Spec)
  /-- VMUL (R190): Lane-wise multiply. -/
  | vmul (c : CoreId) (ob : BitVec 6) (a b d : Spec)
  /-- VMULW (R191): Widening word multiply into double words. -/
  | vmulw (c : CoreId) (ob : BitVec 6) (a b d : Spec)
  /-- VDMUL (R191): P8 multiply into P16 products. -/
  | vdmul (c : CoreId) (ob : BitVec 6) (a b d : Spec)
  /-- VDOT (R192): Binary dot-product accumulation. -/
  | vdot (c : CoreId) (ob : BitVec 6) (a b d : Spec)
  /-- VDDOT (R192): Decimal dot-product accumulation into P32. -/
  | vddot (c : CoreId) (ob : BitVec 6) (a b d : Spec)
  /-- VAND (R189): Lane-wise AND. -/
  | vand (c : CoreId) (ob : BitVec 6) (a b d : Spec)
  /-- VOR (R189): Lane-wise OR. -/
  | vor (c : CoreId) (ob : BitVec 6) (a b d : Spec)
  /-- VXOR (R189): Lane-wise exclusive OR. -/
  | vxor (c : CoreId) (ob : BitVec 6) (a b d : Spec)
  /-- VCMP (R193): Lane-wise compare into a mask register. -/
  | vcmp (c : CoreId) (ob : BitVec 6) (a b d : Spec)
  /-- VSEL (R193): Selects elements under a mask. -/
  | vsel (c : CoreId) (ob : BitVec 6) (a b d : Spec)
  /-- VMASK (R194): Operates on whole mask registers, or exchanges a mask with a word. -/
  | vmask (c : CoreId) (ob : BitVec 6) (a b d : Spec)
  /-- SVL (R186): Sets the element width and active vector length. -/
  | svl (c : CoreId) (ob : BitVec 6) (a d : Spec)
  /-- PADD (R303): Sends a decimal add posting to the unit that holds the value. -/
  | padd (c : CoreId) (ob : BitVec 6) (a d : Spec)
  /-- PADF (R303): Sends a decimal add-with-floor posting. -/
  | padf (c : CoreId) (ob : BitVec 6) (a f d : Spec)
  /-- PSWP (R303): Sends a word swap. -/
  | pswp (c : CoreId) (ob : BitVec 6) (r d : Spec)
  /-- PCAS (R303): Sends a word compare-and-swap. -/
  | pcas (c : CoreId) (ob : BitVec 6) (e n d : Spec)
  /-- PBAD (R303): Sends a binary add posting. -/
  | pbad (c : CoreId) (ob : BitVec 6) (a d : Spec)
  /-- LKT (R314): Takes a task-tagged lock by compare-and-swap and registers it. -/
  | lkt (c : CoreId) (ob : BitVec 6) (lk g : Spec)
  /-- LKR (R314): Waits as FENCE does, then releases a task-tagged lock. -/
  | lkr (c : CoreId) (ob : BitVec 6) (lk : Spec)
  /-- POSTING_STATUS_RETURN (R312): The acknowledgement of a posting reaches the core, which writes the status and old value. -/
  | postingStatusReturn (c : CoreId)
  /-- INTERRUPT_REQUEST_ARRIVAL (R222): A distributor request reaches its core and is arbitrated. -/
  | interruptRequestArrival (c : CoreId)
  /-- INTERRUPT_ACCEPT (R214): At a boundary or acceptance point, the core accepts a pending request and performs the entry. -/
  | interruptAccept (c : CoreId)
  /-- SCHEDULER_EVENT (R225): A doorbell, Geyser, posting, comparator or signal event reaches a task slot. -/
  | schedulerEvent (c : CoreId) (slot : SlotId) (ev : Fin 5) (seqno : Nat)
  /-- SIGNAL_ARRIVAL (R227): A TSIG signal reaches its target core and is checked there. -/
  | signalArrival (c : CoreId)
  /-- PREEMPT (R228): A higher-priority ready slot pre-empts the running task at the next boundary. -/
  | preempt (c : CoreId)
  /-- DET_MODE_ENTER (R252): After the store buffer drains, the core invalidates L1, clears the BTB and enters deterministic mode. -/
  | detModeEnter (c : CoreId)
  /-- STORE_BUFFER_DRAIN (R243): The oldest store-buffer entry drains to L1 and beyond. -/
  | storeBufferDrain (c : CoreId)
  /-- LINE_BUFFER_FILL (R238): A requested code line arrives in a line buffer. -/
  | lineBufferFill (c : CoreId) (world : Bool) (line : BitVec 31) (demand : Bool)
  /-- TABLE_WALK (R341): A walker completes a two-stage translation, or ends it with a fault. -/
  | tableWalk (i : IslandId) (q : WalkReq)
  /-- INVALIDATION_ARRIVAL (R349): A broadcast invalidation reaches an island, which removes matching entries and acknowledges. -/
  | invalidationArrival (i : IslandId)
  /-- EPOCH_AGING (R352): At an epoch boundary, aged translations are removed. -/
  | epochAging (i : IslandId)
  /-- EPOCHAGE_WRITE (R352): Enabling aging removes at once the entries of that world that are already four epochs old. -/
  | epochageWrite (v : View) (value : Reg)
  /-- DESCRIPTOR_CHECK (R266): The Geyser engine fetches and checks the next stream descriptor, pausing on a descriptor fault. -/
  | descriptorCheck (i : IslandId)
  /-- ELEMENT_COMMIT (R280): A stream element commits, issuing its store or post and its RS cell. -/
  | elementCommit (i : IslandId)
  /-- DESCRIPTOR_END (R275): A descriptor ends once its stores are visible, writing any accumulator and raising any NOTE event. -/
  | descriptorEnd (i : IslandId)
  /-- GEYSER_FENCE (R275): A KIND 3 descriptor completes when every earlier post, and optionally the twin, has acknowledged. -/
  | geyserFence (i : IslandId)
  /-- PROGRAM_END (R261): The program ends after its posts are acknowledged; the SCB is written and the completion event raised. -/
  | programEnd (i : IslandId)
  /-- CONTEXT_SWITCH (R260): The engine switches to the next queued context at a permitted point. -/
  | contextSwitch (i : IslandId)
  /-- RUN_FORMATION (R276): A run of records is sorted in WK and written to DS. -/
  | runFormation (i : IslandId)
  /-- MERGE_PASS (R278): Pairs of sorted runs are merged into DS. -/
  | mergePass (i : IslandId)
  /-- POSTING_ARRIVAL (R309): A posting reaches its posting unit and joins or opens a group for its line. -/
  | postingArrival (p : PuId)
  /-- GROUP_SERVICE (R309): Line data arrives; the group's postings are applied in order, records numbered, and the line written once. -/
  | groupService (p : PuId)
  /-- POSTING_ACKNOWLEDGE (R19): Once the line write is accepted and Sinter has the record, the unit acknowledges the posting. -/
  | postingAcknowledge (p : PuId)
  /-- BANK_ATOMIC (R325): The island's bank atomic unit performs one posting operation on bank-resident values. -/
  | bankAtomic (i : IslandId)
  /-- SCRUB_READ (R299): The memory controller scrubs a line, correcting or poisoning it. -/
  | scrubRead (p : PuId) (slot : Nat) (upset : Upset)
  /-- REFRESH (R300): Stack refresh or refresh-management command. -/
  | refresh (k : StackId) (management : Bool)
  /-- BANK_HANDOVER (R323): A write of OWNER starts an ordinary handover and sets PENDING. -/
  | bankHandover (v : View) (i : IslandId) (b : BankId) (owner : BitVec 3)
  /-- HANDOVER_COMPLETE (R323): The old owner's checked writes complete; OWNER changes and PENDING clears. -/
  | handoverComplete (i : IslandId) (b : BankId)
  /-- FORCED_HANDOVER (R323): An OWNER write with FORCE changes the owner at once and discards queued writes. -/
  | forcedHandover (v : View) (i : IslandId) (b : BankId) (owner : BitVec 3)
  /-- BANKREP_WRITE (R326): Assigns or removes a field column repair, which takes effect at once. -/
  | bankrepWrite (v : View) (i : IslandId) (b : BankId) (value : Reg)
  /-- HEAT_SAMPLE (R353): A requester's sample reaches Caldera's sample queue. -/
  | heatSample (frame : BitVec 32) (world : Bool) (src : Fin 13) (peer : Fin 32)
  /-- WINDOW_END (R354): At a window end, Caldera halves heat counts, reads hints, and chooses moves and steering. -/
  | windowEnd
  /-- FORWARDING_LAPSE (R367): A forwarding entry lapses after FWDT. -/
  | forwardingLapse (c : CoreId)
  /-- MOVE_BUDGET_TICK (R358): Each millisecond, waiting moves begin within the budget. -/
  | moveBudgetTick
  /-- PAGE_MOVE_START (R360): Steps 1 and 2 of a page move: record marked moving and move state entered. -/
  | pageMoveStart
  /-- PAGE_MOVE_COPY_DONE (R360): The 32 lines are copied; the stage-2 leaves are rewritten and the invalidation is launched. -/
  | pageMoveCopyDone (k : Fin 8)
  /-- PAGE_MOVE_FINISH (R360): The invalidation is acknowledged; move state ends and the record moves to the target. -/
  | pageMoveFinish (k : Fin 8)
  /-- MOVE_ABANDON (R362): A move is abandoned before step 4 when its copy overruns or its units are fenced. -/
  | moveAbandon (k : Fin 8)
  /-- CLMOVE_READ (R373): An 8-byte read returns and removes the oldest task-move record. -/
  | clmoveRead (v : View) (size : Fin 9)
  /-- CLFRZ_WRITE (R372): Freezes or thaws a world, abandoning moves still at steps 1 to 3. -/
  | clfrzWrite (v : View) (value : Reg)
  /-- CLHTB_ENABLE (R539): Writing CLHTB.V 1 loads the band-policy array from the band table. -/
  | clhtbEnable (v : View) (value : Reg)
  /-- SQ_DOORBELL (R386): SQDB write gives a new submission tail. -/
  | sqDoorbell (q : QueueId) (value : BitVec 32)
  /-- CQ_DOORBELL (R386): CQDB write releases completion entries. -/
  | cqDoorbell (q : QueueId) (value : BitVec 32)
  /-- QUEUE_ENABLE (R384): QCFG.EN set to 1 runs the enable checks and starts the queue. -/
  | queueEnable (v : View) (q : QueueId) (value : Reg)
  /-- QUEUE_RESET (R385): QRST, or EN set to 0, starts a queue reset. -/
  | queueReset (v : View) (q : QueueId) (value : Reg)
  /-- QUEUE_RESET_DONE (R385): When no delivered descriptor remains, the queue returns to its enable values. -/
  | queueResetDone (q : QueueId)
  /-- DESCRIPTOR_FETCH (R387): A read of submitted descriptors from host memory completes. -/
  | descriptorFetch (q : QueueId) (bytes : List Byte) (ok : Bool)
  /-- NOP_DESCRIPTOR (R395): NOP descriptor, finished by the queue manager. -/
  | nopDescriptor (q : QueueId)
  /-- WRITE_DESCRIPTOR (R394): WRITE transfers and converts host bytes into cells. -/
  | writeDescriptor (q : QueueId)
  /-- READ_DESCRIPTOR (R394): READ converts cells into host bytes. -/
  | readDescriptor (q : QueueId)
  /-- POST_DESCRIPTOR (R392): POST is checked, converted if batch, and delivered to the bound task. -/
  | postDescriptor (q : QueueId)
  /-- MSG_DESCRIPTOR (R396): MSG is delivered to the bound task. -/
  | msgDescriptor (q : QueueId)
  /-- STREAM_DESCRIPTOR (R398): STREAM starts a Geyser program for the bound slot. -/
  | streamDescriptor (q : QueueId)
  /-- CONVERSION_RECORD (R413): The conversion engine converts one record under its profile. -/
  | conversionRecord (q : QueueId)
  /-- HOST_DMA_COMPLETE (R394): A host memory read or write of a transfer completes or fails. -/
  | hostDmaComplete (q : QueueId) (bytes : List Byte) (ok : Bool)
  /-- QDONE (R397): A task finishes a delivered descriptor. -/
  | qdone (v : View) (q : QueueId) (value : Reg)
  /-- COMPLETION_WRITE (R399): After its waits, a completion entry is written to the completion ring. -/
  | completionWrite (q : QueueId)
  /-- COALESCE_TIMEOUT (R402): ITIME expires since the first unsignalled completion. -/
  | coalesceTimeout (q : QueueId)
  /-- MSIX_UNMASK (R402): Unmasking a vector with its pending bit set sends the message. -/
  | msixUnmask (fn : Bool) (vector : Fin 512)
  /-- CELL_WINDOW_WRITE (R378): A host write TLP to BAR4 stores bytes into cells. -/
  | cellWindowWrite (offset : BitVec 36) (bytes : List Byte)
  /-- CELL_WINDOW_READ (R378): A host read TLP to BAR4 returns cell bytes. -/
  | cellWindowRead (offset : BitVec 36) (n : Nat)
  /-- HOST_READ_COMPLETION (R381): The completion of a host-window read arrives, or the read times out. -/
  | hostReadCompletion (c : CoreId) (bytes : List Byte) (ok : Bool)
  /-- FUNCTION_LEVEL_RESET (R385): FLR of PF0 or PF1 resets its queues, cell window and ISRC fields. -/
  | functionLevelReset (fn : Bool)
  /-- LINK_RETRAIN (R375): The PCIe link retrains at a lower rate or width. -/
  | linkRetrain (rate : LinkRate) (width : LinkWidth)
  /-- SPDM_REQUEST (R377): An SPDM request over MCTP is answered by the custody controller. -/
  | spdmRequest (transport : Transport) (code : SpdmCode) (param : Byte)
  /-- SOURCE_EVENT (R222): A distributor source event sets PEND and sends the request. -/
  | sourceEvent (n : SourceId)
  /-- SWSET (R221): Writing SWSET raises the source's event. -/
  | swset (v : View) (n : SourceId)
  /-- ISRC_ROUTE_CHANGE (R222): A routing write while PEND withdraws and resends the request. -/
  | isrcRouteChange (v : View) (n : SourceId) (value : Reg)
  /-- JOIN (R444): SNCMD JOIN moves the devices to JOINING and starts resynchronisation. -/
  | join (v : View) (twin : TwinId)
  /-- PROMOTE (R439): SNCMD PROMOTE makes a standby promote itself, with a takeover or FORCE. -/
  | promote (v : View) (force : Bool)
  /-- DEMOTE (R445): SNCMD DEMOTE hands the primary role to the standby without loss. -/
  | demote (v : View)
  /-- RESOLVE_CONTINUE (R434): A held device becomes ALONE with a new epoch. -/
  | resolveContinue (v : View)
  /-- RESOLVE_YIELD (R434): A held device becomes STALE. -/
  | resolveYield (v : View)
  /-- LEAVE (R417): Returns a device to SOLO. -/
  | leave (v : View)
  /-- RECORD_HANDOVER (R422): A journal record reaches Sinter, which writes it to the ring and sends it in SEQ order. -/
  | recordHandover
  /-- RECORD_APPLY (R427): A journal record arrives at a standby and is applied absolutely. -/
  | recordApply (r : Record)
  /-- ACK_TIMER (R427): The standby sends a cumulative acknowledgement within 1 µs of the last one. -/
  | ackTimer
  /-- TWIN_ACK_RECEIVE (R427): A cumulative acknowledgement reaches the primary, releasing waits and ring space. -/
  | twinAckReceive (seq : BitVec 64)
  /-- ASYNC_LAG_EXCEEDED (R428): The oldest unacknowledged record exceeds LAG; asynchronous completions are held. -/
  | asyncLagExceeded
  /-- HEARTBEAT_SEND (R438): A heartbeat is sent every 2 µs. -/
  | heartbeatSend
  /-- HEARTBEAT_RECEIVE (R438): A heartbeat arrives, carrying role, epoch and SEQ, and steering time. -/
  | heartbeatReceive (standby : Bool) (epoch : BitVec 32) (seq : BitVec 64) (time : Nat)
  /-- TWIN_ARB_TOGGLE (R438): The primary toggles TWIN_ARB every 5 µs. -/
  | twinArbToggle
  /-- TWIN_ARB_SAMPLE (R438): The primary samples TWIN_ARB 1 µs after a change and may clear ARBOK. -/
  | twinArbSample (level : Bool)
  /-- TWIN_ARB_EDGE (R438): A standby observes a TWIN_ARB edge. -/
  | twinArbEdge
  /-- HEARTBEAT_TIMEOUT (R439): 30 µs without heartbeats leads to promotion, STALE, ALONE or FENCED. -/
  | heartbeatTimeout
  /-- DYING_GASP_RECEIVE (R439): A dying gasp from the primary makes the standby promote. -/
  | dyingGaspReceive
  /-- TAKEOVER_FRAME_RECEIVE (R439): A takeover frame makes the receiver the new primary. -/
  | takeoverFrameReceive (seq : BitVec 64)
  /-- LINE_COPY_REQUEST (R444): A joining device requests a line from the primary. -/
  | lineCopyRequest (line : BitVec 37)
  /-- LINE_COPY_RESPONSE (R444): A copied line with its metadata arrives and is written. -/
  | lineCopyResponse (line : BitVec 37) (cells : List Cell) (info : LineInfo)
  /-- RESYNC_COMPLETE (R444): The copy ends and the twin has applied every earlier record; the pair becomes PAIRED. -/
  | resyncComplete
  /-- FORWARDED_DESCRIPTOR (R431): In lock mode, a descriptor forwarded by the primary arrives at the standby. -/
  | forwardedDescriptor (q : QueueId) (index : BitVec 16) (bytes : List Byte)
  /-- CLOSE_MARKER (R432): The primary closes a batch after 4,096 records or 50 µs. -/
  | closeMarker
  /-- BATCH_DIGEST (R433): The standby's batch digest reaches the primary and is compared. -/
  | batchDigest (digest : BitVec 64)
  /-- PPS_OUT_PULSE (R436): TIMEBASE_PPS out pulses at each whole second. -/
  | ppsOutPulse
  /-- PPS_IN_EDGE (R436): An edge on TIMEBASE_PPS in steers the time base. -/
  | ppsInEdge
  /-- PTP_MESSAGE (R437): A PTP event message is timestamped on an Ethernet port. -/
  | ptpMessage (port : Bool) (event : Bool)
  /-- POOL_DATAGRAM (R448): A pool-transport datagram arrives and is performed once. -/
  | poolDatagram (peer : Fin 32) (seq : Nat) (ack : Nat) (body : PoolBody)
  /-- POOL_RESEND (R448): An unacknowledged datagram is resent after 20 µs. -/
  | poolResend (peer : Fin 32)
  /-- FAR_REQUEST (R449): A peer performs a far read, write or posting within its export range. -/
  | farRequest (peer : Fin 32) (req : FarReq)
  /-- PROMOTION_ANNOUNCE (R450): A pool promotion announcement moves PLWIN.CUR. -/
  | promotionAnnounce (peer : Fin 32)
  /-- ETHERNET_LINK_CHANGE (R453): An Ethernet port changes link state. -/
  | ethernetLinkChange (port : Bool) (up : Bool)
  /-- PARITY_ERROR (R454): A unit detects a parity or CRC error, repeats once and classes it. -/
  | parityError (u : UnitRef) (addr : BitVec 44) (hasAddr : Bool) (got : BitVec 10) (repeatOk : Bool)
  /-- FAULT_FENCE (R457): The fault hub fences the smallest unit that holds a lasting fault and starts its recovery path. -/
  | faultFence
  /-- RECOVERY_COMPLETE (R462): A recovery path ends and logs CLASS 0x08, or 0x09 when over budget. -/
  | recoveryComplete
  /-- RECOVERY_OVER_BUDGET (R462): A recovery exceeds its total and is treated as device-level. -/
  | recoveryOverBudget
  /-- COLD_START (R478): The first PERST_N release with rails and clocks in range begins a cold start. -/
  | coldStart
  /-- START_STEP_COMPLETE (R478): A start-up step ends and the next begins, or the start halts. The operands are the step's error
  and, for step 3, what the boot flash holds: the preferred copy and the two image copies. -/
  | startStepComplete (err : Fin 8) (prefB : Bool) (a b : ImageInfo)
  /-- WARM_RESET (R493): PERST_N assertion, hot reset or link down resets every block except Fumarole and leads to a warm start. -/
  | warmReset (cause : WarmCause)
  /-- ISLAND_RESET (R494): ISLRST resets the named islands. -/
  | islandReset (v : View) (mask : BitVec 12)
  /-- CORE_RESET (R494): CORERST resets one core. -/
  | coreReset (v : View) (c : CoreId)
  /-- MAILBOX_STATUS (R490): STATUS returns CUSTSTAT and measurement digests. -/
  | mailboxStatus (v : View) (tag : Byte)
  /-- FLASH_WRITE (R490): Verifies an image and writes it to the copy not in use. -/
  | flashWrite (v : View) (tag : Byte) (image : ImageInfo)
  /-- MC_LOAD (R486): Live microcode load from a verified image copy. -/
  | mcLoad (v : View) (tag : Byte) (copyB : Bool)
  /-- MC_LOAD_CORE (R486): At an instruction boundary with no micro-routine running, one core's control store is loaded. -/
  | mcLoadCore (c : CoreId)
  /-- FUSE_SVN (R490): Blows SVN bits up to the running image's version. -/
  | fuseSvn (v : View) (tag : Byte)
  /-- SOFT_REPAIR (R506): Soft post-package repair of a stack row. -/
  | softRepair (v : View) (tag : Byte) (k : StackId) (ch : Fin 32) (row : Nat)
  /-- DEBUG_UNLOCK (R507): A signed token opens debug paths until the next cold reset. -/
  | debugUnlock (v : View) (tag : Byte) (serial : Reg) (slot : Fin 4) (signed : Bool)
  /-- LOCK_FIELDS (R490): Sets every block lock bit. -/
  | lockFields (v : View) (tag : Byte)
  /-- BLOCK_LOCK_SET (R519): A W1S write of a block lock bit makes its RWL fields read-only. -/
  | blockLockSet (v : View) (b : LockBlock)
  /-- MICROWORD_RELOAD (R487): The custody controller rewrites a failed micro-word from the verified copy. -/
  | microwordReload (c : CoreId) (failsAgain : Bool)
  /-- DORMANT_REQUEST (R498): PWRCTL.REQ asks for dormant; it is refused or entered. -/
  | dormantRequest (v : View)
  /-- FUM_WAKE_ASSERT (R499): FUM_WAKE_N held low for at least 1 µs wakes the device. -/
  | fumWakeAssert (ns : Nat)
  /-- WAKE_COMPLETE (R499): Slots are restored and latched doorbells raised; fetching resumes. `hashOk` says whether the retained
  hash agrees with the copy in device memory. -/
  | wakeComplete (hashOk : Bool)
  /-- ISLAND_GATE (R497): An idle island's clock is gated. -/
  | islandGate (i : IslandId)
  /-- ISLAND_UNGATE (R497): A request ungates the island. -/
  | islandUngate (i : IslandId)
  /-- FREQ_CHANGE (R501): An ISLCLK.FREQ write relocks the island clock, holding the island for at most 2 µs. -/
  | freqChange (v : View) (i : IslandId) (value : Reg)
  /-- THROTTLE_STEP (R535): The island clock cap steps down or up with die temperature. -/
  | throttleStep (die : Bool) (tempHalfC : Int)
  /-- THERMAL_TRIP (R536): A trip stops the clocks, releases pins and drives THERMTRIP_N low. -/
  | thermalTrip (stack : Bool) (tempHalfC : Int)
  /-- COMPARATOR_MATCH (R503): A time comparator matches and performs its enabled actions. -/
  | comparatorMatch (n : Fin 16)
  /-- ANALOG_ALARM (R504): An analog comparator crosses its threshold. -/
  | analogAlarm (k : Fin 4) (input : BitVec 10)
  /-- WATCHDOG_EXPIRY (R505): The watchdog expires: source 916, or custody loss at a second expiry. -/
  | watchdogExpiry
  /-- WATCHDOG_KICK (R505): A write of 0xA5 to KICK reloads the watchdog. -/
  | watchdogKick (v : View) (value : Byte)
  /-- TIME_STEP (R502): An FTBADJ.STEP write adds a step or absorbs it at half rate. -/
  | timeStep (v : View) (value : BitVec 32)
  /-- VAON_POWER_UP (R502): VAON powers up and the time base is set to 0. -/
  | vaonPowerUp
  /-- RAIL_DROP (R532): A rail below 92 % of nominal forces an internal reset. -/
  | railDrop (rail : Rail)
  /-- REFCLOCK_LOSS (R534): Loss of a reference clock is detected and handled. -/
  | refclockLoss (clk : RefClock)
  /-- DEBUG_HALT (R523): DBGC.HALT 1 halts the core at the next event point. -/
  | debugHalt (c : CoreId)
  /-- DEBUG_RESUME (R523): DBGC.HALT 0 resumes the core. -/
  | debugResume (c : CoreId)
  /-- DEBUG_STEP (R523): DBGC.STEP runs one instruction on a halted core. -/
  | debugStep (c : CoreId)
  /-- CUSTODY_DEBUG_ACCESS (R509): Custody debug reads or writes cells through port B or the memory controllers. -/
  | custodyDebugAccess (addr : BitVec 44) (data : Option (List Cell)) (n : Nat) (busy : Bool)
  /-- TRACE_ENABLE (R523): Writing TRCTL.EN 0 and then 1 restarts the trace buffer at NEXT 0. -/
  | traceEnable (i : IslandId)
  /-- REGISTER_WRITE (R8): A write to a register that has no row of its own, under the access codes and the common rules. -/
  | registerWrite (v : View) (offset : BitVec 28) (size : Fin 9) (value : Reg)
  /-- WARM_START (R481): The release of PERST_N after a warm reset begins a warm start that keeps device memory and runs to ledger ready by 700 ms. -/
  | warmStart
  /-- VAON_REMOVAL (R532): Removing VAON resets the device, stops Fumarole and loses the time base, which restarts at 0 when VAON returns. -/
  | vaonRemoval
  /-- TWIN_LINK_CHANGE (R438): The twin link finishes training or loses training, which sets or clears SNSTAT.LINK and starts or stops heartbeats. -/
  | twinLinkChange (up : Bool) (half : Bool)
  /-- CONFIGURATION_REQUEST (R479): A PCIe configuration request is answered with retry status before step 2 ends, and otherwise reads or writes configuration space, such as Bus Master Enable, MSI-X enable or D3hot. -/
  | configurationRequest (fn : Bool) (r : CfgReq)
  /-- TAP_INSTRUCTION (R508): An IEEE 1149.1 TAP operation selects IDCODE, BYPASS, SAMPLE/PRELOAD, EXTEST, IEEE 1500 access or bank BIST, subject to DBGLOCK and PERST_N. -/
  | tapInstruction (t : TapOp)
  /-- ARBSEEN_EXPIRY (R439): 30 µs pass on a standby with no TWIN_ARB edge, so ARBSEEN falls to 0 and a STALE standby may then be promoted without FORCE. -/
  | arbseenExpiry
  /-- JOURNAL_RECORD_AGED (R425): A journal record becomes more than 1 ms old, which lets Sinter overwrite its ring line and release records it was holding. -/
  | journalRecordAged
  deriving DecidableEq, Repr

end Sys2Proof
end

