-- ==== Sys2Proof/Decode.lean ====
section
/-!
DEFINITION. Words of the table of operations. No row of the table gives its command any bits, so no word spells a command.
-/

namespace Sys2Proof

/-- The command that a word of `nbits` bits spells by the table's bits: none, because no row gives bits. -/
def decodeTableWord (_nbits _w : Nat) : Option Instr := none

end Sys2Proof
end

