-- ==== Sys2Proof/Config.lean ====
section
/-!
DEFINITION. What the manual leaves open: free values and functions it names without giving. None has a body, so no proof
can see a value. A `Nat` argument is the model's own counter `Dev.free` unless said otherwise (log entry 6).
-/

namespace Sys2Proof

/-- Undefined data of a port-B read that meets a port-A write (R324), and of a spare column before it is rewritten (R326). -/
opaque Config.freeCell : Nat → Cell

/-- A result that the manual does not state (see the log entries that name it). -/
opaque Config.freeWord : Nat → Word

/-- The line code of a line number and the 1,408 bits that it covers (R41, R43): the manual gives what it detects and not its bits. -/
opaque Config.lineCode : Nat → Nat → BitVec 128

/-- Micro-PC of a micro-trap point: instruction kind and step (R125, R206). The manual gives the field and no value. -/
opaque Config.microPc : Nat → Nat → BitVec 13

/-- Check cell over instruction kind, micro-PC, micro-registers 0 to 3 and control-store generation (R125, R211). -/
opaque Config.checkCell : Nat → BitVec 13 → Word → Word → Word → Word → BitVec 8 → BitVec 9

/-- Operand digest over the physical addresses of the memory operands' first cells, their lengths and which operands are
register-direct (R125, R165). -/
opaque Config.operandDigest : List Nat → Word

/-- Whether a Geyser stream reads a source cell that its own destination overlaps before (false) or after (true) its
write (R274), for the given counter value and physical cell address. -/
opaque Config.overlapAfter : Nat → Nat → Bool

/-- SHA-384 digest of a measurement block (R492): index and the state numbers that it covers. -/
opaque Config.measurement : Nat → List Nat → BitVec 384

/-- What an SPDM response carries beside the version, the algorithms and the digests (R377, R492): certificate chain, nonce, signature. -/
opaque Config.spdmBody : Nat → Byte → Nat → List Byte

/-- Whether a stack has a repair resource left for a soft post-package repair (R506): stack, channel, and soft repairs it has had. -/
opaque Config.stackHasSpare : Nat → Nat → Nat → Bool

/-- Deviation of the internal oscillator that counts after the loss of the Fumarole clock (R534), taken within 2 % by its user. -/
opaque Config.oscillator : Nat → Nat

/-- Places of Caldera's sample queue, which the manual names and does not size (R353). -/
opaque Config.sampleQueue : Nat

/-- Whether the conversion engine writes a separate plus sign as 0x20 (true) or as 0x2B; the manual gives both codes (R408). -/
opaque Config.plusBlank : Bool

end Sys2Proof
end

