-- ==== Sys2Proof/Machine/State.lean ====
section
/-!
DEFINITION. The state of the K936 as plain data: every register, queue, buffer, counter, mode and pin that the manual gives
the device, the messages in flight between its clock domains (R13, R14), and the queue of commands that wait. Registers of
the register map have one home, `Dev.regs`, by byte offset of the PF1 view (R511); a register that the map does not list
there holds its reset value (`regReset`).
-/

namespace Sys2Proof.Machine

/-- A finite map by number, keys strictly rising. -/
abbrev AMap (α : Type) := List (Nat × α)

/-- A physical cell with the interleave policy that places it (R295), and whether its page is side-effect (R340). -/
structure PLoc where
  addr : Nat
  pol : Nat := 0
  se : Bool := false
  deriving DecidableEq, Repr

/-- The cached part of a segment register (R59). -/
structure SegDesc where
  typ : BitVec 2
  rd : Bool
  wr : Bool
  cw : Bool
  jr : Bool
  key : BitVec 4
  sup : Bool
  base : BitVec 48
  limit : Word
  segtag : BitVec 16
  deriving DecidableEq, Repr

/-- A segment register: selector and cached descriptor, none when it holds the null selector (R61). -/
structure SegReg where
  sel : BitVec 16 := 0
  desc : Option SegDesc := none
  deriving DecidableEq, Repr

/-- One loop: LTOP, LEXIT, LREM (R50, R100). -/
structure LoopRegs where
  top : Word := 0
  exit : Word := 0
  rem : Word := 0
  deriving DecidableEq, Repr

/-- A register bank (R50): G0-G15, S0-S7, the innermost loop, LDEP and the three loop-stack entries. -/
structure Bank where
  g : AMap Word := []
  s : AMap SegReg := []
  cur : LoopRegs := {}
  dep : BitVec 3 := 0
  l1 : LoopRegs := {}
  l2 : LoopRegs := {}
  l3 : LoopRegs := {}
  deriving DecidableEq, Repr

/-- Control registers with one copy for each world (R50). -/
structure WorldRegs where
  pkr : BitVec 32 := 0
  scePc : Word := 0
  sceSp : Word := 0
  lnk : Word := 0
  sstat : Word := 0
  sdtb : Word := 0
  sdtl : BitVec 17 := 0
  hdtb : Word := 0
  deriving DecidableEq, Repr

/-- STATE of a task slot (R223). -/
inductive SlotState where
  | free | blocked | ready | running
  deriving DecidableEq, Repr

/-- A task slot (R223), with its count of postings awaiting acknowledgement (R312), the order in which it turned ready
(R228) and the sequence number of the event that made it ready (R229). -/
structure Slot where
  valid : Bool := false
  world : Bool := false
  prio : BitVec 2 := 0
  st : SlotState := .free
  res : Bool := false
  bank : BitVec 2 := 0
  pc : Word := 0
  tstat : Word := 0
  evpend : BitVec 5 := 0
  evmask : BitVec 5 := 0
  tcb : Word := 0
  seq : Word := 0
  posts : Nat := 0
  readyAt : Nat := 0
  evSeq : Nat := 0
  deriving DecidableEq, Repr

/-- A translation fault: cause, stage and walk level (R342). -/
structure TrFault where
  cause : Nat
  stage : Nat
  lev : Nat
  deriving DecidableEq, Repr

/-- An interrupt request of a distributor source (R221, R222). -/
structure IrqReq where
  source : Nat
  level : Nat
  vector : Nat
  world : Bool
  deriving DecidableEq, Repr

/-- What the bank-overflow trap announces (R231). -/
structure Overflow where
  slot : Nat
  vict : Nat
  bank : Nat
  spill : Bool
  deriving DecidableEq, Repr

/-- A control-state write whose new value is not yet in effect (R79). -/
inductive ExpWrite where
  | seg (bank i : Nat) (r : SegReg)
  | pkr (world : Bool) (v : BitVec 32)
  /-- Bank register number 24 to 36 (R53). -/
  | loopReg (bank n : Nat) (v : Word)
  | vcfg (v : Word)
  | te (v : BitVec 8)
  deriving DecidableEq, Repr

/-- An exposed write and the instructions that still see the old value (R80). -/
structure Exposed where
  left : Nat
  w : ExpWrite
  deriving DecidableEq, Repr

/-- Cells of an operand in memory, lowest address first, with the journaling that its segment carries (R59). -/
structure MemLoc where
  cells : List PLoc
  jr : Bool := false
  segtag : BitVec 16 := 0
  /-- Linear address of the first cell, for reports. -/
  lin : Nat := 0
  deriving DecidableEq, Repr

/-- A result waiting to be written. -/
inductive Wr where
  | g (bank r : Nat) (v : Word)
  | f (r : Nat) (v : QWord)
  | mem (loc : MemLoc) (v : List Cell)
  deriving DecidableEq, Repr

/-- An instruction running beside the pipe (R91): its PC, the results it will write, the sticky flags it will raise, and the trap
enables that it was issued under (R57, R80). -/
structure Beside where
  pc : Word
  writes : List Wr
  sf : BitVec 8
  te : BitVec 8
  deriving DecidableEq, Repr

/-- A posting of this core that awaits acknowledgement (R312): the slot that counts it, the bank and registers its status
and old value go to, and its cells. -/
structure CorePost where
  id : Nat
  slot : Option Nat
  bank : Nat
  gs : Option Nat
  gr : Option Nat
  lockGc : Option Nat := none
  release : Bool := false
  first : Nat
  n : Nat
  deriving DecidableEq, Repr

/-- The micro-state of a micro-trapped instruction (R125, R165, R206): words 12 to 17 of the frame. -/
structure Micro where
  upc : BitVec 13
  u0 : Word
  u1 : Word
  u2 : Word
  u3 : Word
  ck : BitVec 9
  deriving DecidableEq, Repr

/-- A cell in the store buffer, with the journaling of the segment that it was stored through (R420). -/
structure SbCell where
  v : Cell
  jr : Bool := false
  segtag : BitVec 16 := 0
  deriving DecidableEq, Repr

/-- A store-buffer entry: one 16-cell block, its valid cells by number (R243). -/
structure SbEntry where
  block : Nat
  pol : Nat
  se : Bool
  cells : AMap SbCell
  deriving DecidableEq, Repr

/-- How an event is delivered: its vector and world, its fixed level when it is not synchronous, whether it is a gate, the PCs
and the words that the frame reports, and the micro-state of a micro-trap (R204 to R206). -/
structure Delivery where
  vec : Nat
  world : Bool
  level : Option Nat := none
  irq : Bool := false
  gate : Bool := false
  spc : Word
  fpc : Word
  info0 : Nat := 0
  info1 : Nat := 0
  lin : Nat := 0
  micro : Option Micro := none
  deriving DecidableEq, Repr

/-- A line buffer: world, code-line index, the fetch fault kept with it (R238), and whether its cells were poisoned (R472). -/
structure LineBuf where
  world : Bool
  line : Nat
  fault : Option TrFault
  poison : Bool := false
  deriving DecidableEq, Repr

/-- A branch-target buffer entry (R240). -/
structure BtbEntry where
  pc : Word
  world : Bool
  target : Word
  ctr : BitVec 2
  deriving DecidableEq, Repr

/-- A cached translation (R345); `grp` when the slot covers a contiguity group (R347); `epoch` of its fill (R352). -/
structure Tlb where
  world : Bool
  code : Bool
  page : Nat
  ipage : Nat
  frame : Nat
  g : Bool
  key : BitVec 4
  u : Bool
  r1 : Bool
  w1 : Bool
  se1 : Bool
  r2 : Bool
  w2 : Bool
  se2 : Bool
  kind : Nat
  pol : Nat
  d : Bool
  grp : Bool
  epoch : Nat
  deriving DecidableEq, Repr

/-- A walk-cache entry (R345): stage, world, space, level, the leading address bits that selects the entry, and the entry. -/
structure WalkEntry where
  stage2 : Bool
  world : Bool
  code : Bool
  lev : Nat
  pfx : Nat
  w0 : Word
  w1 : Word
  epoch : Nat
  deriving DecidableEq, Repr

/-- An outstanding read of the host window or a far window (R381, R449): the cells asked for, and the data when it has come. -/
structure ExtRead where
  addr : Nat
  n : Nat
  data : Option (List Cell) := none
  poisoned : Bool := false
  deriving DecidableEq, Repr

/-- A forwarding entry of Caldera (R367): old slot, new core and slot, time of the move. -/
structure Fwd where
  slot : Nat
  core : Nat
  newSlot : Nat
  time : Nat
  deriving DecidableEq, Repr

/-- CSTAT after reset (R54): WORLD 1, SUP 1, MLEV 7. -/
def cstatReset : Word := 0o616000000000#36

/-- Slot 0 after a core reset (R223): VALID, custody, running, resident in T0; the WORLD of its TSTAT equals CTL.WORLD. -/
def slotZeroReset : Slot := { valid := true, world := true, st := .running, res := true, tstat := cstatReset }

/-- A ledger core (R50 and the chapters named at each field). -/
structure Core where
  banks : AMap Bank := []
  pc : Word := 0
  cstat : Word := cstatReset
  f : AMap QWord := []
  /-- Lane `l` of V`r` stands at `16 r + l`. -/
  v : AMap Word := []
  m : AMap (BitVec 16) := []
  vcfg : Word := 0o400004000000#36
  vresume : Word := 0
  bwin : BitVec 4 := 0
  led : WorldRegs := {}
  cus : WorldRegs := {}
  slots : AMap Slot := [(0, slotZeroReset)]
  /-- Task bank of the running task (R51). -/
  taskBank : Nat := 0
  /-- Slot running at level 0 (R223). -/
  runSlot : Option Nat := some 0
  /-- The slot that ran last at level 0: the one whose code an entry interrupts when no task runs (R206, R232). -/
  lastSlot : Nat := 0
  /-- Dispatch counter (R223, field SEQ). -/
  dcount : Word := 0
  readyClock : Nat := 1
  reqs : List IrqReq := []
  ovf : Option Overflow := none
  exposed : List Exposed := []
  beside : List Beside := []
  posts : List CorePost := []
  /-- Highest record number among this core's acknowledged postings (R317). -/
  twinSeq : Nat := 0
  micro : Option Micro := none
  sbuf : List SbEntry := []
  /-- Lines held by the L1 data cache, most recently used first (R237); their data is memory's (R318). -/
  l1 : List Nat := []
  lbuf : List LineBuf := []
  btb : List BtbEntry := []
  dtlb : List Tlb := []
  /-- Reads of the host window or a far window that the instruction in execution has launched. -/
  ext : List ExtRead := []
  csgen : BitVec 8 := 0
  started : Bool := false
  checkstop : Bool := false
  idle : Bool := false
  fenced : Bool := false
  sharedPort : Bool := false
  stepArmed : Bool := false
  /-- An entry under way: it has launched a read and waits for it (R249). -/
  entry : Option Delivery := none
  /-- An entry has ended and the first instruction of its handler has not: a higher request nests after that one (R214, R249). -/
  fresh : Bool := false
  /-- Cells that the string instruction in execution has processed (R145), and whether it goes downward (R150). -/
  strDone : Nat := 0
  strDown : Bool := false
  /-- A write of DET waits for the store buffer (R252). -/
  detWait : Bool := false
  fwd : List Fwd := []
  /-- A live microcode load waits for this core (R486). -/
  mcWait : Bool := false
  /-- A micro-word has failed and waits for its reload (R487). -/
  microStall : Bool := false
  deriving DecidableEq, Repr

/-- Who issued a posting. -/
inductive Requester where
  | core (c : Nat)
  /-- An element of the Geyser context that the engine's island and context number name. -/
  | geyser (island ctx elem : Nat)
  | peer (p : Nat) (rnum : BitVec 22)
  /-- The lock registry, or the fault hub carrying a lost requester's posting. -/
  | hub
  deriving DecidableEq, Repr

/-- A posting on its way to, or held by, the unit that performs it (R302, R309). OP and TYPE as R423 numbers them. -/
structure Posting where
  id : Nat
  who : Requester
  op : BitVec 4
  ty : BitVec 2
  dsm : Bool
  /-- Amount, or new word. -/
  x : List Cell
  /-- Floor, or expected word. -/
  y : List Cell
  loc : PLoc
  jr : Bool
  segtag : BitVec 16
  /-- World of the requester, for samples (R353). -/
  world : Bool := false
  deriving DecidableEq, Repr

/-- A posting that its unit has applied: status, old value, record number when journaled, and whether Sinter has the record. -/
structure Applied where
  p : Posting
  status : BitVec 4
  old : List Cell
  seq : Option Nat
  deriving DecidableEq, Repr

/-- The acknowledgement of a posting on its way to its requester. -/
structure Ack where
  id : Nat
  who : Requester
  status : BitVec 4
  old : List Cell
  seq : Option Nat
  /-- 0, or 1 to 3 for a lock answer of R314. -/
  lock : Nat := 0
  deriving DecidableEq, Repr

/-- A posting unit (R309, R312). -/
structure Pu where
  queue : List Posting := []
  applied : List Applied := []
  /-- Postings whose records the unit handed over before it failed, and whose line write it never made (R19, R23). -/
  cut : List Applied := []
  deriving DecidableEq, Repr

/-- A Geyser post not yet acknowledged: its number, the RS cell that takes its status, the descriptor it belongs to. -/
structure GeyPost where
  id : Nat
  rs : Option MemLoc
  desc : Nat
  deriving DecidableEq, Repr

/-- A Geyser context (R255, R259): world and linear address of its SCB, the snapshot, STATE, the engine's
copy of words 1 to 15, and the program's progress. -/
structure GeyCtx where
  world : Bool
  scbLin : Nat
  /-- KEY, JR and SEGTAG of the segment through which the SCB was named. -/
  scbKey : BitVec 4
  scbJr : Bool
  scbTag : BitVec 16
  pseg : Nat
  segs : AMap SegReg
  pkr : BitVec 32
  sup : Bool
  /-- The world's code and data roots (R259). -/
  croot : Reg
  droot : Reg
  slot : Nat
  core : Nat
  st : BitVec 4
  w : AMap Word
  det : Bool
  desc : Option (List Word) := none
  /-- Input elements taken under expand (R271). -/
  xpos : Nat := 0
  /-- Destination elements written under compress (R271). -/
  dpos : Nat := 0
  cancel : Bool := false
  /-- Posts not yet acknowledged. -/
  posts : List GeyPost := []
  /-- Descriptors begun since the start. -/
  descNo : Nat := 0
  /-- Cells that the current descriptor has overwritten, by storage place, as they stood before (R274). -/
  overlay : AMap Cell := []
  /-- Outstanding reads of the host window or a far window. -/
  ext : List ExtRead := []
  /-- Highest record number among the program's posts (R317, R275). -/
  lastSeq : Nat := 0
  /-- Queue and submission index of the STREAM descriptor that started the program (R262). -/
  queue : Option (Nat × Nat) := none
  /-- A pause, stop, end, cancel or error that waits for stores and acknowledgements (R261). -/
  ending : Option (BitVec 4) := none
  /-- The SCB write failed (R261). -/
  scbOwed : Bool := false
  /-- A reducing descriptor that ends has written its accumulator (R286). -/
  accDone : Bool := false
  /-- A poisoned line and those of its cells that the current descriptor's stores have written (R298). -/
  coverLine : Nat := 0
  cover : BitVec 128 := 0
  deriving DecidableEq, Repr

/-- A broadcast invalidation on its way to an island (R348, R349). -/
structure Inval where
  core : Option Nat
  kind : Nat
  world : Bool
  space : Nat
  s2 : Bool
  key : BitVec 4
  page : Nat
  deriving DecidableEq, Repr

/-- A handover of an island bank that waits (R323). -/
structure Handover where
  bank : Nat
  owner : BitVec 3
  deriving DecidableEq, Repr

/-- An island: TLB, walk caches, code cache, Geyser engine, bank atomic unit, banks' state (R4). -/
structure Island where
  tlb : List Tlb := []
  wc : List WalkEntry := []
  /-- Lines of the code cache with their ways, most recently used first (R238, R239). -/
  ccache : List (Nat × Nat) := []
  inv : List Inval := []
  ctxs : AMap GeyCtx := []
  /-- Queued contexts, next first (R260). -/
  order : List Nat := []
  running : Option Nat := none
  /-- Elements since the last switch point (R260). -/
  slice : Nat := 0
  /-- The running context has ended a descriptor and has not begun the next (R260). -/
  edge : Bool := false
  atomics : List Posting := []
  atomDone : List Applied := []
  /-- Tag of each 128-cell line of the banks, by line address (R325). -/
  tags : AMap (BitVec 64) := []
  hand : List Handover := []
  /-- OWNER that each bank held when last handed to Sinter (R440). -/
  saved : AMap (BitVec 3) := []
  /-- Bank and column of banks in degraded column mode (R465). -/
  degraded : List (Nat × Nat) := []
  /-- Bank held by the fault hub (R465). -/
  heldBanks : List Nat := []
  /-- Clock cap in 100 MHz steps (R535). -/
  cap : Nat := 22
  /-- The fault hub has fenced the island (R457). -/
  fenced : Bool := false
  deriving DecidableEq, Repr

/-- Progress of a fetched descriptor (R387, R394, R395). -/
inductive DescState where
  | fetched
  /-- A host read or write is outstanding. -/
  | dma
  /-- Host bytes are here, or cells are to be read, and conversion is in progress. -/
  | converting
  /-- A batch POST is converted and waits for its turn to be delivered. -/
  | ready
  /-- The Geyser program runs. -/
  | streaming
  | delivered
  /-- Finished: its completion is to be written. -/
  | done
  deriving DecidableEq, Repr

/-- A completion (R399) before it is written. -/
structure Comp where
  index : Nat
  gen : Nat
  tag : BitVec 32
  status : Byte
  result : BitVec 64 := 0
  detail : BitVec 16 := 0
  pstat : BitVec 24 := 0
  now : Bool := false
  /-- Core and slot whose postings must be acknowledged first (R397). -/
  slot : Option (Nat × Nat) := none
  /-- The entry, once its QUEUE record is numbered and the waits of R428 run, and the last record it waits for. -/
  entry : Option (List Byte) := none
  seq : Nat := 0
  /-- The last record of the descriptor's journaled writes (R393). -/
  jseq : Nat := 0
  /-- Batch of lock mode (R432). -/
  batch : Option Nat := none
  deriving DecidableEq, Repr

/-- A fetched descriptor (R387): submission index, generation, bytes, progress, bytes received or to be sent, records converted,
the status and RESULT that the transfer has reached, the batch of lock mode, and outstanding reads of a window. -/
structure QDesc where
  index : Nat
  gen : Nat
  bytes : List Byte
  st : DescState := .fetched
  data : List Byte := []
  recNo : Nat := 0
  status : Byte := 0
  result : Nat := 0
  detail : Nat := 0
  batch : Option Nat := none
  ext : List ExtRead := []
  deriving DecidableEq, Repr

/-- A queue's state beside its registers (R384 to R402). -/
structure Queue where
  /-- The authority (R384): segment set and PKR. -/
  segs : AMap SegReg := []
  pkr : BitVec 32 := 0
  phase : Bool := true
  /-- Completion write index and last accepted CQDB value (R386, R388). -/
  cqw : Nat := 0
  cqh : Nat := 0
  descs : List QDesc := []
  comps : List Comp := []
  /-- Completions written since the last message, and the time of the first of them (R402). -/
  owed : Nat := 0
  owedAt : Nat := 0
  /-- Highest record number among the journaled writes of each descriptor in progress, by index (R393, R20). -/
  journaled : AMap Nat := []
  /-- An enable whose checks wait (R384). -/
  enabling : Bool := false
  /-- Doorbell latched while dormant (R499). -/
  latched : Bool := false
  /-- Image slots of delivered descriptors that a function-level reset removed (R385). -/
  ghosts : List Nat := []
  /-- On a standby, what the last applied QUEUE record gave: SQHEAD, DLV, write index, phase, entry (R427, R441). -/
  shadow : Option (Nat × Nat × Nat × Bool × List Byte) := none
  deriving DecidableEq, Repr

/-- A task signal on its way to its core (R227). -/
structure Signal where
  core : Nat
  slot : Nat
  fromCustody : Bool
  deriving DecidableEq, Repr

/-- A store to a register window on its way to the register (R329): the core or engine's island it comes from. -/
structure RegStore where
  geyser : Bool
  n : Nat
  v : View
  off : Nat
  size : Nat
  value : Reg
  deriving DecidableEq, Repr

/-- Algorithms of attestation (R377). -/
inductive SpdmAlg where
  | ecdsaP384 | sha384
  deriving DecidableEq, Repr

/-- An SPDM response (R377): version, whether the request is supported, the algorithms that NEGOTIATE_ALGORITHMS selects, measurement
digests, and what the manual does not give. -/
structure SpdmReply where
  version : Byte
  supported : Bool
  algs : List SpdmAlg := []
  digests : List (BitVec 384) := []
  rest : List Byte := []
  deriving DecidableEq, Repr

/-- Twin-link, pool, host and pin traffic that leaves the device, in order. -/
inductive Out where
  | hostWrite (addr : Nat) (bytes : List Byte)
  | hostRead (addr : Nat) (n : Nat)
  | msix (fn : Bool) (vector : Nat) (addr : Nat) (data : BitVec 32)
  | cwData (bytes : List Byte) (poisoned : Bool)
  | cwAbort
  | mmioData (value : Reg)
  | cfgData (value : BitVec 32)
  | cfgRetry
  | spdm (transport : Transport) (r : SpdmReply)
  | record (r : Record)
  | twinAck (seq : Nat)
  | heartbeat (standby : Bool) (epoch : BitVec 32) (seq : Nat)
  | dyingGasp
  | takeover (seq : Nat)
  | lineRequest (line : Nat)
  | lineResponse (line : Nat) (cells : List Cell) (info : LineInfo)
  | forward (q : Nat) (index : Nat) (bytes : List Byte)
  | marker (batch : Nat)
  | digest (batch : Nat) (d : BitVec 64)
  /-- The identity exchange: epoch, record number, and this device's journaled lines with their epochs (R444). -/
  | identity (epoch : BitVec 32) (nextSeq : Nat) (lines : List (BitVec 37 × BitVec 32))
  | arb (low : Bool)
  | pps
  | ptpStamp (port : Bool) (time : Nat)
  /-- A pool datagram (R446, R448): IPv6 source and destination, UDP port, peer, sequence number, acknowledgement, port and body. -/
  | datagram (src dst udp : Nat) (peer : Nat) (seq : Nat) (ack : Nat) (port : Bool) (body : PoolBody)
  | announce
  /-- Cells, the metadata of the lines of local memory that hold them (R42), and BUSY. -/
  | debugData (cells : List Cell) (infos : List (BitVec 128)) (busy : Bool)
  | debugRefused
  | tap (accepted : TapOp)
  deriving DecidableEq, Repr

/-- Sinter's state beside its registers (R421 to R445). -/
structure Sinter where
  /-- Records numbered that Sinter has not accepted, in the order of their numbers (R421, R422). -/
  net : List Record := []
  /-- Records written less than 1 ms ago: number and time (R425). -/
  young : List (Nat × Nat) := []
  /-- Unacknowledged records: number and time of numbering (R428). -/
  unacked : List (Nat × Nat) := []
  /-- The lag has been above LAG since it was last reported (R428, R453). -/
  lagSeen : Bool := false
  lastHb : Nat := 0
  lastEdge : Nat := 0
  arbLow : Bool := false
  arbAt : Nat := 0
  hbAt : Nat := 0
  /-- Standby: applied up to (A), A at the last acknowledgement and its time (R427). -/
  applied : Nat := 0
  ackedAt : Nat := 0
  ackTime : Nat := 0
  /-- Standby: records received and waiting for their predecessor. -/
  rx : List Record := []
  demote : Bool := false
  /-- A promotion has been decided, and received records are still to be applied (R440). -/
  promoting : Bool := false
  /-- Join: last record numbered before the copy ended, once it has ended (R444). -/
  joinEnd : Option Nat := none
  /-- Lines still to be requested by the joining device, and requests outstanding (R444). -/
  joinLines : List Nat := []
  joinOut : Nat := 0
  /-- What the last identity exchange told of the twin (R444). -/
  twin : Option TwinId := none
  /-- Epoch at which the pair separated (R426). -/
  sepEpoch : BitVec 32 := 0
  /-- Lock mode: batch number, records since the last marker, its time, running digest, whether a marker is waited for, the
  twin's digest when it has come (R432, R433). -/
  batch : Nat := 0
  batchCount : Nat := 0
  batchAt : Nat := 0
  digest : BitVec 64 := 0
  closing : Bool := false
  /-- Batches whose digests have compared equal. -/
  matched : Nat := 0
  closed : List (Nat × BitVec 64) := []
  /-- Last records of those closed batches, and of the last one that matched (R425). -/
  ends : List Nat := []
  matchedTo : Nat := 0
  peerDigests : List (Nat × BitVec 64) := []
  /-- Records whose POST_TAG is applied from each far requester: last RNUM (R450). -/
  farRnum : AMap (BitVec 22) := []
  /-- Self-twin loop: records on their way to the standby half (R435). -/
  loop : List Record := []
  deriving DecidableEq, Repr

/-- A page move in flight or waiting (R358, R360): frames, the policy and the positions that the target may have (bit `j2`),
the step reached, when it began, the lines copied, the pool peer it goes to, what the record of the source says, what the leaves or
parent entries held, and the pool peers that have still to report their removal (R371). -/
structure Move where
  source : Nat
  target : Nat := 0
  pol : Nat
  mask : Nat
  pool : Option Nat := none
  step : Nat := 1
  begun : Nat := 0
  copied : List Nat := []
  world : Bool := false
  kind : Nat := 0
  copyB : Bool := false
  pidx : Nat := 0
  back : Nat := 0
  held : List (Nat × Nat) := []
  peers : List Nat := []
  deriving DecidableEq, Repr

/-- A heat sample (R353): frame, world, source 0 to 11 or 12 for the pool, and the peer. -/
structure Sample where
  frame : Nat
  world : Bool
  src : Nat
  peer : Nat
  deriving DecidableEq, Repr

/-- Caldera's state beside its registers and tables (R353 to R373). -/
structure Caldera where
  samples : List Sample := []
  moves : AMap Move := []
  waiting : List Move := []
  begun : Nat := 0
  poolBegun : Nat := 0
  clmove : List Reg := []
  /-- Samples of the current window by frame and source, and by frame and peer (R356 TOPI, R358). -/
  win : AMap Nat := []
  prevWin : AMap Nat := []
  peers : AMap Nat := []
  /-- Events of each requester since its last sample (R353): posting units and bank atomic units by SRC, walkers from 268, Geyser
  engines from 280, memory controllers from 292. -/
  events : AMap Nat := []
  /-- End of the window that last ended, and number of the millisecond that last ended. -/
  winAt : Nat := 0
  lastMs : Nat := 0
  /-- Invalidations made for another home's page move and not yet reported to it: the home, its frame, and what is removed (R371). -/
  removals : List (Nat × Nat × Inval) := []
  deriving DecidableEq, Repr

/-- A recovery in progress (R462): the unit, the time of the first error and its total in ns. -/
structure Recovery where
  u : UnitRef
  start : Nat
  total : Nat
  deriving DecidableEq, Repr

/-- The fault hub's state beside its registers (R454 to R471). -/
structure FaultHub where
  /-- Lasting errors logged and not yet fenced, with the time of their first error. -/
  lasting : List (UnitRef × Nat) := []
  fenced : List UnitRef := []
  /-- Frames whose lines on failed storage are held until their remap ends (R469). -/
  held : List Nat := []
  /-- Pseudo-channels whose storage is lost (R468). -/
  deadPc : List Nat := []
  /-- Bits of FHLOST that name custody-world slots, by core (R476). -/
  lostCus : AMap Nat := []
  recoveries : List Recovery := []
  /-- Transients reported in this millisecond (R454). -/
  trans : List UnitRef := []
  transMs : Nat := 0
  deriving DecidableEq, Repr

/-- A mailbox command with its parameters (R489, R490). -/
structure MbCmd where
  led : Bool
  opc : Byte
  tag : Byte
  image : ImageInfo := {}
  copyB : Bool := false
  stack : Nat := 0
  channel : Nat := 0
  row : Nat := 0
  serial : Reg := 0
  slot : Fin 4 := 0
  signed : Bool := false
  deriving DecidableEq, Repr

/-- The custody controller's state (R478 to R492). -/
structure Custody where
  /-- A start is in progress; CUSTSTAT.PHASE holds the last step ended. -/
  starting : Bool := false
  /-- The start in progress, or the last one, is warm. -/
  warm : Bool := false
  flashA : ImageInfo := {}
  flashB : ImageInfo := {}
  prefB : Bool := false
  /-- Generation that the verified copy gives a core (R486, R494). -/
  gen : BitVec 8 := 0
  /-- Live microcode loads since the start. -/
  loads : Nat := 0
  /-- A live load in progress: its new PLVL and its TAG. -/
  mcRun : Bool := false
  mcPlvl : BitVec 8 := 0
  mcTag : Byte := 0
  /-- Commands that wait for the next wake (R489). -/
  mbWait : List MbCmd := []
  repairLog : List (Nat × Nat × Nat × Bool × Nat) := []
  /-- Field repairs that custody firmware has recorded in the boot flash: BANKREP by offset (R475). -/
  fieldLog : AMap (BitVec 64) := []
  /-- Custody core lost; duties on the substitute (R471). -/
  lost : Bool := false
  hostData : AMap Byte := []
  ledData : AMap Byte := []
  debugOpen : Bool := false
  /-- SHA-384 of the verified copy retained for a wake (R498). -/
  retained : Bool := false
  deriving DecidableEq, Repr

/-- Power, clocks, pins and links (chapters 18 and 20). -/
structure Board where
  dormant : Bool := false
  rails : List Rail := []
  clocks : List RefClock := []
  tripped : Bool := false
  /-- Clocks stopped by a trip, or the device in reset or before step 8 of a start. -/
  stopped : Bool := true
  /-- PERST_N is asserted, or a hot reset or a lost link holds the device in reset. -/
  perst : Bool := true
  ledgerOk : Bool := false
  thermtrip : Bool := false
  /-- Whole second of the last pulse on TIMEBASE_PPS out (R436). -/
  ppsAt : Nat := 0
  railsDropped : Bool := true
  tap : TapOp := .bypass
  linkUp : Bool := false
  rate : LinkRate := .gt64
  width : LinkWidth := .x16
  eth0 : Bool := false
  eth1 : Bool := false
  /-- The watchdog has expired once since the last kick (R505). -/
  wdExpired : Bool := false
  /-- A kick, and a step of the time base, on their way to Fumarole within one command. -/
  kick : Bool := false
  step : Option (BitVec 32) := none
  deriving DecidableEq, Repr

/-- Configuration-space fields of a function that the manual lets a request write (R374, R376, R381). -/
structure PcieFn where
  busMaster : Bool := false
  msixEnable : Bool := false
  msixMask : Bool := false
  d3hot : Bool := false
  timeout : BitVec 4 := 0
  /-- ECRC generation and checking, and ASPM L1 (R374). -/
  ecrcGeneration : Bool := false
  ecrcCheck : Bool := false
  aspmL1 : Bool := false
  /-- Host addresses of the base address registers (R376), by number. -/
  bars : AMap Nat := []
  /-- MSI-X table: address, data and mask of each entry that has been written; pending bits (R376, R402). -/
  table : AMap (Nat × BitVec 32 × Bool) := []
  pba : List Nat := []
  deriving DecidableEq, Repr

/-- Pool transport with one peer (R448). -/
structure Peer where
  txSeq : Nat := 0
  rxSeq : Nat := 0
  unacked : List (Nat × PoolBody) := []
  sentAt : Nat := 0
  port : Bool := false
  deriving DecidableEq, Repr

/-- Everything that a cold or warm reset may reach: the device without Fumarole and the fuses. -/
structure Dev where
  regs : AMap Reg := []
  /-- Device cells by storage place (R295) for local memory, by physical address for island banks. Canonical. -/
  mem : AMap Cell := []
  /-- Line metadata (R42) by storage line. -/
  info : AMap LineInfo := []
  /-- Stored lines whose bits disagree with their line code (R43). -/
  upsets : AMap Upset := []
  /-- Parity bits of bank cells that are not the odd parity of the cell: those of a parity column that a repair has replaced and
  that has not been rewritten (R44, R326). -/
  parity : AMap Bool := []
  /-- Band-policy array: bands whose policy is not wide (R539). -/
  bandPol : AMap Nat := []
  cores : AMap Core := []
  islands : AMap Island := []
  pus : AMap Pu := []
  queues : AMap Queue := []
  locks : List (Nat × Word) := []
  postNet : List Posting := []
  ackNet : List Ack := []
  sigNet : List Signal := []
  irqNet : List (Nat × IrqReq) := []
  /-- Stores to the register windows that have not reached their registers. -/
  regNet : List RegStore := []
  /-- The epoch of the time base in which the last cold or warm reset fell: EPOCH counts from there (R352, R9). -/
  epochBase : Nat := 0
  nextPost : Nat := 0
  sn : Sinter := {}
  cal : Caldera := {}
  hub : FaultHub := {}
  cust : Custody := {}
  board : Board := {}
  pf0 : PcieFn := {}
  pf1 : PcieFn := {}
  peers : AMap Peer := []
  /-- Far postings that their peer has not acknowledged (R23, R450). -/
  farHeld : List Posting := []
  /-- Scrub position of each posting unit (R299). -/
  scrubAt : AMap Nat := []
  /-- Fuse values that registers report (R520): memory code, temperature grade, serial number. -/
  c192 : Bool := false
  xgrade : Bool := false
  serial : Reg := 0
  /-- DBGLOCK as blown (R482). -/
  dbglock : Bool := true
  out : List Out := []
  /-- The model's own: counter that free values are applied to. -/
  free : Nat := 0
  /-- The model's own: time base as latched for the command in execution. -/
  now : Nat := 0
  deriving DecidableEq, Repr

/-- Fumarole (R502, R505): nanoseconds, the fraction in units of 2⁻³² ns, the part of a negative step still to absorb in the same
units, the watchdog's count in ns, and whether its reference clock is lost (R534). -/
structure Fumarole where
  time : Nat := 0
  frac : Nat := 0
  absorb : Nat := 0
  wdLeft : Nat := 64000000
  /-- VAON is up. -/
  on : Bool := true
  clockLost : Bool := false
  deriving DecidableEq, Repr

/-- The fuse array (R482): root key hashes, revocations, count of blown SVN bits and keys; the fuses that registers
report and DBGLOCK stand in `Dev`, where no command changes them. -/
structure Fuses where
  rootkh : List (BitVec 384) := [0, 0, 0, 0]
  krev : BitVec 4 := 0
  svn : Nat := 0
  mckey : BitVec 256 := 0
  uds : BitVec 256 := 0
  deriving DecidableEq, Repr

/-- The K936 as a block: the device, Fumarole, the fuses, and the commands that wait, first in, first out. -/
structure State where
  dev : Dev := {}
  fum : Fumarole := {}
  fuses : Fuses := {}
  pending : List Instr := []
  deriving DecidableEq, Repr

/-- The K936 after a cold reset, before its cold start runs (R493, R478): every register at its Reset column, nothing started,
memory with nothing listed, no command waiting. Values that no rule gives are named in log entries 1, 2, 4 and 5. -/
def State.reset : State := {}

/-- Reasons to stop with a fault. -/
inductive Fault where
  /-- Raised by CUSTODY_DEBUG_ACCESS at a physical cell address outside local device memory and the island banks, where
  the manual gives custody debug no storage (R509, R328). Safe: the model stops where the hardware answers something. -/
  | noStorage (addr : Nat)
  deriving DecidableEq, Repr

/-- Reasons to refuse a command. -/
inductive Refusal where
  /-- Raised by no meaning: the arm of a command that has none yet. Safe. -/
  | notModelled (mnemonic : String)
  deriving DecidableEq, Repr

end Sys2Proof.Machine
end

