-- ==== Sys2Proof/Machine/Bits.lean ====
section
/-!
DEFINITION. Bit fields of numbers, finite maps, cells joined into words and words cut into cells (R2, R3, R26).
-/

namespace Sys2Proof.Machine

/-- Bits `hi:lo` of `v`. -/
def bitsOf (v hi lo : Nat) : Nat := v / 2 ^ lo % 2 ^ (hi + 1 - lo)

/-- Bit `b` of `v`. -/
def bitOf (v b : Nat) : Bool := v / 2 ^ b % 2 == 1

/-- `v` with bits `hi:lo` replaced by the low bits of `x`. -/
def setBits (v hi lo x : Nat) : Nat :=
  v / 2 ^ (hi + 1) * 2 ^ (hi + 1) + x % 2 ^ (hi + 1 - lo) * 2 ^ lo + v % 2 ^ lo

/-- A flag as a number. -/
def flagNat (b : Bool) : Nat := if b then 1 else 0

/-- `v`, or `m` when `v` lies above it (a saturating field). -/
def satNat (v m : Nat) : Nat := if v ≤ m then v else m

/-- The value listed at key `k`. -/
def AMap.find {α : Type} (k : Nat) : AMap α → Option α
  | [] => none
  | (j, v) :: t => if j = k then some v else AMap.find k t

/-- The value at key `k`, or `d` where none is listed. -/
def AMap.getD' {α : Type} (m : AMap α) (k : Nat) (d : α) : α := (m.find k).getD d

/-- The map with value `v` at key `k`. -/
def AMap.put {α : Type} (k : Nat) (v : α) : AMap α → AMap α
  | [] => [(k, v)]
  | (j, w) :: t => if j = k then (k, v) :: t else if k < j then (k, v) :: (j, w) :: t else (j, w) :: AMap.put k v t

/-- The map without key `k`. -/
def AMap.del {α : Type} (k : Nat) : AMap α → AMap α
  | [] => []
  | (j, w) :: t => if j = k then AMap.del k t else (j, w) :: AMap.del k t

/-- Cells read as one number, lowest address most significant (R3). -/
def cellsNat (cs : List Cell) : Nat := cs.foldl (fun a c => a * 512 + c.toNat) 0

/-- The low 9·`n` bits of `v` as `n` cells, most significant first (R3). -/
def natCells : Nat → Nat → List Cell
  | 0, _ => []
  | n + 1, v => BitVec.ofNat 9 (v / 512 ^ n) :: natCells n v

/-- A word from its four cells. -/
def cellsWord (cs : List Cell) : Word := BitVec.ofNat 36 (cellsNat cs)

/-- The four cells of a word. -/
def wordCells (w : Word) : List Cell := natCells 4 w.toNat

/-- Cut a list into pieces of `n`, at most `fuel` of them. -/
def chunks {α : Type} (n : Nat) : Nat → List α → List (List α)
  | 0, _ => []
  | fuel + 1, l => if l.isEmpty then [] else l.take n :: chunks n fuel (l.drop n)

/-- The words of a list of cells. -/
def cellsWords (cs : List Cell) : List Word := (chunks 4 (cs.length / 4) cs).map cellsWord

/-- The cells of a list of words. -/
def wordsCells (ws : List Word) : List Cell := ws.flatMap wordCells

/-- `v` as a signed number of `bits` bits. -/
def signed (bits v : Nat) : Int := if v < 2 ^ (bits - 1) then (v : Int) else (v : Int) - (2 ^ bits : Nat)

/-- The low `bits` bits of a two's complement number. -/
def wrap (bits : Nat) (v : Int) : Nat := (v % (2 ^ bits : Nat)).toNat

/-- Sign extension of the low `bits` bits of `v`, as a number modulo 2³⁶ (R69). -/
def sext36 (bits v : Nat) : Nat := wrap 36 (signed bits (v % 2 ^ bits))

/-- `0, 1, …, n - 1`. -/
def upto : Nat → List Nat
  | 0 => []
  | n + 1 => upto n ++ [n]

/-- `a, a + 1, …, a + n - 1`. -/
def fromN (a : Nat) : Nat → List Nat
  | 0 => []
  | n + 1 => a :: fromN (a + 1) n

/-- Little-endian bytes as a number. -/
def bytesNat (bs : List Byte) : Nat := bs.foldr (fun b a => a * 256 + b.toNat) 0

/-- The low `n` bytes of a number, little-endian. -/
def natBytes : Nat → Nat → List Byte
  | 0, _ => []
  | n + 1, v => BitVec.ofNat 8 v :: natBytes n (v / 256)

end Sys2Proof.Machine
end

