-- ==== Sys2Proof/Machine/RegMap.lean ====
section
/-!
DEFINITION. The register map (chapter 19): where each register lies (R522), its fields with access codes and reset columns
(R8, R9), the two views (R511, R512), and the parts of a register access that all registers share (R514, R518, R519).
-/

namespace Sys2Proof.Machine

/-- Access codes of R8. -/
inductive Acc where
  | rw | ro | rc | wo | w1c | w1s | rwl
  deriving DecidableEq, Repr

/-- A field: bits, access, reset value, whether a warm reset keeps it, whether an island reset reaches it, and the accesses
that the PF0 view may make (R512). Bits of no field are reserved. -/
structure Fld where
  hi : Nat
  lo : Nat
  acc : Acc
  rst : Nat := 0
  keep : Bool := false
  isl : Bool := false
  r0 : Bool := false
  w0 : Bool := false
  deriving DecidableEq, Repr

/-- Index of `off` in an array of `n` registers from `base` at `stride`. -/
def regIdx (off base stride n : Nat) : Option Nat :=
  if base ≤ off ∧ (off - base) % stride = 0 ∧ (off - base) / stride < n then some ((off - base) / stride) else none

/-! Offsets (R522). -/

def offDEVID : Nat := 0x0000000
def offSERIAL : Nat := 0x0000008
def offDEVCAP : Nat := 0x0000010
def offMAPREV : Nat := 0x0000018
def offTRL1 : Nat := 0x0001000
def offTRLC : Nat := 0x0001008
def offTRC1 : Nat := 0x0001010
def offTRCC : Nat := 0x0001018
def offTRL2A : Nat := 0x0001020
def offTRL2B : Nat := 0x0001028
def offTRC2A : Nat := 0x0001030
def offTRC2B : Nat := 0x0001038
def offEPOCHAGE : Nat := 0x0001040
def offISRC (n : Nat) : Nat := 0x0008000 + 8 * n
def offFTB : Nat := 0x0010000
def offFTBADJ : Nat := 0x0010008
def offFCMPT (n : Nat) : Nat := 0x0010100 + 0x10 * n
def offFCMPC (n : Nat) : Nat := 0x0010108 + 0x10 * n
def offFANA (k : Nat) : Nat := 0x0010300 + 8 * k
def offFWD : Nat := 0x0010400
def offMBCMD : Nat := 0x0020000
def offMBSTAT : Nat := 0x0020008
/-- The ledger mailbox is kept above the 256 MiB of the map, because its offsets hold host MBDATA in the PF1 view (R513). -/
def offLMB : Nat := 0x10021000
def offCUSTSTAT : Nat := 0x0022000
def offFHCFG : Nat := 0x0030000
def offFHSTAT : Nat := 0x0030008
def offFHLOCK : Nat := 0x0030010
def offELOG (n k : Nat) : Nat := 0x0031000 + 0x20 * n + 8 * k
def offFHLOST (n : Nat) : Nat := 0x0033000 + 8 * n
def offPWRCTL : Nat := 0x0040000
def offPWRSTAT : Nat := 0x0040008
def offCPLOCK : Nat := 0x0040010
def offRSTVEC : Nat := 0x00400F8
def offISLRST : Nat := 0x0040100
def offCORERST : Nat := 0x0040108
def offISLCLK (i : Nat) : Nat := 0x0040200 + 8 * i
/-- Queue register `r` (R383: 0 QSQB, 1 QCQB, 2 QCFG, 3 QBIND, 4 QSEGS, 5 QIMG, 6 QSTAT, 7 QDONE). -/
def offQ (q r : Nat) : Nat := 0x0100000 + 0x40 * q + 8 * r
def offQSQB (q : Nat) : Nat := offQ q 0
def offQCQB (q : Nat) : Nat := offQ q 1
def offQCFG (q : Nat) : Nat := offQ q 2
def offQBIND (q : Nat) : Nat := offQ q 3
def offQSEGS (q : Nat) : Nat := offQ q 4
def offQIMG (q : Nat) : Nat := offQ q 5
def offQSTAT (q : Nat) : Nat := offQ q 6
def offQDONE (q : Nat) : Nat := offQ q 7
def offCWBASE : Nat := 0x0108000
def offCWSTAT : Nat := 0x0108008
def offCVCTL : Nat := 0x0200000
def offCVSTAT : Nat := 0x0200008
def offCVPROF (n : Nat) : Nat := 0x0200100 + 8 * n
def offCVTBL (t j : Nat) : Nat := 0x0201000 + 0x100 * t + 8 * j
def offCVFLD (f : Nat) : Nat := 0x0204000 + 8 * f
def offSNCFG : Nat := 0x0300000
def offSNSTAT : Nat := 0x0300008
def offSNSEQ : Nat := 0x0300010
def offSNACK : Nat := 0x0300018
def offSNCMD : Nat := 0x0300020
def offSNJRNL : Nat := 0x0300028
def offSNJDRN : Nat := 0x0300030
def offPLCFG : Nat := 0x0340000
def offPLPFX : Nat := 0x0340008
def offPLEXP : Nat := 0x0340010
def offPLWIN (p : Nat) : Nat := 0x0340100 + 8 * p
def offCLCTL : Nat := 0x0400000
def offCLTHR : Nat := 0x0400008
def offCLBUD : Nat := 0x0400010
def offCLFRZ : Nat := 0x0400018
def offCLSTAT : Nat := 0x0400020
def offCLHTB : Nat := 0x0400028
def offCLHNTB : Nat := 0x0400030
def offCLMOVE : Nat := 0x0400038
def offCLPIN (n : Nat) : Nat := 0x0400100 + 8 * n
def offMCSCRUB (s : Nat) : Nat := 0x0800100 + 0x40000 * s
def offMCECC (s : Nat) : Nat := 0x0800108 + 0x40000 * s
def offPUSTAT (p : Nat) : Nat := 0x0820000 + 0x40000 * (p / 32) + 0x400 * (p % 32)
def offIsl (i : Nat) : Nat := 0x1000000 + 0x100000 * i
def offCCPIN (i : Nat) : Nat := offIsl i + 0x200
def offBANKOWN (i b : Nat) : Nat := offIsl i + 0x10000 + 8 * b
def offBANKREP (i b : Nat) : Nat := offIsl i + 0x10080 + 8 * b
def offGYCTL (i : Nat) : Nat := offIsl i + 0x20000
def offGYSTAT (i : Nat) : Nat := offIsl i + 0x20008
def offGYELEM (i : Nat) : Nat := offIsl i + 0x20010
def offSCHEDCFG (c : Nat) : Nat := offIsl (c / 8) + 0x80100 + 0x10000 * (c % 8)
def offDBGC (c : Nat) : Nat := 0x2000000 + 0x100 * c
def offDBGPC (c : Nat) : Nat := 0x2000008 + 0x100 * c
def offTRCTL (i : Nat) : Nat := 0x2100000 + 0x100 * i
def offTRBASE (i : Nat) : Nat := 0x2100008 + 0x100 * i

/-- Fields of ISRCn (R221); the PF0 rights hold while WORLD is 0. -/
def fldsISRC (n : Nat) : List Fld :=
  let hub := decide (1008 ≤ n)
  [{ hi := 63, lo := 63, acc := .ro, r0 := true }, { hi := 62, lo := 62, acc := .wo, w0 := true },
   { hi := 61, lo := 61, acc := .rw, r0 := true, w0 := true },
   { hi := 60, lo := 60, acc := if hub then .ro else .rw, rst := if hub then 1 else 0, r0 := true },
   { hi := 59, lo := 57, acc := if hub then .ro else .rw, rst := if hub then 7 else 0, r0 := true, w0 := true },
   { hi := 56, lo := 49, acc := .rw, r0 := true, w0 := true }, { hi := 48, lo := 42, acc := .rw, r0 := true, w0 := true }]

/-- Fields of queue register `r` (R383). -/
def fldsQueue (q r : Nat) : List Fld :=
  let v := decide (q < 256)
  match r with
  | 0 => [{ hi := 63, lo := 12, acc := .rw, r0 := v, w0 := v }]
  | 1 => [{ hi := 63, lo := 12, acc := .rw, r0 := v, w0 := v }]
  | 2 => [{ hi := 63, lo := 63, acc := .rw, r0 := v, w0 := v }, { hi := 62, lo := 62, acc := .rw, r0 := v, w0 := v },
          { hi := 61, lo := 61, acc := .rw, r0 := v, w0 := v }, { hi := 60, lo := 60, acc := .rw, r0 := v, w0 := v },
          { hi := 59, lo := 58, acc := .rw, r0 := v, w0 := v }, { hi := 57, lo := 57, acc := .wo, w0 := v },
          { hi := 56, lo := 52, acc := .rw, rst := 4, r0 := v, w0 := v },
          { hi := 51, lo := 47, acc := .rw, rst := 4, r0 := v, w0 := v },
          { hi := 39, lo := 32, acc := .rw, r0 := v, w0 := v },
          { hi := 31, lo := 24, acc := .rw, rst := 1, r0 := v, w0 := v },
          { hi := 20, lo := 12, acc := .rw, r0 := v, w0 := v }]
  | 3 => [{ hi := 63, lo := 63, acc := .rw, r0 := v, w0 := v }, { hi := 54, lo := 48, acc := .rw, r0 := v, w0 := v },
          { hi := 45, lo := 40, acc := .rw, r0 := v, w0 := v }]
  | 4 => [{ hi := 47, lo := 0, acc := .rw, r0 := v, w0 := v }]
  | 5 => [{ hi := 35, lo := 0, acc := .rw, r0 := v, w0 := v }]
  | 6 => [{ hi := 63, lo := 48, acc := .ro, r0 := v }, { hi := 47, lo := 32, acc := .ro, r0 := v },
          { hi := 31, lo := 16, acc := .ro, r0 := v }, { hi := 15, lo := 8, acc := .ro, r0 := v },
          { hi := 7, lo := 7, acc := .ro, r0 := v }, { hi := 2, lo := 2, acc := .w1c, r0 := v, w0 := v },
          { hi := 1, lo := 1, acc := .w1c, r0 := v, w0 := v }, { hi := 0, lo := 0, acc := .ro, r0 := v }]
  | _ => [{ hi := 63, lo := 48, acc := .wo, w0 := v }, { hi := 47, lo := 24, acc := .wo, w0 := v },
          { hi := 23, lo := 16, acc := .wo, w0 := v }, { hi := 15, lo := 0, acc := .wo, w0 := v }]

/-- Fields of the identity, translation-root, distributor and Fumarole blocks (R520, R330, R352, R221, R505). -/
def fldsLow (off : Nat) : Option (List Fld) :=
  if off = offDEVID then
    some [{ hi := 63, lo := 48, acc := .ro, r0 := true }, { hi := 47, lo := 32, acc := .ro, r0 := true },
          { hi := 15, lo := 12, acc := .ro, r0 := true }, { hi := 11, lo := 8, acc := .ro, r0 := true },
          { hi := 1, lo := 1, acc := .ro, r0 := true }, { hi := 0, lo := 0, acc := .ro, r0 := true }]
  else if off = offSERIAL then some [{ hi := 63, lo := 0, acc := .ro, r0 := true }]
  else if off = offDEVCAP then
    some [{ hi := 27, lo := 24, acc := .ro, r0 := true }, { hi := 23, lo := 20, acc := .ro, r0 := true },
          { hi := 19, lo := 12, acc := .ro, r0 := true }, { hi := 11, lo := 8, acc := .ro, r0 := true },
          { hi := 7, lo := 0, acc := .ro, r0 := true }]
  else if off = offMAPREV then some [{ hi := 15, lo := 0, acc := .ro, r0 := true }]
  else if off = offTRL1 ∨ off = offTRLC then
    some [{ hi := 63, lo := 63, acc := .rw, r0 := true, w0 := true }, { hi := 35, lo := 0, acc := .rw, r0 := true, w0 := true }]
  else if off = offTRC1 ∨ off = offTRCC then some [{ hi := 63, lo := 63, acc := .rw }, { hi := 35, lo := 0, acc := .rw }]
  else if off = offTRL2A ∨ off = offTRL2B ∨ off = offTRC2A ∨ off = offTRC2B then
    some [{ hi := 63, lo := 63, acc := .rw }, { hi := 31, lo := 0, acc := .rw }]
  else if off = offEPOCHAGE then
    some [{ hi := 17, lo := 16, acc := .ro, r0 := true }, { hi := 1, lo := 1, acc := .rw, r0 := true },
          { hi := 0, lo := 0, acc := .rw, r0 := true }]
  else match regIdx off (offISRC 0) 8 1024 with
  | some n => some (fldsISRC n)
  | none =>
    if off = offFTB then some [{ hi := 63, lo := 0, acc := .ro, keep := true, r0 := true }]
    else if off = offFTBADJ then
      some [{ hi := 63, lo := 32, acc := .rw, keep := true }, { hi := 31, lo := 0, acc := .wo, keep := true }]
    else match regIdx off (offFCMPT 0) 0x10 16, regIdx off (offFCMPC 0) 0x10 16 with
    | some n, _ => let v := decide (n < 8); some [{ hi := 63, lo := 0, acc := .rw, keep := true, r0 := v, w0 := v }]
    | _, some n =>
      let v := decide (n < 8)
      some [{ hi := 63, lo := 32, acc := .rw, keep := true, r0 := v, w0 := v },
            { hi := 31, lo := 24, acc := .rc, keep := true, r0 := v, w0 := v },
            { hi := 23, lo := 17, acc := .rw, keep := true, r0 := v, w0 := v },
            { hi := 16, lo := 11, acc := .rw, keep := true, r0 := v, w0 := v },
            { hi := 3, lo := 3, acc := .rw, keep := true, r0 := v, w0 := v },
            { hi := 2, lo := 2, acc := .rw, keep := true, r0 := v, w0 := v },
            { hi := 1, lo := 1, acc := .rw, keep := true, r0 := v, w0 := v },
            { hi := 0, lo := 0, acc := .rw, keep := true, r0 := v, w0 := v }]
    | none, none =>
      if (regIdx off (offFANA 0) 8 4).isSome then
        some [{ hi := 31, lo := 31, acc := .ro, keep := true }, { hi := 30, lo := 30, acc := .rw, keep := true },
              { hi := 25, lo := 16, acc := .rw, rst := 8, keep := true }, { hi := 9, lo := 0, acc := .rw, rst := 1023, keep := true }]
      else if off = offFWD then
        some [{ hi := 32, lo := 32, acc := .w1s, keep := true }, { hi := 31, lo := 24, acc := .wo, keep := true },
              { hi := 16, lo := 16, acc := .rw, keep := true }, { hi := 15, lo := 0, acc := .rw, rst := 1000, keep := true }]
      else none

/-- Fields of a mailbox: MBCMD and MBSTAT (R489). The ledger mailbox is reached through PF0. -/
def fldsMailbox (k : Nat) (led : Bool) : Option (List Fld) :=
  if k = 0 then some [{ hi := 15, lo := 8, acc := .wo, w0 := led }, { hi := 7, lo := 0, acc := .wo, w0 := led }]
  else if k = 8 then
    some [{ hi := 17, lo := 17, acc := .ro, r0 := led }, { hi := 16, lo := 16, acc := .w1c, r0 := led, w0 := led },
          { hi := 15, lo := 8, acc := .ro, r0 := led }, { hi := 7, lo := 0, acc := .ro, r0 := led }]
  else none

/-- Fields of the custody, fault-hub and clock and power blocks (R489, R491, R459, R476, R501, R519). -/
def fldsMid (off : Nat) : Option (List Fld) :=
  if off = offMBCMD ∨ off = offMBSTAT then fldsMailbox (off - offMBCMD) false
  else if off = offLMB ∨ off = offLMB + 8 then fldsMailbox (off - offLMB) true
  else if off = offCUSTSTAT then
    some [{ hi := 39, lo := 32, acc := .ro }, { hi := 31, lo := 24, acc := .ro }, { hi := 23, lo := 12, acc := .ro },
          { hi := 11, lo := 11, acc := .ro }, { hi := 10, lo := 10, acc := .ro }, { hi := 7, lo := 4, acc := .ro },
          { hi := 3, lo := 0, acc := .ro }]
  else if off = offFHCFG then
    some [{ hi := 16, lo := 16, acc := .rw, rst := 1 }, { hi := 14, lo := 8, acc := .rwl, rst := 95 },
          { hi := 7, lo := 0, acc := .rw, rst := 16 }]
  else if off = offFHSTAT then
    some [{ hi := 63, lo := 63, acc := .w1c, keep := true, r0 := true }, { hi := 62, lo := 62, acc := .w1c, keep := true, r0 := true },
          { hi := 61, lo := 61, acc := .ro, r0 := true }, { hi := 47, lo := 16, acc := .rc, keep := true, r0 := true },
          { hi := 7, lo := 0, acc := .ro, keep := true, r0 := true }]
  else if off = offFHLOCK ∨ off = offCPLOCK then some [{ hi := 0, lo := 0, acc := .w1s }]
  else match regIdx off (offELOG 0 0) 8 1024, regIdx off (offFHLOST 0) 8 96 with
  | some k, _ =>
    if k % 4 = 0 then
      some [{ hi := 63, lo := 63, acc := .w1c, keep := true }, { hi := 62, lo := 61, acc := .ro, keep := true },
            { hi := 55, lo := 48, acc := .ro, keep := true }, { hi := 47, lo := 44, acc := .ro, keep := true },
            { hi := 43, lo := 32, acc := .ro, keep := true }, { hi := 31, lo := 0, acc := .ro, keep := true }]
    else if k % 4 = 2 then some [{ hi := 63, lo := 62, acc := .ro, keep := true }, { hi := 47, lo := 0, acc := .ro, keep := true }]
    else some [{ hi := 63, lo := 0, acc := .ro, keep := true }]
  | _, some _ => some [{ hi := 63, lo := 0, acc := .rc, r0 := true }]
  | none, none =>
    if off = offPWRCTL then some [{ hi := 0, lo := 0, acc := .wo }]
    else if off = offPWRSTAT then some [{ hi := 11, lo := 8, acc := .ro }, { hi := 1, lo := 0, acc := .ro }]
    else if off = offRSTVEC then some [{ hi := 35, lo := 0, acc := .rwl, keep := true }]
    else if off = offISLRST then some [{ hi := 11, lo := 0, acc := .wo }]
    else if off = offCORERST then some [{ hi := 7, lo := 7, acc := .wo }, { hi := 6, lo := 0, acc := .wo }]
    else if (regIdx off (offISLCLK 0) 8 12).isSome then
      some [{ hi := 9, lo := 9, acc := .ro, isl := true }, { hi := 8, lo := 8, acc := .rw, rst := 1, isl := true },
            { hi := 4, lo := 0, acc := .rw, rst := 22, isl := true }]
    else none

/-- Fields of the queue manager, conversion, Sinter, peer-network and Caldera blocks (R380, R383, R414, R451, R452, R373). -/
def fldsIo (off : Nat) : Option (List Fld) :=
  match regIdx off (offQ 0 0) 8 2176 with
  | some k => some (fldsQueue (k / 8) (k % 8))
  | none =>
    if off = offCWBASE then
      some [{ hi := 63, lo := 63, acc := .rw, r0 := true, w0 := true }, { hi := 35, lo := 0, acc := .rw, r0 := true, w0 := true }]
    else if off = offCWSTAT then
      some [{ hi := 63, lo := 32, acc := .rc, r0 := true, w0 := true }, { hi := 31, lo := 0, acc := .rc, r0 := true, w0 := true }]
    else if off = offCVCTL then some [{ hi := 0, lo := 0, acc := .w1s, r0 := true, w0 := true }]
    else if off = offCVSTAT then some [{ hi := 63, lo := 32, acc := .ro, r0 := true }, { hi := 15, lo := 0, acc := .rc, r0 := true }]
    else if (regIdx off (offCVPROF 1) 8 63).isSome then
      some ([(63, 63), (62, 62), (61, 61), (60, 60), (55, 46), (45, 40), (27, 16), (11, 0)].map fun p =>
        { hi := p.1, lo := p.2, acc := .rwl, r0 := true, w0 := true })
    else if (regIdx off (offCVFLD 0) 8 1024).isSome then
      some ([(63, 60), (59, 56), (55, 53), (52, 52), (47, 36), (35, 24), (23, 12), (11, 0)].map fun p =>
        { hi := p.1, lo := p.2, acc := .rwl, r0 := true, w0 := true })
    else match regIdx off (offCVTBL 0 0) 8 512 with
    | some k =>
      some [{ hi := 63, lo := 0, acc := .rwl, rst := bytesNat ((fromN (8 * (k % 32)) 8).map (BitVec.ofNat 8)), r0 := true, w0 := true }]
    | none =>
      if off = offSNCFG then
        some [{ hi := 47, lo := 40, acc := .rw, rst := 100 }, { hi := 39, lo := 36, acc := .rw }, { hi := 3, lo := 3, acc := .rw },
              { hi := 2, lo := 2, acc := .rw }, { hi := 1, lo := 0, acc := .rw }]
      else if off = offSNSTAT then
        some [{ hi := 63, lo := 32, acc := .ro, r0 := true }, { hi := 31, lo := 28, acc := .ro, r0 := true },
              { hi := 27, lo := 27, acc := .ro, r0 := true }, { hi := 26, lo := 26, acc := .ro, rst := 1, r0 := true },
              { hi := 25, lo := 25, acc := .ro, r0 := true }, { hi := 24, lo := 24, acc := .ro, r0 := true },
              { hi := 23, lo := 16, acc := .rc, r0 := true }]
      else if off = offSNSEQ then some [{ hi := 63, lo := 0, acc := .ro, rst := 1, keep := true, r0 := true }]
      else if off = offSNACK then some [{ hi := 63, lo := 0, acc := .ro }]
      else if off = offSNCMD then some [{ hi := 8, lo := 8, acc := .wo }, { hi := 3, lo := 0, acc := .wo }]
      else if off = offSNJRNL then
        some [{ hi := 63, lo := 63, acc := .rw }, { hi := 36, lo := 32, acc := .rw, rst := 10 }, { hi := 31, lo := 0, acc := .rw }]
      else if off = offSNJDRN then some [{ hi := 63, lo := 0, acc := .rw, r0 := true, w0 := true }]
      else if off = offPLCFG then
        some [{ hi := 63, lo := 63, acc := .rw }, { hi := 62, lo := 58, acc := .rw }, { hi := 57, lo := 57, acc := .rw },
              { hi := 31, lo := 16, acc := .rw, rst := 0xB936 }]
      else if off = offPLPFX then some [{ hi := 63, lo := 0, acc := .rw }]
      else if off = offPLEXP then some [{ hi := 63, lo := 32, acc := .rw }, { hi := 31, lo := 0, acc := .rw }]
      else if (regIdx off (offPLWIN 1) 8 31).isSome then
        some ([(63, 63), (62, 62), (61, 61), (14, 10), (4, 0)].map fun p => { hi := p.1, lo := p.2, acc := .rw })
      else if off = offCLCTL then
        some [{ hi := 31, lo := 24, acc := .rw, rst := 16 }, { hi := 19, lo := 16, acc := .rw, rst := 4 },
              { hi := 10, lo := 8, acc := .rw, rst := 2 }, { hi := 3, lo := 3, acc := .rw }, { hi := 2, lo := 2, acc := .rw },
              { hi := 1, lo := 1, acc := .rw }, { hi := 0, lo := 0, acc := .rw }]
      else if off = offCLTHR then
        some [{ hi := 63, lo := 56, acc := .rw }, { hi := 51, lo := 48, acc := .rw, rst := 8 }, { hi := 47, lo := 32, acc := .rw },
              { hi := 19, lo := 16, acc := .rw, rst := 12 }, { hi := 15, lo := 0, acc := .rw, rst := 64 }]
      else if off = offCLBUD then
        some [{ hi := 23, lo := 16, acc := .rw, rst := 16 }, { hi := 12, lo := 10, acc := .rw, rst := 3 },
              { hi := 9, lo := 0, acc := .rw, rst := 256 }]
      else if off = offCLFRZ then
        some [{ hi := 3, lo := 3, acc := .ro, rst := 1 }, { hi := 2, lo := 2, acc := .rw }, { hi := 1, lo := 1, acc := .rw },
              { hi := 0, lo := 0, acc := .rw }]
      else if off = offCLSTAT then
        some [{ hi := 63, lo := 40, acc := .ro, r0 := true }, { hi := 39, lo := 32, acc := .rc, r0 := true },
              { hi := 31, lo := 24, acc := .rc, r0 := true }, { hi := 23, lo := 20, acc := .rc, r0 := true },
              { hi := 19, lo := 16, acc := .ro, r0 := true }, { hi := 15, lo := 0, acc := .ro, r0 := true }]
      else if off = offCLHTB ∨ off = offCLHNTB then some [{ hi := 63, lo := 63, acc := .rw }, { hi := 31, lo := 0, acc := .rw }]
      else if off = offCLMOVE then
        some ([(63, 63), (55, 32), (25, 19), (18, 13), (12, 6), (5, 0)].map fun p => { hi := p.1, lo := p.2, acc := .rc, r0 := true })
      else if (regIdx off (offCLPIN 0) 8 32).isSome then
        some ([(63, 63), (62, 62), (61, 61), (42, 16), (15, 0)].map fun p => { hi := p.1, lo := p.2, acc := .rw })
      else none

/-- Fields of the stack blocks (R299, R312). -/
def fldsStack (off : Nat) : Option (List Fld) :=
  if (regIdx off (offMCSCRUB 0) 0x40000 8).isSome then
    some [{ hi := 32, lo := 32, acc := .rw, rst := 1 }, { hi := 15, lo := 0, acc := .rw, rst := 24 }]
  else if (regIdx off (offMCECC 0) 0x40000 8).isSome then some [{ hi := 63, lo := 32, acc := .rc }, { hi := 31, lo := 0, acc := .rc }]
  else match regIdx off 0x820000 0x400 (256 * 8) with
  | some k =>
    if k % 256 < 32 then
      some [{ hi := 63, lo := 63, acc := .ro, r0 := true }, { hi := 47, lo := 16, acc := .ro, r0 := true },
            { hi := 6, lo := 0, acc := .ro, r0 := true }]
    else none
  | none => none

/-- Fields of an island's blocks (R239, R322, R326, R290, R216), by offset within the island's 1 MiB. -/
def fldsIsland (o : Nat) : Option (List Fld) :=
  if o = 0x200 then
    some [{ hi := 16, lo := 16, acc := .wo, isl := true }, { hi := 8, lo := 8, acc := .rw, isl := true },
          { hi := 2, lo := 0, acc := .rw, isl := true }]
  else if (regIdx o 0x10000 8 16).isSome then
    some [{ hi := 15, lo := 8, acc := .rc, isl := true }, { hi := 7, lo := 7, acc := .wo, isl := true },
          { hi := 6, lo := 6, acc := .ro, isl := true }, { hi := 2, lo := 0, acc := .rw, rst := 1, isl := true }]
  else if (regIdx o 0x10080 8 16).isSome then
    some [{ hi := 23, lo := 23, acc := .rw, keep := true }, { hi := 21, lo := 16, acc := .rw, keep := true },
          { hi := 15, lo := 15, acc := .rw, keep := true }, { hi := 13, lo := 8, acc := .rw, keep := true },
          { hi := 2, lo := 0, acc := .ro, keep := true }]
  else if o = 0x20000 then some [{ hi := 1, lo := 1, acc := .rw, isl := true }, { hi := 0, lo := 0, acc := .ro, isl := true }]
  else if o = 0x20008 then
    some [{ hi := 20, lo := 16, acc := .ro, isl := true, r0 := true }, { hi := 15, lo := 12, acc := .ro, isl := true, r0 := true },
          { hi := 0, lo := 0, acc := .ro, isl := true, r0 := true }]
  else if o = 0x20010 then some [{ hi := 63, lo := 0, acc := .ro, isl := true, r0 := true }]
  else if (regIdx o 0x80100 0x10000 8).isSome then
    some [{ hi := 35, lo := 32, acc := .rw, rst := 1, isl := true }, { hi := 31, lo := 26, acc := .rw, isl := true },
          { hi := 16, lo := 16, acc := .rw, rst := 1, isl := true }, { hi := 6, lo := 0, acc := .ro, rst := 0x7F, isl := true }]
  else none

/-- Fields of the debug and trace block (R523). -/
def fldsDebug (off : Nat) : Option (List Fld) :=
  if (regIdx off (offDBGC 0) 0x100 96).isSome then
    some [{ hi := 2, lo := 2, acc := .wo, isl := true }, { hi := 1, lo := 1, acc := .ro, isl := true },
          { hi := 0, lo := 0, acc := .rw, isl := true }]
  else if (regIdx off (offDBGPC 0) 0x100 96).isSome then some [{ hi := 35, lo := 0, acc := .ro, isl := true }]
  else if (regIdx off (offTRCTL 0) 0x100 12).isSome then
    some [{ hi := 63, lo := 32, acc := .rc, isl := true }, { hi := 31, lo := 16, acc := .rw, rst := 1, isl := true },
          { hi := 15, lo := 8, acc := .rw, isl := true }, { hi := 0, lo := 0, acc := .rw, isl := true }]
  else if (regIdx off (offTRBASE 0) 0x100 12).isSome then
    some [{ hi := 63, lo := 32, acc := .ro, isl := true }, { hi := 31, lo := 0, acc := .rw, isl := true }]
  else none

/-- The fields of the register at byte offset `off`, a multiple of 8; none where no chapter assigns the offset (R515). -/
def regFields (off : Nat) : Option (List Fld) :=
  if off < 0x20000 then fldsLow off
  else if off < 0x100000 then fldsMid off
  else if off < 0x800000 then fldsIo off
  else if off < 0x1000000 then fldsStack off
  else if off < 0x1C00000 then fldsIsland ((off - 0x1000000) % 0x100000)
  else if 0x2000000 ≤ off ∧ off < 0x2200000 then fldsDebug off
  else if off = offLMB ∨ off = offLMB + 8 then fldsMid off
  else none

/-- The Reset column of the register at `off`. -/
def regReset (off : Nat) : Nat := ((regFields off).getD []).foldl (fun v f => v + f.rst * 2 ^ f.lo) 0

/-- The stored value of the register at `off`. -/
def Dev.rd (d : Dev) (off : Nat) : Nat :=
  match d.regs.find off with
  | some v => v.toNat
  | none => regReset off

/-- Bits `hi:lo` of the register at `off`, as stored. -/
def Dev.fld (d : Dev) (off hi lo : Nat) : Nat := bitsOf (d.rd off) hi lo

/-- Bit `b` of the register at `off`, as stored. -/
def Dev.bit (d : Dev) (off b : Nat) : Bool := bitOf (d.rd off) b

/-- The register at `off` holding `v`. -/
def Dev.wr (d : Dev) (off v : Nat) : Dev := { d with regs := d.regs.put off (BitVec.ofNat 64 v) }

/-- A hardware update of bits `hi:lo` of the register at `off`. -/
def Dev.setFld (d : Dev) (off hi lo v : Nat) : Dev := d.wr off (setBits (d.rd off) hi lo v)

/-- A hardware update of one bit. -/
def Dev.setBit (d : Dev) (off b : Nat) (v : Bool) : Dev := d.setFld off b b (flagNat v)

/-- A saturating addition to bits `hi:lo` of the register at `off`. -/
def Dev.addSat (d : Dev) (off hi lo n : Nat) : Dev :=
  d.setFld off hi lo (satNat (d.fld off hi lo + n) (2 ^ (hi + 1 - lo) - 1))

/-- Reset kinds that reach registers by field (R9). -/
inductive RegReset where
  | cold | warm | island
  deriving DecidableEq, Repr

/-- The value that a register takes at a reset of a kind that reaches its block. -/
def regAfterReset (k : RegReset) (off v : Nat) : Nat :=
  ((regFields off).getD []).foldl (fun a f =>
    let stays := match k with
      | .cold => false
      | .warm => f.keep
      | .island => !f.isl
    if stays then a else setBits a f.hi f.lo f.rst) v

/-- The listed registers after a reset; `sel` says which offsets the reset reaches. -/
def Dev.resetRegs (d : Dev) (k : RegReset) (sel : Nat → Bool) : Dev :=
  { d with regs := d.regs.map fun p => if sel p.1 then (p.1, BitVec.ofNat 64 (regAfterReset k p.1 p.2.toNat)) else p }

/-- Whether offset `off` belongs to island `i`: its blocks, its clock register and its cores' debug registers (R494). -/
def offOfIsland (i off : Nat) : Bool :=
  (decide (offIsl i ≤ off) && decide (off < offIsl i + 0x100000)) || off == offISLCLK i ||
  (decide (offDBGC (8 * i) ≤ off) && decide (off < offDBGC (8 * i + 8))) || off == offTRCTL i || off == offTRBASE i

/-- Whether offset `off` belongs to core `c` alone: SCHEDCFG, DBGC and DBGPC (R494). -/
def offOfCore (c off : Nat) : Bool := off == offSCHEDCFG c || off == offDBGC c || off == offDBGPC c

/-- Whether a view is the ledger's (R511). -/
def viewPf0 : View → Bool
  | .pf0 | .lwin | .bells false => true
  | _ => false

/-- The lock bit of the block that holds `off` (R519). -/
def Dev.locked (d : Dev) (off : Nat) : Bool :=
  if off = offFHCFG then d.bit offFHLOCK 0 else if off = offRSTVEC then d.bit offCPLOCK 0 else d.bit offCVCTL 0

end Sys2Proof.Machine
end

