-- ==== Sys2Proof/Machine/Memory.lean ====
section
/-!
DEFINITION. Memory as the manual lays it out: the physical map (R328), placement of lines (R294, R295, R539), line metadata
(R42), line-code outcomes (R297, R298), writes with their journal records (R420, R423), the dual-write window (R361), the
error log (R459 to R461) and the interrupt sources (R220, R222).
-/

namespace Sys2Proof.Machine

/-! ## Distributor sources and the error log -/

/-- The request that source `n` sends under its routing, when EN is 1, LEVEL is 1 to 7 and CORE names a core (R221, R222). -/
def Dev.routed (d : Dev) (n : Nat) : Option (Nat × IrqReq) :=
  let v := d.rd (offISRC n)
  let lev := bitsOf v 59 57
  let core := bitsOf v 48 42
  if bitOf v 61 && decide (1 ≤ lev) && decide (core < 96) then
    some (core, { source := n, level := lev, vector := bitsOf v 56 49, world := bitOf v 60 })
  else none

/-- An event of distributor source `n` (R222): it sets PEND and sends the request, or merges while PEND is 1. -/
def Dev.raise (d : Dev) (n : Nat) : Dev :=
  if d.bit (offISRC n) 63 then d
  else
    let d := d.setBit (offISRC n) 63 true
    match d.routed n with
    | some r => { d with irqNet := d.irqNet ++ [r] }
    | none => d

/-- Number of the newest log entry whose V is 1 (R461), looking back from HEAD over `fuel` entries. -/
def newestEntry (d : Dev) (head : Nat) : Nat → Option Nat
  | 0 => none
  | fuel + 1 =>
    let n := (head + 256 - (256 - fuel)) % 256
    match d.regs.find (offELOG n 0) with
    | some v => if bitOf v.toNat 63 then some n else newestEntry d head fuel
    | none => newestEntry d head fuel

/-- A report to the fault hub's log (R459 to R461): KIND, CLASS, UTYPE, UIDX, SPACE, ADDR, DATA. A KIND 0 or 2 report that
equals the newest valid entry merges into it; overwriting a valid entry sets OVF and raises source 1014. -/
def Dev.log (d : Dev) (kind cls utype uidx space addr data : Nat) : Dev :=
  let d := if cls = 0x10 then d.setBit offFHSTAT 63 true else d
  let head := d.fld offFHSTAT 7 0
  let hdr := kind * 2 ^ 61 + cls * 2 ^ 48 + utype * 2 ^ 44 + uidx * 2 ^ 32
  let old := (newestEntry d head 256).filter fun n =>
    kind != 1 && d.rd (offELOG n 0) / 2 ^ 32 * 2 ^ 32 == 2 ^ 63 + hdr && d.fld (offELOG n 2) 47 0 == addr % 2 ^ 48
  match old with
  | some n => d.addSat (offELOG n 0) 31 0 1
  | none =>
    let lost := d.bit (offELOG head 0) 63
    let d := d.wr (offELOG head 0) (2 ^ 63 + hdr + 1)
    let d := d.wr (offELOG head 1) d.now
    let d := d.wr (offELOG head 2) (space * 2 ^ 62 + addr % 2 ^ 48)
    let d := d.wr (offELOG head 3) data
    let d := d.setFld offFHSTAT 7 0 ((head + 1) % 256)
    if lost then (d.setBit offFHSTAT 62 true).raise 1014 else d

/-- An event report (KIND 2). -/
def Dev.logEvent (d : Dev) (cls utype uidx space addr data : Nat) : Dev := d.log 2 cls utype uidx space addr data

/-- A register write or command ignored (CLASS 0x12), at byte offset `off` with the written value. -/
def Dev.logIgnored (d : Dev) (off value : Nat) : Dev := d.logEvent 0x12 0 0 2 off value

/-! ## The physical map and placement -/

/-- Regions of the physical cell address space (R328). -/
inductive Region where
  | localMem
  | far (p : Nat)
  | bank (i : Nat)
  | ledWin
  | cusWin
  | host
  | none
  deriving DecidableEq, Repr

/-- First address of the ledger register window. -/
def ledWinBase : Nat := 2 ^ 43 + 2 ^ 40
/-- First address of the custody register window. -/
def cusWinBase : Nat := 2 ^ 43 + 2 ^ 41
/-- First address of the host window. -/
def hostWinBase : Nat := 2 ^ 43 + 2 ^ 42

/-- End of the backed local memory (R292). -/
def Dev.localTop (d : Dev) : Nat := if d.c192 then 3 * 2 ^ 36 else 2 ^ 37

/-- The region of physical cell address `a` (R328); a far window is backed while a peer is assigned (R452). -/
def Dev.region (d : Dev) (a : Nat) : Region :=
  if a < 2 ^ 38 then (if a < d.localTop then .localMem else .none)
  else if a < 2 ^ 43 then (if d.bit (offPLWIN (a / 2 ^ 38)) 63 then .far (a / 2 ^ 38) else .none)
  else if a < 2 ^ 43 + 12 * 2 ^ 21 then .bank ((a - 2 ^ 43) / 2 ^ 21)
  else if ledWinBase ≤ a ∧ a < ledWinBase + 2 ^ 25 then .ledWin
  else if cusWinBase ≤ a ∧ a < cusWinBase + 2 ^ 28 then .cusWin
  else if hostWinBase ≤ a ∧ a < 2 ^ 44 then .host
  else .none

/-- Whether `a` lies in a register window or the host window, which are side-effect regions (R329). -/
def Dev.windowed (d : Dev) (a : Nat) : Bool :=
  match d.region a with
  | .ledWin | .cusWin | .host => true
  | _ => false

/-- Exclusive-or of the `g`-bit groups of a band number (R295). -/
def foldBits (g : Nat) : Nat → Nat → Nat
  | 0, _ => 0
  | fuel + 1, b => Nat.xor (b % 2 ^ g) (foldBits g fuel (b / 2 ^ g))

/-- Posting unit that holds line `k` of the frame at position `j` of band `b` (R295). -/
def placePU (pol b j k : Nat) : Nat :=
  let j2 := Nat.xor j (foldBits 3 8 b) % 8
  let k2 := Nat.xor k (foldBits 5 5 b) % 32
  if pol = 0 then 32 * ((k2 + j2) % 8) + (4 * j2 + k2 / 8)
  else if pol = 1 then 32 * (4 * (j2 / 4) + (k2 + j2) % 4) + (8 * (j2 % 4) + k2 / 4)
  else 32 * j2 + k2

/-- Posting unit of the line that holds local physical address `a` under policy `pol`. -/
def puOf (a pol : Nat) : Nat :=
  let l := a / 128
  placePU pol (l / 256) (l / 32 % 8) (l % 32)

/-- Storage line of local physical address `a` under policy `pol`: its slot times 256 plus its pseudo-channel (R294). -/
def storageLine (a pol : Nat) : Nat := a / 128 / 256 * 256 + puOf a pol

/-- The key under which a cell is stored: by storage place for local memory, by address for the rest. -/
def PLoc.key (p : PLoc) : Nat := if p.addr < 2 ^ 38 then storageLine p.addr p.pol * 128 + p.addr % 128 else p.addr

/-- Policy of the band of local address `a` in the band-policy array (R539). -/
def Dev.polOf (d : Dev) (a : Nat) : Nat := d.bandPol.getD' (a / 32768) 0

/-- A location reached without a stage-2 leaf: placed by the band-policy array (R539). -/
def Dev.phys (d : Dev) (a : Nat) : PLoc := { addr := a, pol := if a < 2 ^ 38 then d.polOf a else 0 }

/-- `n` locations from `a`, placed by the band-policy array. -/
def Dev.physN (d : Dev) (a n : Nat) : List PLoc := (fromN a n).map d.phys

/-! ## Cells, lines and metadata -/

/-- A stored cell; a cell that is not listed reads 0. -/
def Memory.read (m : AMap Cell) (k : Nat) : Cell := m.getD' k 0

/-- Write a stored cell, keeping the canonical form. -/
def Memory.write (m : AMap Cell) (k : Nat) (c : Cell) : AMap Cell := if c = 0 then m.del k else m.put k c

/-- The canonical form: addresses strictly rising, no entry equal to what an unlisted cell reads as. -/
abbrev Memory.wf (m : AMap Cell) : Prop := m.Pairwise (fun a b => a.1 < b.1) ∧ ∀ p ∈ m, p.2 ≠ 0

/-- The cell at a location. -/
def Dev.cell (d : Dev) (p : PLoc) : Cell := Memory.read d.mem p.key

/-- The cells at a list of locations. -/
def Dev.cells (d : Dev) (ps : List PLoc) : List Cell := ps.map d.cell

/-- Set the cell at a location, with its parity. -/
def Dev.poke (d : Dev) (p : PLoc) (c : Cell) : Dev :=
  { d with mem := Memory.write d.mem p.key c, parity := if p.addr < 2 ^ 38 then d.parity else d.parity.del p.key }

/-- The odd parity bit of a cell (R44): 1 when its nine bits hold an even number of ones. -/
def oddParity (c : Cell) : Bool := ((upto 9).filter fun k => bitOf c.toNat k).length % 2 == 0

/-- Whether ten bits, a cell with its parity bit below it, hold an odd number of ones (R44). -/
def parityOk (x : BitVec 10) : Bool := ((upto 10).filter fun k => bitOf x.toNat k).length % 2 == 1

/-- A cell with its parity bit, as arrays and paths hold it (R41, R44). -/
def tenBits (c : Cell) (par : Bool) : BitVec 10 := BitVec.ofNat 10 (2 * c.toNat + flagNat par)

/-- The ten bits that stand at a location. -/
def Dev.stored (d : Dev) (p : PLoc) : BitVec 10 := tenBits (d.cell p) (d.parity.getD' p.key (oddParity (d.cell p)))

/-- Set the cells at a list of locations. -/
def Dev.pokes (d : Dev) : List PLoc → List Cell → Dev
  | p :: ps, c :: cs => (d.poke p c).pokes ps cs
  | _, _ => d

/-- Metadata of the line that holds a location (R42). -/
def Dev.lineInfo (d : Dev) (p : PLoc) : LineInfo := d.info.getD' (p.key / 128) {}

/-- Set the metadata of the line that holds a location. -/
def Dev.setInfo (d : Dev) (p : PLoc) (x : LineInfo) : Dev := { d with info := d.info.put (p.key / 128) x }

/-- Whether a location lies in local device memory. -/
def PLoc.isLocal (p : PLoc) : Bool := decide (p.addr < 2 ^ 38)

/-- The metadata of a line as its 128 stored bits (R42). -/
def metaBits (i : LineInfo) : BitVec 128 :=
  BitVec.ofNat 128 (i.mirrorEpoch.toNat * 2 ^ 96 + i.heat.toNat * 2 ^ 80 + i.postTag.toNat * 2 ^ 64 + flagNat i.poison * 2 ^ 63 +
    i.postSeqH.toNat * 2 ^ 15 + flagNat i.jw * 2 ^ 14)

/-- The 1,536 stored bits of the line that holds a location (R41): its cells with their parity bits, cell 0 uppermost, its metadata,
and its line code, whose bits the manual leaves to the controllers (R43). -/
def Dev.storedLine (d : Dev) (p : PLoc) : BitVec 1536 :=
  let cs := (fromN (p.addr / 128 * 128) 128).map fun a => d.stored { p with addr := a }
  let data := cs.foldl (fun a x => a * 1024 + x.toNat) 0 * 2 ^ 128 + (metaBits (d.lineInfo p)).toNat
  BitVec.ofNat 1536 (data * 2 ^ 128 + (Config.lineCode (p.addr / 128) data).toNat)

/-- Pseudo-channels, and the island, that a lost unit takes with it. -/
def lostPcs : UnitRef → List Nat
  | .device 6 x => [x.toNat]
  | .device 7 x => fromN (128 * x.toNat) 128
  | .postingUnit p => [p.val, Nat.xor p.val 1]
  | .lines p _ => [p.val]
  | _ => []

/-- Whether a lasting error of a whole pseudo-channel or controller is reported and not yet fenced: its accesses wait (R455). -/
def Dev.pcStopped (d : Dev) (pc : Nat) : Bool :=
  d.hub.lasting.any fun l => match l.1 with | .device _ _ => (lostPcs l.1).contains pc | _ => false

/-- Whether the fault hub holds accesses to the frame of a location (R469), or to its pseudo-channel until the fence (R455). -/
def Dev.heldFrame (d : Dev) (p : PLoc) : Bool :=
  d.hub.held.contains (p.addr / 4096) || (p.isLocal && d.pcStopped (p.key / 128 % 256))

/-- Whether a lasting error of a whole island is reported and not yet fenced: it does nothing, and who needs it waits (R455). -/
def Dev.islandStopped (d : Dev) (i : Nat) : Bool :=
  d.hub.lasting.any fun l => match l.1 with | .device t x => t == 2 && x.toNat == i | _ => false

/-- Whether an island does nothing: it is fenced (R457, R468), or stopped until its fence. -/
def Dev.islandDown (d : Dev) (i : Nat) : Bool := (d.islands.getD' i {}).fenced || d.islandStopped i

/-- Whether a cell reads as poisoned: its line's POISON is 1 (R42), or its pseudo-channel is lost (R468). Banks have no poison
(R325). A held frame's cells are not read at all (R469). -/
def Dev.poisoned (d : Dev) (p : PLoc) : Bool :=
  p.isLocal && ((d.lineInfo p).poison || d.hub.deadPc.contains (p.key / 128 % 256)) && !d.heldFrame p

/-- Entries of a structure that the fault hub has fenced (R457). -/
def Dev.lostEntries (d : Dev) (sel : UnitRef → Bool) : Nat := (d.hub.fenced.filter sel).length

/-- Fenced entries of a structure of core `c`. -/
def Dev.lostCore (d : Dev) (c : Nat) (part : CorePart) : Nat :=
  d.lostEntries fun u => match u with | .coreEntry k p _ => k.val == c && p == part | _ => false

/-- Fenced entries of a structure of island `i`. -/
def Dev.lostIsland (d : Dev) (i : Nat) (part : IslandPart) : Nat :=
  d.lostEntries fun u => match u with | .islandEntry k p _ => k.val == i && p == part | _ => false

/-- Current epoch (SNSTAT.EPOCH). -/
def Dev.epoch (d : Dev) : Nat := d.fld offSNSTAT 63 32

/-- Caldera's current window number (R354). -/
def Dev.window (d : Dev) : Nat := d.now / (64000 * 2 ^ d.fld offCLCTL 10 8)

/-- HEAT after a write by source `src` (R355). -/
def heatWrite (old : BitVec 16) (win src : Nat) : BitVec 16 :=
  let wn := win % 16
  let cnt := if old.toNat / 4096 = wn then satNat (old.toNat % 256 + 1) 255 else 1
  BitVec.ofNat 16 (wn * 4096 + src * 256 + cnt)

/-- The other place of a location in move state (R361): its copy on the target frame once step 3 has copied its line, and, from step
4 to step 6, the source of a location on the target frame, so that accesses through the old and the new leaf meet one value and no
posting is lost (R22; log entry 123, DEDUCED). -/
def Dev.moveTwin (d : Dev) (p : PLoc) : Option PLoc :=
  let f := p.addr / 4096
  if p.isLocal then
    d.cal.moves.findSome? fun m =>
      if m.2.source = f ∧ 2 ≤ m.2.step ∧ m.2.copied.contains (p.addr / 128 % 32) then
        some { p with addr := m.2.target * 4096 + p.addr % 4096, pol := m.2.pol }
      else if m.2.target = f ∧ 5 ≤ m.2.step then
        let a := m.2.source * 4096 + p.addr % 4096
        some { p with addr := a, pol := d.polOf a }
      else none
  else none

/-- Send something out of the device. -/
def Dev.send (d : Dev) (o : Out) : Dev := { d with out := d.out ++ [o] }

/-! ## Heat samples (R353) -/

/-- Frames of local device memory. -/
def Dev.frames (d : Dev) : Nat := d.localTop / 4096

/-- Whether samples are taken: CLCTL.EN, which is ignored while CLHTB.V is 0 (R373). -/
def Dev.sampling (d : Dev) : Bool := d.bit offCLCTL 0 && d.bit offCLHTB 63

/-- A sample reaches Caldera: one of a frame outside local memory is discarded, and one that finds the queue full is counted in DROP. -/
def Dev.sampleIn (d : Dev) (s : Sample) : Dev :=
  if d.frames ≤ s.frame then d
  else if d.cal.samples.length < Config.sampleQueue then { d with cal := { d.cal with samples := d.cal.samples ++ [s] } }
  else d.addSat offCLSTAT 31 24 1

/-- An event of requester `req` at physical address `a`: every 2^SHIFT of them send a sample. -/
def Dev.heatEvent (d : Dev) (req a : Nat) (world : Bool) (src peer : Nat) : Dev :=
  if !d.sampling then d
  else
    let n := d.cal.events.getD' req 0 + 1
    if n < 2 ^ d.fld offCLCTL 19 16 then { d with cal := { d.cal with events := d.cal.events.put req n } }
    else { d with cal := { d.cal with events := d.cal.events.put req 0 } }.sampleIn
      { frame := a / 4096, world := world, src := src, peer := peer }

/-- Numbers of walkers, Geyser engines and memory controllers as requesters of samples. -/
def walkerReq (i : Nat) : Nat := 268 + i
def geyserReq (i : Nat) : Nat := 280 + i
def controllerReq (s : Nat) : Nat := 292 + s

/-- The pool peer that serves far window `p` (R449): PRIM or TWIN by CUR. -/
def Dev.farPeer (d : Dev) (p : Nat) : Nat :=
  if d.bit (offPLWIN p) 61 then d.fld (offPLWIN p) 14 10 else d.fld (offPLWIN p) 4 0

/-- IPv6 address of port `t` of pool device `i` (R446). -/
def Dev.poolAddr (d : Dev) (i : Nat) (t : Bool) : Nat := d.rd offPLPFX * 2 ^ 64 + 0x100 + 2 * i + flagNat t

/-- A datagram to a peer from port `t` to the same port there, in UDP to and from PLCFG.UPORT (R446, R448; log entry 138). -/
def Dev.frame (d : Dev) (peer seq ack : Nat) (t : Bool) (b : PoolBody) : Out :=
  .datagram (d.poolAddr (d.fld offPLCFG 62 58) t) (d.poolAddr peer t) (d.fld offPLCFG 31 16) peer seq ack t b

/-- The other Ethernet port when its link is up, else the same (R448). -/
def Dev.otherPort (d : Dev) (t : Bool) : Bool := if (if t then d.board.eth0 else d.board.eth1) then !t else t

/-- Put a pool datagram on its way to a peer, under the next sequence number; the next one takes the other port (R448). -/
def Dev.datagram (d : Dev) (peer : Nat) (b : PoolBody) : Dev :=
  let p := d.peers.getD' peer {}
  let p' := { p with txSeq := p.txSeq + 1, unacked := p.unacked ++ [(p.txSeq + 1, b)],
                     sentAt := if p.unacked.isEmpty then d.now else p.sentAt, port := d.otherPort p.port }
  ({ d with peers := d.peers.put peer p' }).send (d.frame peer (p.txSeq + 1) p.rxSeq p.port b)

/-- The locations of this device that a write to `p` writes: itself, and its copy in move state. -/
def Dev.writeTo (d : Dev) (p : PLoc) : List PLoc :=
  match d.moveTwin p with
  | some q => if q.isLocal then [p, q] else [p]
  | none => [p]

/-- Forward a write of copied lines to the peer that takes the page (R371). -/
def Dev.forwardCopies (d : Dev) : List (PLoc × Cell) → Dev
  | [] => d
  | (p, c) :: t =>
    let d := match d.moveTwin p with
      | some q => if q.isLocal then d
                  else d.datagram (d.farPeer (q.addr / 2 ^ 38)) (.request (.write (BitVec.ofNat 38 q.addr) [c]))
      | none => d
    d.forwardCopies t

/-- Put cells at locations and at their copies in move state (R361). -/
def Dev.pokeBoth (d : Dev) (ps : List PLoc) (cs : List Cell) : Dev :=
  ((ps.zip cs).foldl (fun d pc => (d.writeTo pc.1).foldl (fun d q => d.poke q pc.2) d) d).forwardCopies (ps.zip cs)

/-- Remove line `line` (a physical line number) from the L1 tags of every core but `keep` (R318). -/
def Dev.dropL1 (d : Dev) (line : Nat) (keep : Option Nat) : Dev :=
  { d with cores := d.cores.map fun p =>
      if some p.1 == keep then p else (p.1, { p.2 with l1 := p.2.l1.filter (· != line) }) }

/-- Remove code line `line` (physical) from every island's code cache (R245). -/
def Dev.dropCode (d : Dev) (line : Nat) : Dev :=
  { d with islands := d.islands.map fun p => (p.1, { p.2 with ccache := p.2.ccache.filter (·.1 != line) }) }

/-- Change the metadata of a line and of its copy in move state. -/
def Dev.updInfo (d : Dev) (p : PLoc) (f : LineInfo → LineInfo) : Dev :=
  if p.isLocal then (d.writeTo p).foldl (fun d q => d.setInfo q (f (d.lineInfo q))) d else d

/-- A read of a line by the memory controller (R297): a correctable disagreement is corrected, written back and counted; an
uncorrectable one sets POISON. Both raise the posting unit's source and are logged (R43, R460). -/
def Dev.lineRead (d : Dev) (p : PLoc) : Dev :=
  if !p.isLocal then d
  else
    let l := p.key / 128
    let pu := l % 256
    match d.upsets.getD' l .clean with
    | .clean => d
    | .correctable =>
      let d := { d with upsets := d.upsets.del l }
      let d := (d.addSat (offMCECC (pu / 32)) 31 0 1).raise (512 + pu)
      d.logEvent 0x02 6 pu 1 p.addr 0
    | .uncorrectable =>
      let d := { d with upsets := d.upsets.del l }
      let d := d.setInfo p { d.lineInfo p with poison := true }
      let d := (d.addSat (offMCECC (pu / 32)) 63 32 1).raise (512 + pu)
      (d.logEvent 0x03 6 pu 1 p.addr 0).raise 1012

/-- One write accepted by the memory controller or a bank: cells of one line, its HEAT, and the line's copy in move state.
`heat` is the source code of R355. A write of the whole line gives it a new code and clears POISON (R298); a smaller one is made over
the line as it is read (R297, log entry 121). -/
def Dev.lineWrite (d : Dev) (ps : List PLoc) (cs : List Cell) (heat : Nat) (keep : Option Nat) : Dev :=
  match ps with
  | [] => d
  | p :: _ =>
    let whole := ps.length == 128
    let d := if whole then { d with upsets := if p.isLocal then d.upsets.del (p.key / 128) else d.upsets } else d.lineRead p
    let d := d.pokeBoth ps cs
    let d := d.updInfo p fun i => { i with heat := heatWrite i.heat d.window heat, poison := i.poison && !whole }
    d.dropL1 (p.addr / 128) keep

/-- Locations grouped into runs of one `n`-cell block, each with its cells. -/
def runsBy (n : Nat) : List (PLoc × Cell) → List (List (PLoc × Cell))
  | [] => []
  | pc :: t =>
    match runsBy n t with
    | (qc :: r) :: rest => if pc.1.addr / n = qc.1.addr / n then (pc :: qc :: r) :: rest else [pc] :: (qc :: r) :: rest
    | rest => [pc] :: rest

/-- Locations with their cells grouped into runs of consecutive addresses, each of one kind. -/
def gapRuns (kind : PLoc → Bool) (l : List (PLoc × Cell)) : List (List (PLoc × Cell)) :=
  l.splitBy fun a b => a.1.addr + 1 == b.1.addr && kind a.1 == kind b.1

/-- Locations grouped into lines. -/
def lineRuns (ps : List PLoc) : List (List PLoc) := (runsBy 128 (ps.map fun p => (p, 0))).map fun r => r.map (·.1)

/-- Reads of every line of a list of locations. -/
def Dev.readLines (d : Dev) (ps : List PLoc) : Dev :=
  (lineRuns ps).foldl (fun d r => match r with | p :: _ => d.lineRead p | [] => d) d

/-- Whether a posting to storage line `l` waits in posting unit `u`, or has left it with its record and without its line write. -/
def Dev.puHolds (d : Dev) (u l : Nat) : Bool :=
  let x := d.pus.getD' u {}
  (x.queue.any fun q => q.loc.key / 128 == l) || x.cut.any fun a => a.p.loc.key / 128 == l

/-- Whether a posting to a line of the listed locations waits in its posting unit, or in the partner that serves for it (R466):
accesses that come after it are performed after its line write (R310). The accesses to a frame held by a remap wait as well (R469). -/
def Dev.postQueued (d : Dev) (ps : List PLoc) : Bool :=
  (lineRuns ps).any fun r => match r with
    | p :: _ =>
      let l := p.key / 128
      p.isLocal && (d.heldFrame p || d.puHolds (l % 256) l || d.puHolds (Nat.xor (l % 256) 1) l)
    | [] => false

/-! ## Bank ownership -/

/-- The invalidations of a move's step 5 (R360): kind 0 with S2 1 for the page in BACK; a table frame, whose BACK is no page, has the
whole stage 2 removed as well (log entry 58). -/
def Move.invals (m : Move) : List Inval :=
  let v : Inval := { core := none, kind := 0, world := m.world, space := 2, s2 := true, key := 0, page := m.back }
  if m.kind = 3 then [v, { v with kind := 3 }] else [v]

/-- Whether an island has still to acknowledge an invalidation of a move. -/
def Dev.invalidating (d : Dev) (m : Move) : Bool := d.islands.any fun i => m.invals.any fun v => i.2.inv.contains v

/-- Accesses to frame `f` through its old translation that are still on their way (R350): stores in a buffer or beside a pipe, and
postings. -/
def Dev.frameBusy (d : Dev) (f : Nat) : Bool :=
  (d.cores.any fun k =>
    (k.2.sbuf.any fun e => e.block * 16 / 4096 == f) ||
    k.2.beside.any fun b => b.writes.any fun w => match w with | .mem l _ => l.cells.any (fun p => p.addr / 4096 == f) | _ => false) ||
  (d.postNet.any fun p => p.loc.addr / 4096 == f) || d.pus.any fun u =>
    (u.2.queue.any fun p => p.loc.addr / 4096 == f) || u.2.cut.any fun a => a.p.loc.addr / 4096 == f

/-- Whether a walk that would read frame `f` waits: a move of a table frame stands between the start of step 4 and the end of step 5
(R363). -/
def Dev.tableMoving (d : Dev) (f : Nat) : Bool :=
  d.cal.moves.any fun m => decide (2 ≤ m.2.kind) && (m.2.source == f || m.2.target == f) && decide (4 ≤ m.2.step) &&
    (d.invalidating m.2 || d.frameBusy m.2.source)

/-- Island of a bank address. -/
def bankIsland (a : Nat) : Nat := (a - 2 ^ 43) / 2 ^ 21

/-- Bank of a bank address (R319). -/
def bankNo (a : Nat) : Nat := a / 4 % 16

/-- OWNER of the bank that holds address `a` (R322). -/
def Dev.owner (d : Dev) (a : Nat) : Nat := d.fld (offBANKOWN (bankIsland a) (bankNo a)) 2 0

/-- PENDING of the bank that holds address `a`. -/
def Dev.bankPending (d : Dev) (a : Nat) : Bool := d.bit (offBANKOWN (bankIsland a) (bankNo a)) 6

/-- Whether the fault hub holds the bank of address `a` (R465), or its island is stopped (R455): its accesses wait. -/
def Dev.bankHeld (d : Dev) (a : Nat) : Bool :=
  (d.islands.getD' (bankIsland a) {}).heldBanks.contains (bankNo a) || d.islandStopped (bankIsland a)

/-- The owner that the first waiting handover of the bank will install. -/
def Dev.nextOwner (d : Dev) (a : Nat) : Option Nat :=
  ((d.islands.getD' (bankIsland a) {}).hand.find? (·.bank == bankNo a)).map (·.owner.toNat)

/-- Answer of an ownership check for a write by requester `who` (R321, R323): it passes, waits for a handover, or is refused. -/
inductive Owned where
  | ok | waits | refused
  deriving DecidableEq, Repr

/-- The ownership check of a write to address `a` by requester `who`. -/
def Dev.ownCheck (d : Dev) (a who : Nat) : Owned :=
  match d.region a with
  | .bank _ =>
    if d.bankHeld a then .waits
    else if d.bankPending a then (if d.nextOwner a = some who then .waits else .refused)
    else if d.owner a = who then .ok else .refused
  | _ => .ok

/-! ## Journal records -/

/-- Whether this device is a standby, whose own journaled writes produce no record: a mirror standby (R430), or a lock standby that
does not run the pair's work (R431). -/
def Dev.isStandby (d : Dev) : Bool :=
  let st := d.fld offSNSTAT 31 28
  let mode := d.fld offSNCFG 1 0
  d.bit offSNCFG 2 && ((mode == 1 && [1, 2, 4].contains st) || (mode == 2 && [1, 4].contains st))

/-- Whether a journaled write may proceed: the ring is present, or no record is produced (R451, R430). -/
def Dev.journalReady (d : Dev) : Bool := d.bit offSNJRNL 63 || d.isStandby

/-- Word 0 of a record (R423). -/
def recWord0 (r : Record) : Nat :=
  r.kind.toNat * 2 ^ 32 + r.op.toNat * 2 ^ 28 + r.ty.toNat * 2 ^ 26 + flagNat r.dsm * 2 ^ 25 + r.status.toNat * 2 ^ 21 + r.segtag.toNat

/-- Word 15 of a record (R423). -/
def recWord15 (r : Record) : Nat := r.src.toNat * 2 ^ 27 + r.peer.toNat * 2 ^ 22 + r.rnum.toNat

/-- Words 3 to 13 of a record. -/
def recWords (r : Record) : List Nat := ((r.body ++ List.replicate 11 0).take 11).map BitVec.toNat

/-- The 64 cells of a record (R423). -/
def recCells (r : Record) : List Cell :=
  natCells 4 (recWord0 r) ++ natCells 8 r.seq.toNat ++ (recWords r).flatMap (natCells 4) ++ natCells 4 r.epoch.toNat ++ natCells 4 (recWord15 r)

/-- One bit through the CRC-64 of ECMA-182, most significant bit first. -/
def crcBit (c : BitVec 64) (b : Bool) : BitVec 64 := if c.msb != b then (c <<< 1) ^^^ 0x42F0E1EBA9EA3693 else c <<< 1

/-- The record hash (R433): words 0, 3 to 13 and 15, each cell from bit 8 down. -/
def recHash (r : Record) : BitVec 64 :=
  let cs := natCells 4 (recWord0 r) ++ (recWords r).flatMap (natCells 4) ++ natCells 4 (recWord15 r)
  cs.foldl (fun h x => (upto 9).foldl (fun h k => crcBit h (bitOf x.toNat (8 - k))) h) 0

/-- Whether this device sends its records to a standby that applies them: the primary of a mirror pair, or of a pair that is joining,
or self-twin mode (R416, R444). -/
def Dev.sendsRecords (d : Dev) : Bool :=
  let st := d.fld offSNSTAT 31 28
  let mode := d.fld offSNCFG 1 0
  let run := st == 1 || st == 2
  (mode == 3 && run) || (!d.bit offSNCFG 2 && ((mode == 1 && run) || (mode == 2 && st == 1)))

/-- Number a record and launch it toward Sinter (R421); in lock mode it counts toward its batch and digest (R432, R433), and one that
the twin is to acknowledge ages from now on (R428). -/
def Dev.numberRecord (d : Dev) (mk : Nat → Record) : Dev :=
  let s := d.rd offSNSEQ
  let r := mk s
  let lock := d.fld offSNCFG 1 0 == 2 && d.fld offSNSTAT 31 28 == 2
  { d.wr offSNSEQ (s + 1) with sn := { d.sn with
      net := d.sn.net ++ [r], digest := if lock then d.sn.digest + recHash r else d.sn.digest,
      batchCount := if lock then d.sn.batchCount + 1 else d.sn.batchCount,
      unacked := if d.sendsRecords then d.sn.unacked ++ [(s, d.now)] else d.sn.unacked } }

/-- A physical address in words 3 and 4 of a record (R423). -/
def addrWords (a : Nat) : List Word := [BitVec.ofNat 36 (a / 2 ^ 36), BitVec.ofNat 36 a]

/-- The STORE record of a write of cells of one 16-cell block (R423). -/
def storeRecord (d : Dev) (run : List (PLoc × Cell)) (segtag : BitVec 16) (src seq : Nat) : Record :=
  let blk := match run with | pc :: _ => pc.1.addr / 16 * 16 | [] => 0
  let at' (k : Nat) : Option Cell := (run.find? fun pc => pc.1.addr == blk + k).map (·.2)
  let mask := (upto 16).foldl (fun m k => if (at' k).isSome then m + 2 ^ k else m) 0
  { kind := 2, segtag := segtag, seq := BitVec.ofNat 64 seq, epoch := BitVec.ofNat 32 d.epoch, src := BitVec.ofNat 9 src,
    body := addrWords blk ++ [BitVec.ofNat 36 mask] ++ cellsWords ((upto 16).map fun k => (at' k).getD 0) ++ [0, 0, 0, 0] }

/-- SRC of a STORE record made where `a` lies: the posting unit of its line, or the island's bank atomic unit (R423). -/
def unitOf (p : PLoc) : Nat := if p.isLocal then puOf p.addr p.pol else 256 + bankIsland p.addr

/-- The record of a journaled write of cells of one 16-cell block (R420): none on a standby (R430). In self-twin mode a journaled
write outside the mirrored half is not mirrored and raises source 260 (R435). -/
def Dev.recordRun (d : Dev) (run : List (PLoc × Cell)) (segtag : BitVec 16) (src : Option Nat) : Dev :=
  match run with
  | [] => d
  | (p, _) :: _ =>
    if d.isStandby then d.addSat offSNSTAT 23 16 1
    else
      let d := d.numberRecord (storeRecord d run segtag (src.getD (unitOf p)))
      let outside := if p.isLocal then puOf p.addr p.pol / 128 == 1 else decide (6 ≤ bankIsland p.addr)
      if d.fld offSNCFG 1 0 = 3 && [1, 2].contains (d.fld offSNSTAT 31 28) && outside then d.raise 260 else d

/-- One journaled or plain write of cells of one line: a record for each 16-cell block (R420), then the line write with the metadata
that it sets (R42, R426). -/
def Dev.writeRun (d : Dev) (run : List (PLoc × Cell)) (jr : Bool) (segtag : BitVec 16) (heat : Nat) (src : Option Nat)
    (keep : Option Nat) : Dev :=
  match run with
  | [] => d
  | (p, _) :: _ =>
    let d := if jr then (runsBy 16 run).foldl (fun d r => d.recordRun r segtag src) d else d
    let d := d.lineWrite (run.map (·.1)) (run.map (·.2)) heat keep
    if jr then d.updInfo p fun i => { i with mirrorEpoch := BitVec.ofNat 32 d.epoch, jw := true } else d

/-- A write of cells by a requester that reaches memory directly, line by line. -/
def Dev.writeLoc (d : Dev) (loc : MemLoc) (cs : List Cell) (heat : Nat) (src : Option Nat) (keep : Option Nat := none) : Dev :=
  (runsBy 128 (loc.cells.zip cs)).foldl (fun d r => d.writeRun r loc.jr loc.segtag heat src keep) d

/-! ## Physical words -/

/-- The word at physical address `a`, placed by the band-policy array. -/
def Dev.physWord (d : Dev) (a : Nat) : Nat := cellsNat (d.cells (d.physN a 4))

/-- A write by Sinter (`who` 4) or Caldera (5) to where its tables stand: one that a bank's owner refuses is lost, and logged with
CLASS 0x19 and the writer's subsystem number (R321, R17). -/
def Dev.unitWrite (d : Dev) (who : Nat) (ps : List PLoc) (cs : List Cell) (heat : Nat) : Dev :=
  match ps.find? fun p => d.ownCheck p.addr who == .refused with
  | some p => d.logEvent 0x19 11 (if who = 4 then 13 else 12) 1 p.addr 0
  | none => d.lineWrite ps cs heat none

/-- Write a word of Caldera's tables at physical address `a`; `heat` as in R355. -/
def Dev.setPhysWord (d : Dev) (a v heat : Nat) : Dev := d.unitWrite 5 (d.physN a 4) (natCells 4 v) heat

/-- Take the next value of the model's own counter for a free value. -/
def Dev.bumpFree (d : Dev) : Dev := { d with free := d.free + 1 }

/-! ## Fumarole's time in trace records and events -/

/-- A trace record of core `c` (R523, R510): kind, vector or slot, and the PC after the event. It is written when tracing is on
for the core and the buffer has room, and counted in DROP when the buffer is full. -/
def Dev.trace (d : Dev) (c kind arg : Nat) (pc : Word) : Dev :=
  let i := c / 8
  let ctl := d.rd (offTRCTL i)
  if bitOf ctl 0 && bitOf ctl (8 + c % 8) then
    let next := d.fld (offTRBASE i) 63 32
    if next < bitsOf ctl 31 16 * 256 then
      let a := d.fld (offTRBASE i) 31 0 * 4096 + 16 * next
      let ws := [kind * 2 ^ 32 + c % 8 * 2 ^ 26 + arg % 256 * 2 ^ 18, d.now / 2 ^ 36, d.now % 2 ^ 36, pc.toNat]
      let d := d.lineWrite (d.physN a 16) (ws.flatMap (natCells 4)) 12 none
      d.setFld (offTRBASE i) 63 32 (next + 1)
    else d.addSat (offTRCTL i) 63 32 1
  else d

end Sys2Proof.Machine
end

