-- ==== Sys2Proof/Machine/Buffer.lean ====
section
/-!
DEFINITION. The store buffers as memory sees them (R243, R244): what an entry holds, where its cells go when it drains, and the
stores of other requesters that may become visible while a table is walked (R351).
-/

namespace Sys2Proof.Machine

/-! ## Cores and islands -/

/-- Core `c`. -/
def Dev.core (d : Dev) (c : Nat) : Core := d.cores.getD' c {}

/-- Replace core `c`. -/
def Dev.setCore (d : Dev) (c : Nat) (k : Core) : Dev := { d with cores := d.cores.put c k }

/-- Change core `c`. -/
def Dev.updCore (d : Dev) (c : Nat) (f : Core → Core) : Dev := d.setCore c (f (d.core c))

/-- Island `i`. -/
def Dev.isl (d : Dev) (i : Nat) : Island := d.islands.getD' i {}

/-- Change island `i`. -/
def Dev.updIsl (d : Dev) (i : Nat) (f : Island → Island) : Dev := { d with islands := d.islands.put i (f (d.isl i)) }

/-! ## The store buffer (R243, R244) -/

/-- Bytes and cells of the host link or a far window. -/
def cellByte (x : Cell) : Byte := BitVec.ofNat 8 x.toNat

/-- Whether PF0 may send requests (R381, R374): its Bus Master Enable is 1, it is not in D3hot, and the link is up. -/
def Dev.hostReady (d : Dev) : Bool := d.pf0.busMaster && !d.pf0.d3hot && d.board.linkUp

/-- Send a store to a register window on its way (R329). -/
def Dev.regStore (d : Dev) (r : RegStore) : Dev := { d with regNet := d.regNet ++ [r] }

/-- The runs of consecutive cells of an entry that were stored with the same journaling, lowest first. -/
def sbRuns : AMap SbCell → List (AMap SbCell)
  | [] => []
  | (i, x) :: t =>
    match sbRuns t with
    | ((j, y) :: r) :: rest =>
      if j = i + 1 ∧ y.jr = x.jr ∧ y.segtag = x.segtag then ((i, x) :: (j, y) :: r) :: rest
      else [(i, x)] :: ((j, y) :: r) :: rest
    | rest => [(i, x)] :: rest

/-- The cells of a run of entry `e`, with their places. -/
def SbEntry.locs (e : SbEntry) (r : AMap SbCell) : List (PLoc × Cell) :=
  r.map fun p => ({ addr := e.block * 16 + p.1, pol := e.pol, se := e.se }, p.2.v)

/-- Perform the write of one run of store-buffer cells where it goes: memory or a bank, a peer, the host, or a register (R243,
R328). -/
def Dev.drainRun (d : Dev) (c : Nat) (e : SbEntry) (r : AMap SbCell) : Dev :=
  let run := e.locs r
  match run, r with
  | (p, _) :: _, (_, x) :: _ =>
    let cs := run.map (·.2)
    match d.region p.addr with
    | .localMem | .bank _ => d.writeRun run x.jr x.segtag (c / 8) none (some c)
    | .far w => d.datagram (d.farPeer w) (.request (.write (BitVec.ofNat 38 p.addr) cs))
    | .host =>
      if d.hostReady then d.send (.hostWrite (p.addr - hostWinBase) (cs.map cellByte))
      else d.logEvent 0x16 13 0 3 (p.addr - hostWinBase) 0
    | .ledWin => d.regStore { geyser := false, n := c, v := .lwin, off := p.addr - ledWinBase, size := cs.length,
                              value := BitVec.ofNat 64 (cellsNat cs) }
    | .cusWin => d.regStore { geyser := false, n := c, v := .cwin, off := p.addr - cusWinBase, size := cs.length,
                              value := BitVec.ofNat 64 (cellsNat cs) }
    | .none => d
  | _, _ => d

/-- Perform the writes of one store-buffer entry. None while a journaled write has no ring (R451) or a posting to the line is
queued (R310). -/
def Dev.drainEntry (d : Dev) (c : Nat) (e : SbEntry) : Option Dev :=
  let dev := match d.region (e.block * 16) with | .localMem | .bank _ => true | _ => false
  if dev && ((e.cells.any (·.2.jr) && !d.journalReady) || d.postQueued ((e.locs e.cells).map (·.1))) then none
  else some ((sbRuns e.cells).foldl (fun d r => d.drainRun c e r) d)

/-- Drain the oldest entry of core `c`; none when it must wait. -/
def Dev.drainOne (d : Dev) (c : Nat) : Option Dev :=
  match (d.core c).sbuf with
  | [] => some d
  | e :: t => (d.drainEntry c e).map fun d => d.updCore c fun k => { k with sbuf := t }

/-- What an entry holds of a cell. -/
def SbEntry.cell (e : SbEntry) (p : PLoc) : Option Cell :=
  if p.addr / 16 = e.block then (e.cells.find (p.addr % 16)).map (·.v) else none

/-- Whether an entry holds a cell of an access. -/
def SbEntry.hits (e : SbEntry) (ps : List PLoc) : Bool := ps.any fun p => (e.cell p).isSome

/-- How many of the oldest entries must drain before a read of the listed cells (R244). -/
def drainCount (sb : List SbEntry) (ps : List PLoc) : Nat :=
  sb.length - (sb.reverse.takeWhile fun e => !e.hits ps).length

/-- The cells that the buffer forwards to an access: one entry holds them all, and no younger one holds any (R244). -/
def forwarded (sb : List SbEntry) (ps : List PLoc) : Option (List Cell) :=
  match sb.reverse.find? fun e => e.hits ps with
  | some e => if ps.all fun p => (e.cell p).isSome then some (ps.map fun p => (e.cell p).getD 0) else none
  | none => none

/-! ## Stores that meet a walk (R351, R344) -/

/-- Drain core `c`'s buffer from its oldest entry until no entry holds a listed cell, or an entry must wait. -/
def Dev.drainFor (d : Dev) (c : Nat) (ps : List PLoc) : Nat → Dev
  | 0 => d
  | n + 1 =>
    if (d.core c).sbuf.any fun e => e.hits ps then
      match d.drainOne c with
      | some d => d.drainFor c ps n
      | none => d
    else d

/-- A walker reads, or compares and swaps, the listed cells: a store to them that waits in a core's buffer becomes visible before or
after it, a free choice (R333, R351). -/
def Dev.race (d : Dev) (ps : List PLoc) : Dev :=
  (d.cores.filter fun k => k.2.sbuf.any fun e => e.hits ps).foldl (fun d k =>
    (if (Config.freeWord d.free).toNat % 2 = 1 then d.drainFor k.1 ps k.2.sbuf.length else d).bumpFree) d

end Sys2Proof.Machine
end

