-- ==== Sys2Proof/Machine/Translate.lean ====
section
/-!
DEFINITION. Translation and protection (chapter 12): the two-stage walk (R341), its checks in order, accessed and dirty bits
(R344), the TLBs and walk caches (R345 to R347), invalidation (R348) and aging (R352).
-/

namespace Sys2Proof.Machine

/-- A request for one page: world, space, level, linear page, access, the segment's key, PKR, the stage-1 data root of a Geyser
snapshot (R331), and, for a data access, its offset in the page and its length in cells (R329); length 0 for the rest. -/
structure TrReq where
  world : Bool
  code : Bool := false
  sup : Bool
  page : Nat
  acc : Access
  segKey : Nat := 0
  pkr : Nat := 0
  root : Option Nat := none
  spec : Bool := false
  off : Nat := 0
  n : Nat := 0
  deriving DecidableEq, Repr

/-- The answer of a translation that cannot be made yet, and waits with nothing done: no cause of R342 is 0. -/
def waitFault (stage lev : Nat) : TrFault := ⟨0, stage, lev⟩

/-- Whether an access needs the read right (R338). -/
def accReads : Access → Bool
  | .read | .rmw | .posting | .lock | .fetch | .crd => true
  | _ => false

/-- Whether an access needs the write right and sets D (R338, R344). -/
def accWrites : Access → Bool
  | .write | .rmw | .posting | .lock | .cwr => true
  | _ => false

/-- Whether an access is sent to the unit that holds the value (R303). -/
def accSent : Access → Bool
  | .posting | .lock => true
  | _ => false

/-- Whether an access is to code space's frames (R336). -/
def accCode : Access → Bool
  | .fetch | .crd | .cwr => true
  | _ => false

/-- The index of a page number at a level (R332). -/
def levelIndex (page lv : Nat) : Nat := page / 512 ^ (4 - lv) % 512

/-- Number of the current 64 µs epoch (R352). -/
def Dev.epochNo (d : Dev) : Nat := d.now / 64000 - d.epochBase

/-! ## Walk caches -/

/-- Entries kept by a walk cache (R345). -/
def walkCacheSize : Nat := 256

/-- The cached entry for a stage, world, space, level and leading page bits. -/
def wcFind (wc : List WalkEntry) (s2 world code : Bool) (lv pre : Nat) : Option WalkEntry :=
  wc.find? fun e => e.stage2 == s2 && e.world == world && e.code == code && e.lev == lv && e.pfx == pre

/-- Put an entry at the front of a walk cache, dropping the least recently used of its stage beyond 256, less the `lost`
fenced entries. -/
def wcPut (lost : Nat) (wc : List WalkEntry) (e : WalkEntry) : List WalkEntry :=
  let rest := wc.filter fun x =>
    !(x.stage2 == e.stage2 && x.world == e.world && x.code == e.code && x.lev == e.lev && x.pfx == e.pfx)
  let same := (rest.filter fun x => x.stage2 == e.stage2).take (walkCacheSize - 1 - lost)
  e :: (same ++ rest.filter fun x => x.stage2 != e.stage2)

/-- Put an entry at the front of island `i`'s walk cache: a new one, or one that has been used and keeps its epoch (R352). -/
def Dev.wcUse (d : Dev) (i : Nat) (e : WalkEntry) : Dev :=
  d.updIsl i fun isl => { isl with wc := wcPut (d.lostIsland i .walkEntry) isl.wc e }

/-- Add a walk-cache entry to island `i`, filled in this epoch. -/
def Dev.wcAdd (d : Dev) (i : Nat) (s2 world code : Bool) (lv pre w0 w1 : Nat) : Dev :=
  d.wcUse i { stage2 := s2, world := world, code := code, lev := lv, pfx := pre, w0 := BitVec.ofNat 36 w0,
              w1 := BitVec.ofNat 36 w1, epoch := d.epochNo }

/-- The eight cells of the table entry at a location. -/
def entryLocs (p : PLoc) : List PLoc := (fromN p.addr 8).map fun a => { p with addr := a }

/-- Whether a read of the table entry at `p` waits: behind a posting queued for its line (R310), or for a move of its frame (R363). -/
def Dev.entryWaits (d : Dev) (p : PLoc) : Bool := d.postQueued [p] || d.tableMoving (p.addr / 4096)

/-! ## Stage 2 -/

/-- A stage-2 leaf as the walker reads it: frame, rights, kind, side effect, policy, D, contiguity hint, where its word 0 lies
and what it holds. -/
structure Leaf2 where
  frame : Nat
  r : Bool
  w : Bool
  kind : Nat
  se : Bool
  pol : Nat
  dd : Bool
  ch : Bool
  at' : Nat
  w0 : Nat
  deriving DecidableEq, Repr

/-- The check of a frame that holds a stage-2 table (R341): cause 4 in a window, 6 elsewhere outside local memory. -/
def Dev.tableFrame (d : Dev) (f lev : Nat) : Option TrFault :=
  if d.windowed (f * 4096) then some ⟨4, 2, lev⟩
  else match d.region (f * 4096) with
    | .localMem => none
    | _ => some ⟨6, 2, lev⟩

/-- The two words of a table entry at physical address `a`, and whether its line is poisoned (R333) or fenced (R457). -/
def Dev.entryAt (d : Dev) (a : Nat) : Nat × Nat × Bool :=
  (d.physWord a, d.physWord (a + 4),
    d.poisoned (d.phys a) || d.hub.fenced.any fun u => match u with | .tableLine _ l => l.toNat == a / 128 | _ => false)

/-- Read the stage-2 entry of level `lv`: from copy A, or from copy B when copy A's line is poisoned or is not followed
(R337). Answers the words, where the entry lies and whether copy B was used. -/
def Dev.s2Entry (d : Dev) (fa : Option Nat) (fb : Option Nat) (lv idx : Nat) :
    Dev × Except TrFault (Nat × Nat × Nat × Bool) :=
  let fromB (d : Dev) : Dev × Except TrFault (Nat × Nat × Nat × Bool) :=
    match fb with
    | none => (d, .error ⟨5, 2, lv⟩)
    | some f =>
      match d.tableFrame f (if lv = 1 then 1 else lv - 1) with
      | some t => (d, .error t)
      | none =>
        let a := f * 4096 + 8 * idx
        if d.entryWaits (d.phys a) then (d, .error (waitFault 2 lv))
        else
          let d := (d.race (entryLocs (d.phys a))).lineRead (d.phys a)
          let (w0, w1, p) := d.entryAt a
          if p then (d, .error ⟨5, 2, lv⟩) else (d, .ok (w0, w1, a, true))
  match fa with
  | none => fromB d
  | some f =>
    match d.tableFrame f (if lv = 1 then 1 else lv - 1) with
    | some t => (d, .error t)
    | none =>
      let a := f * 4096 + 8 * idx
      if d.entryWaits (d.phys a) then (d, .error (waitFault 2 lv))
      else
      let d := (d.race (entryLocs (d.phys a))).lineRead (d.phys a)
      let (w0, w1, p) := d.entryAt a
      if p then fromB (d.logEvent 0x07 6 (puOf a (d.polOf a)) 1 a 0) else (d, .ok (w0, w1, a, false))

/-- Whether a field of a stage-2 entry that must be 0 is not, or POL is 3 (R335). -/
def s2Format (lv w0 w1 : Nat) : Bool :=
  if lv = 4 then bitsOf w0 17 0 != 0 || bitsOf w1 35 32 != 0 || bitsOf w0 27 26 == 3
  else bitsOf w0 34 32 != 0 || bitsOf w1 35 32 != 0

/-- Levels `lv` to 4 of a stage-2 walk of intermediate page `ip` (R341); `fa`, `fb` are the table's frames in copies A and B. A walk
that is not `fresh` takes what the walk cache holds (R345): of leaves, those that have the A and D bits that the use sets. -/
def Dev.s2Levels (d : Dev) (i : Nat) (world : Bool) (ip : Nat) (fresh : Bool) (bits : Nat) (fa fb : Option Nat) :
    Nat → Dev × Except TrFault Leaf2
  | 0 => (d, .error ⟨1, 2, 1⟩)
  | fuel + 1 =>
    let lv := 4 - fuel
    let pre := ip / 512 ^ (4 - lv)
    let hit := (if fresh then none else wcFind (d.isl i).wc true world false lv pre).filter fun e =>
      decide (lv < 4) || e.w0.toNat &&& bits == bits
    let (d, r) := match hit with
      | some e => (d.wcUse i e, Except.ok (e.w0.toNat, e.w1.toNat, 0, fa.isNone))
      | none => d.s2Entry fa fb lv (levelIndex ip lv)
    match r with
    | .error t => (d, .error t)
    | .ok (w0, w1, a, b) =>
      if !bitOf w0 35 then (d, .error ⟨1, 2, lv⟩)
      else if s2Format lv w0 w1 then (d, .error ⟨6, 2, lv⟩)
      else if lv = 4 then
        let f := bitsOf w1 31 0
        let pol := bitsOf w0 27 26
        if pol != 0 && !decide (f * 4096 < 2 ^ 38) then (d, .error ⟨6, 2, 4⟩)
        else
          let l : Leaf2 := { frame := f, r := bitOf w0 34, w := bitOf w0 33, kind := bitsOf w0 32 31, se := bitOf w0 28, pol := pol,
                             dd := bitOf w0 29, ch := bitOf w0 25, at' := a, w0 := w0 }
          (if l.kind = 2 && hit.isNone then d.wcAdd i true world false 4 pre w0 w1 else d, .ok l)
      else
        let d := if hit.isNone then d.wcAdd i true world false lv pre w0 w1 else d
        Dev.s2Levels d i world ip fresh bits (if b then none else some (bitsOf w0 31 0)) (some (bitsOf w1 31 0)) fuel

/-- The stage-2 walk of intermediate page `ip` from the world's roots (R330, R337). -/
def Dev.s2Walk (d : Dev) (i : Nat) (world : Bool) (ip : Nat) (fresh : Bool) (bits : Nat) : Dev × Except TrFault Leaf2 :=
  let ra := d.rd (if world then offTRC2A else offTRL2A)
  let rb := d.rd (if world then offTRC2B else offTRL2B)
  let fa := if bitOf ra 63 then some (bitsOf ra 31 0) else none
  let fb := if bitOf rb 63 then some (bitsOf rb 31 0) else none
  match fa, fb with
  | none, none => (d, .error ⟨1, 2, 1⟩)
  | none, some f => Dev.s2Levels (d.logEvent 0x07 6 (puOf (f * 4096) (d.polOf (f * 4096))) 1 (f * 4096) 0) i world ip fresh bits none fb 4
  | _, _ => Dev.s2Levels d i world ip fresh bits fa fb 4

/-- Uses of a stage-2 translation (R341): an access with its level, world, offset in the page and length. -/
inductive Use where
  | table
  | tableWrite
  | access (acc : Access) (sup world : Bool) (off n : Nat)
  deriving DecidableEq, Repr

/-- First offset of the MSI-X tables in the views, whose registers are of 32 bits (R376). -/
def msixBase : Nat := 0x1F00000

/-- MSI-X table size of a function (R376). -/
def msixSize (fn1 : Bool) : Nat := if fn1 then 32 else 480

/-- Whether an access of `n` cells at offset `x` of a register window has the form that its register takes (R329): an aligned word in
the MSI-X table, an aligned double word elsewhere. -/
def windowForm (fn1 : Bool) (x n : Nat) : Bool :=
  if msixBase ≤ x ∧ x < msixBase + 16 * msixSize fn1 then n == 4 && x % 4 == 0 else n == 8 && x % 8 == 0

/-- The register-window rule (R329): a supervisor access of the register's form, to a window that the world may reach. -/
def Dev.windowOk (d : Dev) (a n : Nat) (sup world : Bool) : Bool :=
  match d.region a with
  | .ledWin => sup && windowForm false (a - ledWinBase) n
  | .cusWin => sup && world && windowForm true (a - cusWinBase) n
  | _ => true

/-- KIND against a use (R336). -/
def kindOk (kind : Nat) : Use → Bool
  | .table | .tableWrite => kind == 2
  | .access acc sup world _ _ =>
    if accCode acc then kind == 1
    else if kind = 0 then true
    else if kind = 2 then sup
    else if kind = 3 then sup && world
    else false

/-- The checks of a stage-2 leaf, in the order of R341. A lock instruction answers by itself what is no lock (R314), and what is only
translated has no length. -/
def Dev.s2Check (d : Dev) (frame kind pol : Nat) (r w se : Bool) (u : Use) : Option TrFault :=
  let win := d.windowed (frame * 4096)
  let rights := match u with
    | .table => r
    | .tableWrite => r && w
    | .access acc _ _ _ _ => (!accReads acc || r) && (!accWrites acc || w)
  if !kindOk kind u then some ⟨7, 2, 4⟩
  else if !rights then some ⟨2, 2, 4⟩
  else match u with
    | .access acc sup world off n =>
      if acc == .fetch && (se || win) then some ⟨4, 2, 4⟩
      else if d.region (frame * 4096) == .none then some ⟨9, 2, 4⟩
      else if acc == .posting && (se || win) then some ⟨8, 2, 4⟩
      else if pol = 3 then some ⟨6, 2, 4⟩
      else if n != 0 && acc != .lock && !d.windowOk (frame * 4096 + off) n sup world then some ⟨10, 2, 4⟩ else none
    | _ =>
      if se || win then some ⟨4, 2, 4⟩
      else if 2 ^ 38 ≤ frame * 4096 then some ⟨6, 2, 4⟩
      else if d.region (frame * 4096) == .none then some ⟨9, 2, 4⟩ else none

/-- Bits that an update sets in word 0 of a leaf by a compare-and-swap (R344): the stage of the leaf, where it stands, the word that
the walk read, and the bits. -/
structure Upd where
  stage : Nat
  p : PLoc
  w0 : Nat
  bits : Nat
  deriving DecidableEq, Repr

/-- Add an update to those of a walk: none for a leaf that has its bits, one for each leaf. -/
def addUpd (l : List Upd) (u : Upd) : List Upd :=
  if u.w0 &&& u.bits = u.bits then l
  else if l.any fun x => x.p.addr == u.p.addr then
    l.map fun x => if x.p.addr = u.p.addr then { x with bits := x.bits ||| u.bits } else x
  else l ++ [u]

/-- The walker's compare-and-swap: none when the entry no longer holds the word that was read. -/
def Dev.cas (d : Dev) (i : Nat) (u : Upd) : Dev × Bool :=
  let ps := (fromN u.p.addr 4).map fun a => { u.p with addr := a }
  let d := d.race ps
  if cellsNat (d.cells ps) = u.w0 then (d.lineWrite ps (natCells 4 (u.w0 ||| u.bits)) i none, true) else (d, false)

/-- Make the updates of a walk in order: the stage of the first that fails. -/
def Dev.casAll (d : Dev) (i : Nat) : List Upd → Dev × Option Nat
  | [] => (d, none)
  | u :: t =>
    match d.cas i u with
    | (d, true) => d.casAll i t
    | (d, false) => (d, some u.stage)

/-- The bits that a use sets in a stage-2 leaf: A, and D for a write; D is never set for a speculative access (R343, R344). -/
def Use.bits (u : Use) (spec : Bool) : Nat :=
  let wr := match u with
    | .table => false
    | .tableWrite => !spec
    | .access acc _ _ _ _ => accWrites acc && !spec
  if wr then 2 ^ 30 + 2 ^ 29 else 2 ^ 30

/-- The walk and the checks of `s2(ip, use)`, with the update that the leaf needs. -/
def Dev.s2Once (d : Dev) (i : Nat) (world : Bool) (ip : Nat) (u : Use) (spec fresh : Bool) : Dev × Except TrFault (Leaf2 × Upd) :=
  let bits := u.bits spec
  match d.s2Walk i world ip fresh bits with
  | (d, .error t) => (d, .error t)
  | (d, .ok l) =>
    match d.s2Check l.frame l.kind l.pol l.r l.w l.se u with
    | some t => (d, .error t)
    | none => (d, .ok ({ l with dd := l.dd || bitOf bits 29 }, { stage := 2, p := d.phys l.at', w0 := l.w0, bits := bits }))

/-- `s2(ip, use)` of R341. A fault of rights or kind found through a leaf of the walk cache is confirmed from the tables (R346). -/
def Dev.s2 (d : Dev) (i : Nat) (world : Bool) (ip : Nat) (u : Use) (spec fresh : Bool) : Dev × Except TrFault (Leaf2 × Upd) :=
  let held := !fresh && (wcFind (d.isl i).wc true world false 4 ip).isSome
  match d.s2Once i world ip u spec fresh with
  | (d', .error t) => if held && (t.cause == 2 || t.cause == 7) then d'.s2Once i world ip u spec true else (d', .error t)
  | r => r

/-- Walk-cache entries on the paths of a linear page and of an intermediate page, which a walk that is begun again discards (R344). -/
def Dev.dropPath (d : Dev) (i : Nat) (world code : Bool) (page : Option Nat) (ip : Nat) : Dev :=
  d.updIsl i fun x => { x with wc := x.wc.filter fun e =>
    !(e.world == world && ((e.stage2 && e.pfx == ip / 512 ^ (4 - e.lev)) ||
      (!e.stage2 && e.code == code && page.any fun p => e.pfx == p / 512 ^ (4 - e.lev)))) }

/-- A stage-2 translation by itself, with its updates: the cell window's (R378). It is begun again while a compare-and-swap fails, 16
times (R344). -/
def Dev.s2Set (d : Dev) (i : Nat) (world : Bool) (ip : Nat) (u : Use) : Nat → Dev × Except TrFault Leaf2
  | 0 => (d, .error ⟨11, 2, 4⟩)
  | n + 1 =>
    match d.s2 i world ip u false false with
    | (d, .error t) => (d, .error t)
    | (d, .ok (l, x)) =>
      match d.casAll i (addUpd [] x) with
      | (d, none) => (d, .ok l)
      | (d, some _) => (d.dropPath i world false none ip).s2Set i world ip u n

/-! ## Stage 1 -/

/-- A stage-1 leaf as the walker reads it. -/
structure Leaf1 where
  ip : Nat
  r : Bool
  w : Bool
  u : Bool
  key : Nat
  se : Bool
  g : Bool
  ch : Bool
  dd : Bool
  at' : PLoc
  w0 : Nat
  tip : Nat
  deriving DecidableEq, Repr

/-- Whether a field of a stage-1 entry that must be 0 is not (R334). -/
def s1Format (lv w0 : Nat) : Bool := bitsOf w0 17 0 != 0 || (decide (lv < 4) && bitsOf w0 34 23 != 0)

/-- Levels `lv` to 4 of a stage-1 walk (R341): `t` is the intermediate page of the table of level `lv`, and `us` the updates that the
leaves of the table pages need so far. -/
def Dev.s1Levels (d : Dev) (i : Nat) (q : TrReq) (fresh : Bool) (t : Nat) (us : List Upd) :
    Nat → Dev × Except TrFault (Leaf1 × List Upd)
  | 0 => (d, .error ⟨1, 1, 1⟩)
  | fuel + 1 =>
    let lv := 4 - fuel
    let pre := q.page / 512 ^ (4 - lv)
    let hit := if lv < 4 && !fresh then wcFind (d.isl i).wc false q.world q.code lv pre else none
    let (d, r) : Dev × Except TrFault (Nat × Nat × PLoc × List Upd) := match hit with
      | some e => (d.wcUse i e, .ok (e.w0.toNat, e.w1.toNat, { addr := 0 }, us))
      | none =>
        match d.s2 i q.world t .table q.spec fresh with
        | (d, .error f) => (d, .error f)
        | (d, .ok (l, u)) =>
          let p : PLoc := { addr := l.frame * 4096 + 8 * levelIndex q.page lv, pol := l.pol }
          if d.entryWaits p then (d, .error (waitFault 1 lv))
          else
            let d := (d.race (entryLocs p)).lineRead p
            let cs := d.cells (entryLocs p)
            if d.poisoned p then (d, .error ⟨5, 1, lv⟩) else (d, .ok (cellsNat (cs.take 4), cellsNat (cs.drop 4), p, addUpd us u))
    match r with
    | .error f => (d, .error f)
    | .ok (w0, w1, p, us) =>
      if !bitOf w0 35 then (d, .error ⟨1, 1, lv⟩)
      else if s1Format lv w0 then (d, .error ⟨6, 1, lv⟩)
      else if lv = 4 then
        (d, .ok ({ ip := w1, r := bitOf w0 34, w := bitOf w0 33, u := bitOf w0 32, key := bitsOf w0 31 28, se := bitOf w0 25,
                   g := bitOf w0 24, ch := bitOf w0 23, dd := bitOf w0 26, at' := p, w0 := w0, tip := t }, us))
      else
        let d := if hit.isNone then d.wcAdd i false q.world q.code lv pre w0 w1 else d
        Dev.s1Levels d i q fresh w1 us fuel

/-- PKR against a key (R339): bit 2k + 1 is no-read, bit 2k no-write. -/
def keyRefuses (pkr key : Nat) (acc : Access) : Bool :=
  (accReads acc && bitOf pkr (2 * key + 1)) || (accWrites acc && bitOf pkr (2 * key))

/-- The checks of a stage-1 leaf, in the order of R341. -/
def s1Check (q : TrReq) (r w u : Bool) (key : Nat) (se : Bool) : Option TrFault :=
  let k := if key = 0 then q.segKey else key
  if !q.sup && !u then some ⟨2, 1, 4⟩
  else if (accReads q.acc && !r) || (accWrites q.acc && !w) then some ⟨2, 1, 4⟩
  else if !q.code && keyRefuses q.pkr k q.acc then some ⟨3, 1, 4⟩
  else if q.acc == .posting && se then some ⟨8, 1, 4⟩
  else if q.acc == .fetch && se then some ⟨4, 1, 4⟩
  else none

/-- Offset of the register that holds a world's stage-1 root. -/
def offRoot1 (world code : Bool) : Nat :=
  if world then (if code then offTRCC else offTRC1) else (if code then offTRLC else offTRL1)

/-- The reads and checks of one walk (R341), and the updates that it then makes: stage 1 first, stage 2 after it (R344). No leaf is
changed for an access that is refused. -/
def Dev.walkOnce (d : Dev) (i : Nat) (q : TrReq) (fresh : Bool) : Dev × Except TrFault (Tlb × List Upd) :=
  let root := q.root.getD (d.rd (offRoot1 q.world q.code))
  if !bitOf root 63 then (d, .error ⟨1, 1, 1⟩)
  else match d.s1Levels i q fresh (bitsOf root 35 0) [] 4 with
    | (d, .error f) => (d, .error f)
    | (d, .ok (l, us)) =>
      match s1Check q l.r l.w l.u l.key l.se with
      | some f => (d, .error f)
      | none =>
        match d.s2 i q.world l.ip (.access q.acc q.sup q.world q.off q.n) q.spec fresh with
        | (d, .error f) => (d, .error f)
        | (d, .ok (m, u)) =>
          let wr := accWrites q.acc && !q.spec
          let bits := if wr then 2 ^ 27 + 2 ^ 26 else 2 ^ 27
          let e : Tlb := { world := q.world, code := q.code, page := q.page, ipage := l.ip, frame := m.frame, g := l.g,
                           key := BitVec.ofNat 4 l.key, u := l.u, r1 := l.r, w1 := l.w, se1 := l.se, r2 := m.r, w2 := m.w,
                           se2 := m.se, kind := m.kind, pol := m.pol, d := (l.dd && m.dd) || wr, grp := l.ch && m.ch,
                           epoch := d.epochNo }
          let own := addUpd [] { stage := 1, p := l.at', w0 := l.w0, bits := bits }
          let all (t : List Upd) : List Upd := t.foldl addUpd (addUpd own u)
          if own.isEmpty then (d, .ok (e, all us))
          else match d.s2 i q.world l.tip .tableWrite q.spec fresh with
            | (d, .error f) => (d, .error f)
            | (d, .ok (_, v)) => (d, .ok (e, all (us ++ [v])))

/-- A walk, begun again from stage 1, level 1 while a compare-and-swap fails: cause 11 after the last of `n` tries (R344). -/
def Dev.walkTries (d : Dev) (i : Nat) (q : TrReq) (fresh : Bool) (stage : Nat) : Nat → Dev × Except TrFault Tlb
  | 0 => (d, .error ⟨11, stage, 4⟩)
  | n + 1 =>
    match d.walkOnce i q fresh with
    | (d, .error f) => (d, .error f)
    | (d, .ok (e, us)) =>
      match d.casAll i us with
      | (d, none) => (d, .ok e)
      | (d, some st) => (d.dropPath i q.world q.code (some q.page) e.ipage).walkTries i q fresh st n

/-- A walk (R341): the translation, or the fault that ends it. -/
def Dev.walk (d : Dev) (i : Nat) (q : TrReq) (fresh : Bool := false) : Dev × Except TrFault Tlb := d.walkTries i q fresh 1 16

/-! ## TLBs -/

/-- Whether a cached translation covers a page (R347). -/
def Tlb.covers (e : Tlb) (world code : Bool) (page : Nat) : Bool :=
  e.world == world && e.code == code && (e.page == page || (e.grp && e.page / 16 == page / 16))

/-- The translation that a cached entry implies for a page of its group (R347). -/
def Tlb.for (e : Tlb) (page : Nat) : Tlb :=
  if e.page = page then e
  else { e with page := page, frame := e.frame + page - e.page, ipage := e.ipage + page - e.page, d := false, grp := false }

/-- The checks of R341 on a cached translation. -/
def Dev.tlbCheck (d : Dev) (q : TrReq) (e : Tlb) : Option TrFault :=
  match s1Check q e.r1 e.w1 e.u e.key.toNat e.se1 with
  | some f => some f
  | none => d.s2Check e.frame e.kind e.pol e.r2 e.w2 e.se2 (.access q.acc q.sup q.world q.off q.n)

/-- Put an entry at the front of a DTLB of 64 (R345). -/
def dtlbPut (lost : Nat) (l : List Tlb) (e : Tlb) : List Tlb :=
  (e :: l.filter fun x => !(x.world == e.world && x.code == e.code && x.page == e.page)).take (64 - lost)

/-- Put an entry at the front of its set of the island TLB: eight ways, set by page bits 8:0 (R345). -/
def itlbPut (lost : Nat) (l : List Tlb) (e : Tlb) : List Tlb :=
  let l := l.filter fun x => !(x.world == e.world && x.code == e.code && x.page == e.page)
  let same := (l.filter fun x => x.page % 512 == e.page % 512).take (7 - lost)
  e :: (same ++ l.filter fun x => x.page % 512 != e.page % 512)

/-- Install a translation in the island TLB, and in a core's DTLB. -/
def Dev.install (d : Dev) (i : Nat) (core : Option Nat) (e : Tlb) : Dev :=
  let isl := d.islands.getD' i {}
  let d := { d with islands := d.islands.put i { isl with tlb := itlbPut (d.lostIsland i .tlbEntry) isl.tlb e } }
  match core with
  | some c =>
    let k := d.cores.getD' c {}
    { d with cores := d.cores.put c { k with dtlb := dtlbPut (d.lostCore c .dtlbEntry) k.dtlb e } }
  | none => d

/-- Remove the translations of a page from the island TLB and a core's DTLB. -/
def Dev.uninstall (d : Dev) (i : Nat) (core : Option Nat) (q : TrReq) : Dev :=
  let d := d.updIsl i fun x => { x with tlb := x.tlb.filter fun e => !e.covers q.world q.code q.page }
  match core with
  | some c => d.updCore c fun k => { k with dtlb := k.dtlb.filter fun e => !e.covers q.world q.code q.page }
  | none => d

/-- A walk, installed when it succeeds: an event of the walker for Caldera's samples (R353). -/
def Dev.walkInstall (d : Dev) (i : Nat) (core : Option Nat) (q : TrReq) (fresh : Bool := false) : Dev × Except TrFault Tlb :=
  match d.walk i q fresh with
  | (d, .error f) => (d, .error f)
  | (d, .ok e) => ((d.install i core e).heatEvent (walkerReq i) (e.frame * 4096) q.world i 0, .ok e)

/-- Use a cached translation: a fault of cause 2, 3 or 7 is confirmed by a walk from the tables, whose result replaces it (R346), a
write through an entry without D walks the leaf again (R344), and another page of a group has its own A and D set (R347). -/
def Dev.useCached (d : Dev) (i : Nat) (core : Option Nat) (q : TrReq) (e : Tlb) : Dev × Except TrFault Tlb :=
  let f := e.for q.page
  match d.tlbCheck q f with
  | some t => if t.cause = 2 ∨ t.cause = 3 ∨ t.cause = 7 then (d.uninstall i core q).walkInstall i core q true else (d, .error t)
  | none =>
    if e.page ≠ q.page then
      match d.walk i q with
      | (d, .error ⟨0, st, lv⟩) => (d, .error ⟨0, st, lv⟩)
      | (d, _) =>
        let f := { f with d := accWrites q.acc }
        (d.install i core f, .ok f)
    else if accWrites q.acc && !f.d then d.walkInstall i core q
    else match core with
      | some c => (d.updCore c fun k => { k with dtlb := dtlbPut (d.lostCore c .dtlbEntry) k.dtlb f }, .ok f)
      | none => (d, .ok f)

/-- Translate one page for island `i` and, for a data access of a core, through its DTLB (R341, R345). The engine of an island shares
the island's structures (R351). -/
def Dev.translate (d : Dev) (i : Nat) (core : Option Nat) (q : TrReq) : Dev × Except TrFault Tlb :=
  let inD := match core with
    | some c => (d.core c).dtlb.find? fun e : Tlb => e.covers q.world q.code q.page
    | none => none
  match inD.or ((d.isl i).tlb.find? fun e : Tlb => e.covers q.world q.code q.page) with
  | some e => d.useCached i core q e
  | none => d.walkInstall i core q

/-! ## Invalidation -/

/-- Whether an invalidation removes a cached translation (R348). -/
def Inval.hits (v : Inval) (e : Tlb) : Bool :=
  let space := v.space == 2 || (v.space == 1) == e.code
  e.world == v.world &&
  match v.kind with
  | 0 => if v.s2 then e.ipage == v.page || (e.grp && e.ipage / 16 == v.page / 16)
         else space && (e.page == v.page || (e.grp && e.page / 16 == v.page / 16))
  | 1 => space && e.key == v.key
  | 2 => space && !e.g
  | _ => true

/-- Whether an invalidation removes a walk-cache entry (R348). -/
def Inval.hitsWalk (v : Inval) (e : WalkEntry) : Bool :=
  let space := v.space == 2 || (v.space == 1) == e.code
  e.world == v.world &&
  match v.kind with
  | 0 => if v.s2 then e.stage2 && e.pfx == v.page / 512 ^ (4 - e.lev)
         else !e.stage2 && space && e.pfx == v.page / 512 ^ (4 - e.lev)
  | 1 => false
  | _ => true

/-- Apply an invalidation to island `i`: its TLB, walk caches, its cores' DTLBs and line buffers (R238, R348). -/
def Dev.applyInval (d : Dev) (i : Nat) (v : Inval) : Dev :=
  let isl := d.islands.getD' i {}
  { d with
    islands := d.islands.put i { isl with tlb := isl.tlb.filter (!v.hits ·), wc := isl.wc.filter (!v.hitsWalk ·) }
    cores := d.cores.map fun p =>
      if p.1 / 8 = i then
        (p.1, { p.2 with dtlb := p.2.dtlb.filter (!v.hits ·), lbuf := p.2.lbuf.filter fun b => b.world != v.world })
      else p }

/-- Launch an invalidation to every island (R349). -/
def Dev.broadcast (d : Dev) (v : Inval) : Dev :=
  { d with islands := (upto 12).foldl (fun m i =>
      let isl := m.getD' i ({} : Island)
      m.put i { isl with inv := isl.inv ++ [v] }) d.islands }

/-- Whether aging removes an entry of a world filled in epoch `e` (R352). -/
def Dev.aged (d : Dev) (world : Bool) (e : Nat) : Bool :=
  d.bit offEPOCHAGE (if world then 1 else 0) && decide (e + 4 ≤ d.epochNo)

/-- Remove aged entries of island `i` (R352). -/
def Dev.ageIsland (d : Dev) (i : Nat) : Dev :=
  let isl := d.islands.getD' i {}
  { d with
    islands := d.islands.put i { isl with tlb := isl.tlb.filter (fun e => !d.aged e.world e.epoch),
                                          wc := isl.wc.filter (fun e => !d.aged e.world e.epoch) }
    cores := d.cores.map fun p =>
      if p.1 / 8 = i then (p.1, { p.2 with dtlb := p.2.dtlb.filter (fun e => !d.aged e.world e.epoch) }) else p }

end Sys2Proof.Machine
end

