-- ==== Sys2Proof/Machine/Regs.lean ====
section
/-!
DEFINITION. Reads of registers through the views (R511 to R514), the values that registers take from the parts they report,
and the field-by-field effect of a write (R8, R512, R514, R518, R519).
-/

namespace Sys2Proof.Machine

/-- Whether the debug, trace and test paths are closed (R507). -/
def Dev.debugLocked (d : Dev) : Bool := d.dbglock && !d.cust.debugOpen

/-- The current value of the register at `off`: as stored, or what the part it reports gives (R520, R352, R491, R312, R290,
R373, R216, R523). -/
def Dev.value (d : Dev) (off : Nat) : Nat :=
  let v := d.rd off
  if off < 0x20 then
    if off = offDEVID then 0x1C6B * 2 ^ 48 + 0x0936 * 2 ^ 32 + 2 ^ 12 + 2 ^ 8 + flagNat d.xgrade * 2 + flagNat d.c192
    else if off = offSERIAL then d.serial.toNat
    else if off = offDEVCAP then 12 * 2 ^ 24 + 8 * 2 ^ 20 + 16 * 2 ^ 12 + 8 * 2 ^ 8 + (if d.c192 then 192 else 128)
    else 1
  else if off = offEPOCHAGE then setBits v 17 16 d.epochNo
  else if off = offFTB then d.now
  else if off = offCUSTSTAT then setBits v 39 32 (d.cores.getD' 0 {}).csgen.toNat
  else if off = offFHSTAT then setBits v 61 61 (flagNat (!d.hub.recoveries.isEmpty))
  else if off = offCLFRZ then
    let busy := d.cal.moves.any fun m => if m.2.world then bitOf v 1 else bitOf v 0
    setBits v 3 3 (flagNat (!busy))
  else if off = offCLSTAT then setBits (setBits v 19 16 (d.cal.moves.filter fun m => decide (m.1 < 8)).length) 15 0 d.cal.clmove.length
  else if off = offCLMOVE then (d.cal.clmove.head?.getD 0).toNat
  else if 0x800000 ≤ off ∧ off < 0x1000000 then
    match regIdx off 0x820000 0x400 2048 with
    | some k => if k % 256 < 32 then setBits v 6 0 (d.pus.getD' (k / 256 * 32 + k % 256) {}).queue.length else v
    | none => v
  else if 0x1000000 ≤ off ∧ off < 0x1C00000 then
    let i := (off - 0x1000000) / 0x100000
    if off = offGYSTAT i then
      let isl := d.islands.getD' i {}
      let busy := match isl.running with
        | some c => (match isl.ctxs.find c with | some g => g.desc.isSome && g.ending.isNone | none => false)
        | none => false
      isl.ctxs.length * 2 ^ 16 + (isl.running.getD 0) * 2 ^ 12 + flagNat busy
    else match regIdx (off - offIsl i) 0x80100 0x10000 8 with
      | some j => if bitOf (d.cores.getD' (8 * i + j) {}).cstat.toNat 26 then setBits v 16 16 0 else v
      | none => v
  else match regIdx off (offDBGPC 0) 0x100 96 with
    | some c => if d.bit (offDBGC c) 1 then (d.cores.getD' c {}).pc.toNat else v
    | none => v

/-- The key under which a view reaches a register: the ledger mailbox lies apart (R513). -/
def regKey (v : View) (off : Nat) : Nat :=
  if viewPf0 v ∧ (off = 0x21000 ∨ off = 0x21008) then 0x10000000 + off else off

/-- Host bytes of a mailbox's MBDATA that a view shows at `off` (R489, R513). -/
def mbData (v : View) (off : Nat) : Option (Bool × Nat) :=
  if viewPf0 v then (if 0x21100 ≤ off ∧ off < 0x22100 then some (true, off - 0x21100) else none)
  else if 0x20100 ≤ off ∧ off < 0x21100 then some (false, off - 0x20100) else none

/-- Whether PF0 may read, or write, a field of the register at `off` (R512); ISRC by its WORLD (R221). -/
def Dev.pf0May (d : Dev) (off : Nat) (f : Fld) (write : Bool) : Bool :=
  match regIdx off (offISRC 0) 8 1024 with
  | some _ => !d.bit off 60 && (if write then f.w0 else f.r0)
  | none => if write then f.w0 else f.r0

/-- What a view reads in field `f` of the register at `key` (R8, R512). -/
def Dev.fieldRead (d : Dev) (v : View) (key : Nat) (f : Fld) : Nat :=
  if viewPf0 v && !d.pf0May key f false then 0
  else if f.acc = .wo then 0
  else
    let x := bitsOf (d.value key) f.hi f.lo
    match regIdx key (offFHLOST 0) 8 96 with
    | some c =>
      if viewPf0 v then
        (upto 64).foldl (fun a s => if bitOf x s && !bitOf (d.hub.lostCus.getD' c 0) s then a + 2 ^ s else a) 0
      else x
    | none => x

/-- A dword of a function's MSI-X table (PCIe layout): address low, address high, data, vector control. -/
def msixDword (f : PcieFn) (k : Nat) : Nat :=
  let (a, dt, m) := f.table.getD' (k / 4) (0, 0, true)
  match k % 4 with
  | 0 => a % 2 ^ 32
  | 1 => a / 2 ^ 32
  | 2 => dt.toNat
  | _ => flagNat m

/-- The function whose MSI-X table a view shows. -/
def Dev.fnOf (d : Dev) (v : View) : PcieFn := if viewPf0 v then d.pf0 else d.pf1

/-- Bits of an RC field that a read through a view neither shows nor clears: FHLOST's custody-world slots through PF0 (R476). -/
def Dev.hiddenBits (d : Dev) (v : View) (key : Nat) (f : Fld) : Nat :=
  match regIdx key (offFHLOST 0) 8 96 with
  | some c => if viewPf0 v then d.fld key f.hi f.lo &&& d.hub.lostCus.getD' c 0 else 0
  | none => 0

/-- A read of bits `bhi:blo` of the register at byte offset `off`, a multiple of 8: the register's whole value as the view shows
it, and the device after the clearing of the RC fields that the read covers (R8, R514). -/
def Dev.readReg (d : Dev) (v : View) (off bhi blo : Nat) : Nat × Dev :=
  if 0x1F00000 ≤ off ∧ off < 0x1F00000 + 16 * msixSize (!viewPf0 v) then
    let k := (off - 0x1F00000) / 4
    (msixDword (d.fnOf v) k + msixDword (d.fnOf v) (k + 1) * 2 ^ 32, d)
  else if 0x1F80000 ≤ off ∧ off < 0x1F80000 + 64 then
    let w := (off - 0x1F80000) / 8
    ((upto 64).foldl (fun a b => if (d.fnOf v).pba.contains (64 * w + b) then a + 2 ^ b else a) 0, d)
  else match mbData v off with
  | some (led, k) =>
    let m := if led then d.cust.ledData else d.cust.hostData
    (bytesNat ((fromN k 8).map fun j => m.getD' j 0), d)
  | none =>
    let key := regKey v off
    if 0x2000000 ≤ off ∧ off < 0x10000000 ∧ (viewPf0 v ∨ d.debugLocked) then (0, d)
    else
      let fs := (regFields key).getD []
      let x := fs.foldl (fun a f => a + d.fieldRead v key f * 2 ^ f.lo) 0
      let d := fs.foldl (fun d f =>
        if f.acc = .rc && decide (blo ≤ f.lo) && decide (f.hi ≤ bhi) && (!viewPf0 v || d.pf0May key f false) && d.fld key f.hi f.lo != 0 then
          d.setFld key f.hi f.lo (d.hiddenBits v key f)
        else d) d
      let d := if key = offCLMOVE ∧ blo = 0 ∧ bhi = 63 then { d with cal := { d.cal with clmove := d.cal.clmove.drop 1 } } else d
      (x, d)

/-- Bits of `w` in field `f` that a write of bits `bhi:blo` covers, shifted to the field. -/
def coveredMask (f : Fld) (bhi blo : Nat) : Nat :=
  let lo := Nat.max f.lo blo
  let hi := Nat.min f.hi bhi
  if hi < lo then 0 else (2 ^ (hi + 1 - lo) - 1) * 2 ^ (lo - f.lo)

/-- The effect of a write on one field: what it takes, and whether CLASS 0x12 or 0x11 is logged for it (R8, R512, R519). -/
def Dev.fieldWrite (d : Dev) (v : View) (key : Nat) (f : Fld) (bhi blo w : Nat) : Nat × Bool × Bool :=
  let old := d.fld key f.hi f.lo
  let m := coveredMask f bhi blo
  let x := bitsOf w f.hi f.lo &&& m
  if m = 0 then (old, false, false)
  else if viewPf0 v && !d.pf0May key f true then
    match f.acc with
    | .ro | .rc => (old, false, false)
    | .rw | .rwl => (old, x != (d.fieldRead v key f &&& m), false)
    | _ => (old, x != 0, false)
  else
    let full := m == 2 ^ (f.hi + 1 - f.lo) - 1
    match f.acc with
    | .rw => ((old - (old &&& m)) ||| x, false, false)
    | .rwl => if d.locked key then (old, false, true) else ((old - (old &&& m)) ||| x, false, false)
    | .w1c => (if full then old - (old &&& x) else old, false, false)
    | .w1s => (if full then old ||| x else old, false, false)
    | .ro | .rc | .wo => (old, false, false)

/-- The field effects of a write of bits `bhi:blo` of the register at `key`: the value its fields would take, with reserved,
locked and refused fields logged (R512, R518, R519). The value is not stored here. -/
def Dev.mergeWrite (d : Dev) (v : View) (off key bhi blo w : Nat) : Nat × Dev :=
  let fs := (regFields key).getD []
  let eff := fs.map fun f => (f, d.fieldWrite v key f bhi blo w)
  let nv := eff.foldl (fun a e => setBits a e.1.hi e.1.lo e.2.1) (d.rd key)
  let named := fs.foldl (fun a f => a + (2 ^ (f.hi + 1 - f.lo) - 1) * 2 ^ f.lo) 0
  let cov := (2 ^ (bhi + 1 - blo) - 1) * 2 ^ blo
  let d := if (w &&& cov) - (w &&& cov &&& named) != 0 then d.logEvent 0x10 0 0 2 off w else d
  let d := if eff.any (·.2.2.2) then d.logEvent 0x11 0 0 2 off w else d
  let d := if eff.any (·.2.2.1) then d.logIgnored off w else d
  (nv, d)

/-- Whether a view may take the action of a WO field (R512), and the write covers it whole (R514). -/
def Dev.actionOk (d : Dev) (v : View) (key hi lo bhi blo : Nat) : Bool :=
  decide (blo ≤ lo) && decide (hi ≤ bhi) &&
  match (regFields key).getD [] |>.find? fun f => f.hi = hi && f.lo = lo with
  | some f => !viewPf0 v || d.pf0May key f true
  | none => false

end Sys2Proof.Machine
end

