-- ==== Sys2Proof/Machine/Ops.lean ====
section
/-!
DEFINITION. The named operations of a ledger core: its registers and banks (R50 to R53), segment checks and loads (R59 to
R64), data accesses through the address chain (R327), the store buffer (R243, R244), the interlocks (R91, R312), exposed
distances (R79 to R81), and taking an exception (R199 to R207) as one shared operation.
-/

namespace Sys2Proof.Machine

/-- A synchronous event: vector, and what the frame's words 4 to 7 report (R207, R212). -/
structure Exc where
  vec : Nat
  cause : Nat := 0
  opnd : Nat := 0
  stage : Nat := 0
  wlev : Nat := 0
  seg : Nat := 0
  src : Nat := 0
  info1 : Nat := 0
  lin : Nat := 0
  deriving DecidableEq, Repr

/-- Why an action stops: it waits with nothing done, it waits after having launched a read, or it raises an event. -/
inductive Stop where
  | wait
  | hold
  | exc (e : Exc)
  deriving DecidableEq, Repr

/-- Actions on the device that may stop. What was done before a stop stays in the state. -/
abbrev M (α : Type) : Type := ExceptT Stop (StateM Dev) α

/-- Stop with an event. -/
def raiseE {α : Type} (e : Exc) : M α := throw (Stop.exc e)

/-- The illegal-instruction fault (vector 1). -/
def illegal : Exc := { vec := 1 }

/-- The privilege fault (vector 2). -/
def privilege : Exc := { vec := 2 }

/-- Wait, with nothing done. -/
def waitM {α : Type} : M α := throw Stop.wait

/-- Raise `e` unless `b`. -/
def need (b : Bool) (e : Exc) : M Unit := if b then pure () else raiseE e

/-- Run an action and give its event as a value; waits go on. -/
def attempt {α : Type} (m : M α) : M (Except Exc α) := ExceptT.mk fun d =>
  match m d with
  | (.ok a, d') => (.ok (.ok a), d')
  | (.error (.exc e), d') => (.ok (.error e), d')
  | (.error s, d') => (.error s, d')

/-! ## Cores, banks and status -/

/-- The core, as an action. -/
def getCore (c : Nat) : M Core := do return (← get).core c

/-- Change the core, as an action. -/
def modCore (c : Nat) (f : Core → Core) : M Unit := modify fun d => d.updCore c f

/-- CSTAT fields (R54). -/
def Core.world (k : Core) : Bool := bitOf k.cstat.toNat 35
def Core.sup (k : Core) : Bool := bitOf k.cstat.toNat 34
def Core.plev (k : Core) : Nat := bitsOf k.cstat.toNat 33 31
def Core.mlev (k : Core) : Nat := bitsOf k.cstat.toNat 30 28
def Core.dsm (k : Core) : Bool := bitOf k.cstat.toNat 27
def Core.det (k : Core) : Bool := bitOf k.cstat.toNat 26
def Core.xav (k : Core) : Bool := bitOf k.cstat.toNat 25
def Core.frm (k : Core) : Nat := bitsOf k.cstat.toNat 24 22
def Core.te (k : Core) : Nat := bitsOf k.cstat.toNat 21 14
def Core.sf (k : Core) : Nat := bitsOf k.cstat.toNat 13 6

/-- Change bits `hi:lo` of CSTAT. -/
def Core.setStat (k : Core) (hi lo v : Nat) : Core := { k with cstat := BitVec.ofNat 36 (setBits k.cstat.toNat hi lo v) }

/-- The context code 2 × WORLD + SUP (R197). -/
def Core.ctx (k : Core) : Nat := 2 * flagNat k.world + flagNat k.sup

/-- Number of the current bank (R51, R53): 0 to 3 T0-T3, 4 to 9 P1-P6, 10 X. -/
def Core.bankNo (k : Core) : Nat := if k.plev = 0 then k.taskBank else if k.plev ≤ 6 then k.plev + 3 else 10

/-- Bank number of a level (R51). -/
def levelBank (l : Nat) : Nat := if l ≤ 6 then l + 3 else 10

/-- A bank. -/
def Core.bankAt (k : Core) (b : Nat) : Bank := k.banks.getD' b {}

/-- The current bank. -/
def Core.bank (k : Core) : Bank := k.bankAt k.bankNo

/-- Replace a bank. -/
def Core.setBank (k : Core) (b : Nat) (x : Bank) : Core := { k with banks := k.banks.put b x }

/-- G`r` of bank `b`. -/
def Core.gAt (k : Core) (b r : Nat) : Word := (k.bankAt b).g.getD' r 0

/-- Write G`r` of bank `b`. -/
def Core.setGAt (k : Core) (b r : Nat) (v : Word) : Core :=
  k.setBank b { k.bankAt b with g := (k.bankAt b).g.put r v }

/-- G`r` of the current bank. -/
def Core.gr (k : Core) (r : Nat) : Word := k.gAt k.bankNo r

/-- Write G`r` of the current bank. -/
def Core.setG (k : Core) (r : Nat) (v : Word) : Core := k.setGAt k.bankNo r v

/-- S`i` of bank `b`. -/
def Core.segAt (k : Core) (b i : Nat) : SegReg := (k.bankAt b).s.getD' i {}

/-- Write S`i` of bank `b`. -/
def Core.setSegAt (k : Core) (b i : Nat) (s : SegReg) : Core :=
  k.setBank b { k.bankAt b with s := (k.bankAt b).s.put i s }

/-- The control registers of a world. -/
def Core.wr (k : Core) (w : Bool) : WorldRegs := if w then k.cus else k.led

/-- Replace the control registers of a world. -/
def Core.setWr (k : Core) (w : Bool) (x : WorldRegs) : Core := if w then { k with cus := x } else { k with led := x }

/-- A task slot. -/
def Core.slot (k : Core) (s : Nat) : Slot := k.slots.getD' s {}

/-- Replace a task slot. -/
def Core.setSlot (k : Core) (s : Nat) (x : Slot) : Core := { k with slots := k.slots.put s x }

/-- The identity of the code that runs (R217). -/
def Core.identity (k : Core) : Nat := if k.plev = 0 then k.runSlot.getD 0o177 else 0o100 + k.plev

/-- XOWN of core `c` (R216). -/
def Dev.xown (d : Dev) (c : Nat) : Nat := d.fld (offSCHEDCFG c) 6 0

/-- Form CSTAT.XAV for the code that now runs (R217). -/
def Dev.formXav (d : Dev) (c : Nat) : Dev :=
  d.updCore c fun k => k.setStat 25 25 (flagNat (k.identity == d.xown c && k.identity != 0o177))

/-- World of level bank P`l`, or of X (R215, R216). -/
def Dev.levelWorld (d : Dev) (c l : Nat) : Bool := if l = 7 then true else d.bit (offSCHEDCFG c) (25 + l)

/-- World of task bank T`n` (R216). -/
def Dev.taskBankWorld (d : Dev) (c n : Nat) : Bool := d.bit (offSCHEDCFG c) (32 + n)

/-- The pair runs in lock mode, which holds DET at 1 (R54, R431). -/
def Dev.lockMode (d : Dev) : Bool := d.fld offSNCFG 1 0 == 2 && d.fld offSNSTAT 31 28 == 2

/-- CSTAT := `v`, with bits 5:0 read as 0. A change of DET from 0 to 1 waits for the store buffer (R252), and lock mode
keeps DET at 1 (R54). -/
def Core.loadStat (k : Core) (lock : Bool) (v : Nat) : Core :=
  let v := v / 64 * 64
  if k.det then { k with cstat := BitVec.ofNat 36 (if lock then setBits v 26 26 1 else v) }
  else if bitOf v 26 || lock then { k with cstat := BitVec.ofNat 36 (setBits v 26 26 0), detWait := true }
  else { k with cstat := BitVec.ofNat 36 v }

/-! ## Loops, in a bank -/

/-- End the innermost loop of a bank (R101, R102). -/
def Bank.popLoop (b : Bank) : Bank :=
  let n := b.dep.toNat - 1
  if n > 0 then { b with dep := BitVec.ofNat 3 n, cur := b.l1, l1 := b.l2, l2 := b.l3 } else { b with dep := BitVec.ofNat 3 n }

/-! ## Exposed distances (R79 to R81) -/

/-- Write a bank register of number 24 to 36 (R53). -/
def Bank.setLoopReg (b : Bank) (n : Nat) (v : Word) : Bank :=
  match n with
  | 24 => { b with cur := { b.cur with top := v } }
  | 25 => { b with cur := { b.cur with exit := v } }
  | 26 => { b with cur := { b.cur with rem := v } }
  | 27 => { b with dep := BitVec.ofNat 3 v.toNat }
  | 28 => { b with l1 := { b.l1 with top := v } }
  | 29 => { b with l1 := { b.l1 with exit := v } }
  | 30 => { b with l1 := { b.l1 with rem := v } }
  | 31 => { b with l2 := { b.l2 with top := v } }
  | 32 => { b with l2 := { b.l2 with exit := v } }
  | 33 => { b with l2 := { b.l2 with rem := v } }
  | 34 => { b with l3 := { b.l3 with top := v } }
  | 35 => { b with l3 := { b.l3 with exit := v } }
  | 36 => { b with l3 := { b.l3 with rem := v } }
  | _ => b

/-- Read a bank register of number 24 to 36 (R53). -/
def Bank.loopReg (b : Bank) (n : Nat) : Word :=
  match n with
  | 24 => b.cur.top
  | 25 => b.cur.exit
  | 26 => b.cur.rem
  | 27 => BitVec.ofNat 36 b.dep.toNat
  | 28 => b.l1.top
  | 29 => b.l1.exit
  | 30 => b.l1.rem
  | 31 => b.l2.top
  | 32 => b.l2.exit
  | 33 => b.l2.rem
  | 34 => b.l3.top
  | 35 => b.l3.exit
  | 36 => b.l3.rem
  | _ => 0

/-- Put an exposed write into effect. -/
def Core.applyExp (k : Core) (w : ExpWrite) : Core :=
  match w with
  | .seg b i r => k.setSegAt b i r
  | .pkr w v => k.setWr w { k.wr w with pkr := v }
  | .loopReg b n v => k.setBank b ((k.bankAt b).setLoopReg n v)
  | .vcfg v => { k with vcfg := v }
  | .te v => k.setStat 21 14 v.toNat

/-- End every distance (R80). -/
def Core.flushExp (k : Core) : Core := { k.exposed.foldl (fun k e => k.applyExp e.w) k with exposed := [] }

/-- One instruction has completed: distances shrink, and those that end take effect (R80). -/
def Core.countExp (k : Core) : Core :=
  let k' := k.exposed.foldl (fun k e => if e.left ≤ 1 then k.applyExp e.w else k) k
  { k' with exposed := (k.exposed.filter fun e => decide (1 < e.left)).map fun e => { e with left := e.left - 1 } }

/-! ## Interlocks (R91, R236, R312, R315) -/

/-- Whether a result or status for G`r` of bank `b` is still to be written. -/
def Core.gBusy (k : Core) (b r : Nat) : Bool :=
  (k.beside.any fun x => x.writes.any fun w => match w with | .g b' r' _ => b' == b && r' == r | _ => false) ||
  (k.posts.any fun p => p.bank == b && (p.gs == some r || p.gr == some r || p.lockGc == some r))

/-- Whether a result for F`r` is still to be written. -/
def Core.fBusy (k : Core) (r : Nat) : Bool :=
  k.beside.any fun x => x.writes.any fun w => match w with | .f r' _ => r' == r | _ => false

/-- Whether an instruction beside the pipe will write a cell. -/
def Beside.holds (b : Beside) (a : Nat) : Bool :=
  b.writes.any fun w => match w with | .mem loc _ => loc.cells.any (·.addr == a) | _ => false

/-- Whether a cell waits for a result, or for the acknowledgement of a posting to it (R315). -/
def Core.cellBusy (k : Core) (a : Nat) : Bool :=
  (k.beside.any (·.holds a)) ||
  (k.posts.any fun p => decide (p.first ≤ a) && decide (a < p.first + p.n))

/-- Read G`r` of the current bank, waiting for a result still to be written. -/
def rdG (c r : Nat) : M Word := do
  let k ← getCore c
  if k.gBusy k.bankNo r then waitM else return k.gr r

/-- Write G`r` of the current bank, waiting for a result still to be written. -/
def wrG (c r : Nat) (v : Word) : M Unit := do
  let k ← getCore c
  if k.gBusy k.bankNo r then waitM else modCore c fun k => k.setG r v

/-- Wait until no listed cell is the subject of a result or posting in flight. -/
def idleCells (c : Nat) (ps : List PLoc) : M Unit := do
  let k ← getCore c
  if ps.any fun p => k.cellBusy p.addr then waitM else return ()

/-! ## Store buffer (R243, R244) -/

/-- Whether a store of core `c` has not reached its register yet. -/
def Dev.regBusy (d : Dev) (c : Nat) : Bool := d.regNet.any fun r => !r.geyser && r.n == c

/-- Drain `n` entries of core `c`. -/
def drainN (c : Nat) : Nat → M Unit
  | 0 => return ()
  | n + 1 => do
    match (← get).drainOne c with
    | none => waitM
    | some d => set d
    drainN c n

/-- Drain the whole store buffer of core `c`. -/
def drainAll (c : Nat) : M Unit := do drainN c ((← getCore c).sbuf.length)

/-- Put cells of one block into the store buffer: into the youngest entry when it may take them, else a new one (R243). -/
def putEntry (c : Nat) (run : List (PLoc × Cell)) (jr : Bool) (segtag : BitVec 16) : M Unit := do
  match run with
  | [] => return ()
  | (p, _) :: _ =>
    let sb := (← getCore c).sbuf
    let add (m : AMap SbCell) : AMap SbCell :=
      run.foldl (fun m pc => m.put (pc.1.addr % 16) { v := pc.2, jr := jr, segtag := segtag }) m
    match sb.getLast? with
    | some e =>
      if e.block = p.addr / 16 ∧ e.pol = p.pol ∧ !p.se ∧ !e.se then
        modCore c fun k => { k with sbuf := k.sbuf.dropLast ++ [{ e with cells := add e.cells }] }
      else
        if sb.length ≥ 8 then drainN c (sb.length - 7)
        modCore c fun k => { k with sbuf := k.sbuf ++ [{ block := p.addr / 16, pol := p.pol, se := p.se, cells := add [] }] }
    | none =>
      modCore c fun k => { k with sbuf := [{ block := p.addr / 16, pol := p.pol, se := p.se, cells := add [] }] }

/-- Store cells at checked locations, in program order, one entry for each block (R243). -/
def storeRuns (c : Nat) (jr : Bool) (segtag : BitVec 16) : List (List (PLoc × Cell)) → M Unit
  | [] => return ()
  | r :: t => do
    putEntry c r jr segtag
    storeRuns c jr segtag t

/-- Store cells at a checked operand. -/
def storeLoc (c : Nat) (loc : MemLoc) (cs : List Cell) : M Unit := do
  idleCells c loc.cells
  storeRuns c loc.jr loc.segtag (runsBy 16 (loc.cells.zip cs))

/-! ## The address chain for a core (R327) -/

/-- Pages of `n` cells from linear address `lin`: distance from the start, address and cells of each. -/
def pageChunks : Nat → Nat → Nat → Nat → List (Nat × Nat × Nat)
  | 0, _, _, _ => []
  | fuel + 1, i0, lin, n =>
    if n = 0 then []
    else
      let m := Nat.min n (4096 - lin % 4096)
      (i0, lin, m) :: pageChunks fuel (i0 + m) (lin + m) (n - m)

/-- What an access reports if it faults: operand number, segment register, offset of its first cell (R207). -/
structure Rep where
  opnd : Nat := 0
  seg : Nat := 0
  off : Nat := 0
  deriving DecidableEq, Repr

/-- An event at cell `i` of an access, at linear address `lin`. -/
def Rep.exc (r : Rep) (vec cause : Nat) (i lin : Nat) : Exc :=
  { vec := vec, cause := cause, opnd := r.opnd, seg := r.seg, info1 := (r.off + i) % 2 ^ 36, lin := lin % 2 ^ 48 }

/-- The checks of each cell after its translation: bank ownership (R319, R321, R323), then poison for a cell that is read
(R213). -/
def cellChecks (c : Nat) (acc : Access) (rep : Rep) : List (Nat × Nat × PLoc) → M Unit
  | [] => return ()
  | (i, lin, p) :: t => do
    let d ← get
    match if acc == .lock then Region.none else d.region p.addr with
    | .bank j =>
      if j ≠ c / 8 then raiseE (rep.exc 12 2 i lin)
      if d.bankHeld p.addr then waitM
      if accWrites acc then
        match d.ownCheck p.addr 1 with
        | .ok => pure ()
        | .waits => waitM
        | .refused => raiseE (rep.exc 12 1 i lin)
    | _ => pure ()
    if accReads acc && !accSent acc && d.poisoned p then raiseE (rep.exc 41 0 i lin)
    cellChecks c acc rep t

/-- Translate and check the pages of an access; `vec` is 5 for data and 6 for fetch (R342). -/
def chunkAccess (c : Nat) (world sup code : Bool) (acc : Access) (segKey pkr : Nat) (rep : Rep) (n vec : Nat) :
    List (Nat × Nat × Nat) → M (List PLoc)
  | [] => return []
  | (i0, lin, m) :: t => do
    let q : TrReq := { world := world, code := code, sup := sup, page := lin / 4096 % 2 ^ 36, acc := acc, segKey := segKey, pkr := pkr,
                       off := lin % 4096, n := n }
    let (d, r) := (← get).translate (c / 8) (some c) q
    set d
    match r with
    | .error ⟨0, _, _⟩ => waitM
    | .error f => raiseE { rep.exc vec f.cause i0 lin with stage := f.stage, wlev := f.lev }
    | .ok e =>
      let a := e.frame * 4096 + lin % 4096
      let se := e.se1 || e.se2 || d.windowed a
      let ps := (fromN a m).map fun x => ({ addr := x, pol := e.pol, se := se } : PLoc)
      if !accSent acc then modify fun d => d.readLines ps
      cellChecks c acc rep ((upto m).map fun j => (i0 + j, lin + j, { addr := a + j, pol := e.pol, se := se }))
      let rest ← chunkAccess c world sup code acc segKey pkr rep n vec t
      return ps ++ rest

/-- The linear access of `n` cells at `lin`. -/
def linAccess (c : Nat) (world sup : Bool) (acc : Access) (segKey pkr : Nat) (rep : Rep) (lin n : Nat) : M (List PLoc) :=
  chunkAccess c world sup false acc segKey pkr rep n 5 (pageChunks (n + 1) 0 lin n)

/-- Whether an access to a segment has the rights it needs (R62); `cw` for CWR and CRD. -/
def segRights (s : SegDesc) (acc : Access) : Bool :=
  match acc with
  | .read => s.rd && !s.cw
  | .write => s.wr && s.typ != 2 && !s.cw
  | .rmw => s.rd && s.wr && s.typ != 2 && !s.cw
  | .posting | .lock => s.wr && s.typ != 2 && !s.cw
  | .crd => s.cw && s.rd
  | .cwr => s.cw && s.wr
  | .fetch => false

/-- Whether offset `x` is inside a segment (R63). -/
def segInside (s : SegDesc) (x : Nat) : Bool :=
  decide (x ≤ 2 ^ 36 - 1) && decide (s.base.toNat + x < if s.cw then 2 ^ 36 else 2 ^ 48) &&
  (if s.typ = 1 then decide (s.limit.toNat < x) else decide (x ≤ s.limit.toNat))

/-- The first offset of `n` from `o` that lies outside a segment. -/
def segOutside (s : SegDesc) (o : Nat) : Nat → Option Nat
  | 0 => none
  | n + 1 => if segInside s o then segOutside s (o + 1) n else some o

/-- The segment checks of an access of `n` cells at offset `o` (R61 to R63): null, rights, limit. The faulting
cell's linear address is its offset past BASE (R206, R207); a null register has no BASE, and gives 0 (log entry 30). -/
def segCheck (s : SegReg) (acc : Access) (rep : Rep) (n : Nat) : M SegDesc :=
  match s.desc with
  | none => raiseE (rep.exc 4 1 0 0)
  | some x =>
    if !segRights x acc then raiseE (rep.exc 4 6 0 (x.base.toNat + rep.off))
    else match segOutside x rep.off n with
      | some o => raiseE (rep.exc 4 7 (o - rep.off) (x.base.toNat + o))
      | none => return x

/-- An access of `n` cells at offset `off` of a segment register, in the current context (R327). -/
def segAccess (c : Nat) (s : SegReg) (acc : Access) (rep : Rep) (n : Nat) : M MemLoc := do
  let x ← segCheck s acc rep n
  let k ← getCore c
  let ps ← linAccess c k.world k.sup acc x.key.toNat (k.wr k.world).pkr.toNat rep (x.base.toNat + rep.off) n
  if accSent acc then
    if ps.any fun p => (k.beside.any fun b => b.holds p.addr) then waitM
  else idleCells c ps
  return { cells := ps, jr := x.jr, segtag := x.segtag, lin := x.base.toNat + rep.off }

/-- An access through S`i` of the current bank. -/
def memAccess (c opnd i off n : Nat) (acc : Access) : M MemLoc := do
  let k ← getCore c
  segAccess c (k.segAt k.bankNo i) acc { opnd := opnd, seg := i, off := off } n

/-- Put a line at the front of its L1 set of four (R237); pages that L1 never holds and deterministic mode leave it alone. -/
def Dev.touchL1 (d : Dev) (c : Nat) (p : PLoc) : Dev :=
  let k := d.core c
  let cached := match d.region p.addr with
    | .localMem | .bank _ => !p.se && !k.det
    | _ => false
  if cached then
    let l := p.addr / 128
    let rest := k.l1.filter (· != l)
    let same := (rest.filter fun x => x % 64 == l % 64).take (3 - d.lostCore c .l1Way)
    d.setCore c { k with l1 := l :: (same ++ rest.filter fun x => x % 64 != l % 64) }
  else d

/-- A read that leaves the device (R381, R449): its data when it has come, else it is launched and the core waits. A read that
failed, or that cannot be sent (`ok`), gives poisoned cells, and their consumption is the machine check (R213), at cell `i` of the
access. -/
def extRead (c : Nat) (a n : Nat) (rep : Rep) (i lin : Nat) (ok : Bool) (launch : Dev → Dev) : M (List Cell) := do
  let k ← getCore c
  match k.ext.find? fun e => e.addr == a && e.n == n with
  | some e =>
    match e.data with
    | some cs => if e.poisoned then raiseE (rep.exc 41 0 i lin) else return cs
    | none => throw Stop.hold
  | none =>
    if !ok then raiseE (rep.exc 41 0 i lin)
    modify fun d => launch (d.updCore c fun k => { k with ext := k.ext ++ [{ addr := a, n := n }] })
    throw Stop.hold

/-- Read the cells of one page at checked locations: they are those of an access from cell `i`, at linear address `lin`. -/
def readRun (c : Nat) (rep : Rep) (i lin : Nat) (ps : List PLoc) : M (List Cell) := do
  match ps with
  | [] => return []
  | p :: _ =>
    let d ← get
    match d.region p.addr with
    | .ledWin | .cusWin =>
      drainAll c
      if (← get).regBusy c then waitM
      let v := if p.addr < cusWinBase then View.lwin else View.cwin
      let off := p.addr - (if p.addr < cusWinBase then ledWinBase else cusWinBase)
      let (x, d) := (← get).readReg v (off / 8 * 8) (8 * (off % 8) + 8 * ps.length - 1) (8 * (off % 8))
      set d
      return natCells ps.length (if ps.length = 4 then x / 2 ^ (8 * (off % 8)) % 2 ^ 32 else x)
    | .host => do
      drainAll c
      extRead c p.addr ps.length rep i lin d.hostReady fun d => d.send (.hostRead (p.addr - hostWinBase) ps.length)
    | .far w => do
      drainAll c
      extRead c p.addr ps.length rep i lin true fun d =>
        d.datagram (d.farPeer w) (.request (.read (Fin.ofNat 96 c) (BitVec.ofNat 38 p.addr) ps.length))
    | _ =>
      match forwarded (d.core c).sbuf ps with
      | some cs => return cs
      | none => drainN c (drainCount (d.core c).sbuf ps)
      let d ← get
      if d.postQueued ps then waitM
      let d := (lineRuns ps).foldl (fun d r => match r with | q :: _ => d.touchL1 c q | [] => d) d
      set d
      return d.cells ps

/-- Read the runs of an operand, from cell `i` on. -/
def readRuns (c : Nat) (rep : Rep) (i lin : Nat) : List (List PLoc) → M (List Cell)
  | [] => return []
  | r :: t => do
    let a ← readRun c rep i lin r
    let b ← readRuns c rep (i + r.length) (lin + r.length) t
    return a ++ b

/-- Read a checked operand (R235, R244). -/
def readLoc (c : Nat) (rep : Rep) (loc : MemLoc) : M (List Cell) :=
  readRuns c rep 0 loc.lin ((runsBy 4096 (loc.cells.map fun p => (p, 0))).map fun r => r.map (·.1))

/-- Read `n` cells at linear address `lin` with supervisor rights in a world's data space (R59, R202). -/
def readLin (c : Nat) (world : Bool) (rep : Rep) (lin n : Nat) : M (List Cell) := do
  let k ← getCore c
  let ps ← linAccess c world true .read 0 (k.wr world).pkr.toNat rep (lin % 2 ^ 48) n
  readLoc c rep { cells := ps, lin := lin }

/-! ## Loading a segment register (R59 to R61) -/

/-- A descriptor from its four words. -/
def descOf (ws : List Word) : SegDesc :=
  let w0 := (ws.getD 0 0).toNat
  { typ := BitVec.ofNat 2 (bitsOf w0 34 33), rd := bitOf w0 32, wr := bitOf w0 31, cw := bitOf w0 30, jr := bitOf w0 29,
    key := BitVec.ofNat 4 (bitsOf w0 28 25), sup := bitOf w0 24,
    base := BitVec.ofNat 48 (bitsOf w0 11 0 * 2 ^ 36 + (ws.getD 1 0).toNat), limit := ws.getD 2 0,
    segtag := BitVec.ofNat 16 (ws.getD 3 0).toNat }

/-- The checks of LSEG on selector `sel` against a descriptor-table limit (R61, cause 2). -/
def selOk (sel limit : Nat) : Bool := decide (sel < 2 ^ 16) && decide (sel < limit)

/-- The segment register that a descriptor's cells give, with LSEG's checks of it (R60, R61); `user` for user level. -/
def segFrom (sel : Nat) (user : Bool) (rep : Rep) (cs : List Cell) : M SegReg := do
  let ws := cellsWords cs
  let w0 := (ws.getD 0 0).toNat
  let x := descOf ws
  need (bitOf w0 35) (rep.exc 4 3 0 0)
  need (x.typ != 3 && bitsOf w0 23 12 == 0 && bitsOf (ws.getD 3 0).toNat 35 16 == 0 &&
        (!x.cw || (x.typ == 0 && bitsOf w0 11 0 == 0))) (rep.exc 4 4 0 0)
  need (!(x.sup && user)) (rep.exc 4 5 0 0)
  return { sel := BitVec.ofNat 16 sel, desc := some x }

/-- Load selector word `sel` as LSEG does, for code of world `world`, at user level when `user` (R61); faults report `rep`. -/
def loadSeg (c : Nat) (world user : Bool) (sel : Nat) (rep : Rep) : M SegReg := do
  if sel = 0 then return {}
  let k ← getCore c
  let w := k.wr world
  need (selOk sel w.sdtl.toNat) (rep.exc 4 2 0 0)
  segFrom sel user rep (← readLin c world rep (w.sdtb.toNat * 4096 + 16 * sel) 16)

/-! ## Taking an exception (R199 to R207) -/

/-- INFO0 of an event (R207). -/
def Exc.info0 (e : Exc) : Nat :=
  e.opnd * 2 ^ 32 + e.cause * 2 ^ 28 + e.stage * 2 ^ 26 + e.wlev * 2 ^ 23 + e.seg * 2 ^ 20 + e.src

/-- A handler-descriptor entry is right for the use of its vector (R202, R204). -/
def hdtOk (ws : List Word) (v : Delivery) : Bool :=
  let w0 := (ws.getD 0 0).toNat
  let typ := bitsOf w0 34 33
  let lev := bitsOf w0 30 28
  let levOk :=
    if v.vec = 40 ∨ v.vec = 41 then lev == 7
    else if v.vec = 24 then lev == 6
    else if v.vec < 64 ∨ v.gate then decide (1 ≤ lev) && decide (lev ≤ 6)
    else lev == 0
  bitOf w0 35 && bitsOf w0 24 16 == 0 && ws.getD 3 0 == 0 && bitsOf w0 32 31 == 2 * flagNat v.world + 1 && levOk &&
  typ == (if v.gate then 1 else 0) && !(v.irq && decide (v.vec < 64))

/-- The words of a frame (R206). -/
def frameWords (k : Core) (v : Delivery) (l : Nat) (own : Bool) (now : Nat) (upc ck : Nat) : List Nat :=
  let slot := if k.plev = 0 then k.runSlot.getD k.lastSlot + 256 * k.taskBank else 0o177
  [flagNat v.micro.isSome * 2 ^ 34 + v.vec * 2 ^ 26 + l * 2 ^ 23 + flagNat own * 2 ^ 22, v.spc.toNat, k.cstat.toNat,
   v.fpc.toNat, v.info0, v.info1 % 2 ^ 36, v.lin / 2 ^ 36 % 2 ^ 12, v.lin % 2 ^ 36, slot, now % 2 ^ 36, now / 2 ^ 36 % 2 ^ 28, 0] ++
  match v.micro with
  | some u => [upc, u.u0.toNat, u.u1.toNat, u.u2.toNat, u.u3.toNat, ck]
  | none => []

/-- An escalation cause, or the machine check's or an escalation's own failure. -/
def failWith {α : Type} (k : Nat) : M (Except Nat α) := return .error k

/-- One delivery (R204, R205): it answers the escalation cause when it fails, and then it has written nothing. -/
def deliverOnce (c : Nat) (v : Delivery) : M (Except Nat Unit) := do
  modCore c Core.flushExp
  let k ← getCore c
  let r ← attempt (readLin c v.world {} ((k.wr v.world).hdtb.toNat * 4096 + 16 * v.vec) 16)
  match r with
  | .error _ => failWith 2
  | .ok cs =>
    let ws := cellsWords cs
    if !hdtOk ws v then failWith 3
    else
      let w0 := (ws.getD 0 0).toNat
      let l := v.level.getD (bitsOf w0 30 28)
      let sync := v.level.isNone
      if sync && decide (l < 7) && (decide (l ≤ k.mlev) || decide (l ≤ k.plev)) then failWith 1
      else if !v.world && (← get).levelWorld c l then failWith 3
      else
        let ssel := bitsOf w0 15 0
        let own := ssel == 0
        if own && 2 * flagNat v.world + 1 != k.ctx then failWith 4
        else
          let rs ← attempt (if own then pure (k.segAt k.bankNo 1) else loadSeg c v.world false ssel {})
          match rs with
          | .error _ => failWith 5
          | .ok s =>
            let n := if v.micro.isSome then 18 else 12
            let top := if own then (k.gr 15).toNat else (ws.getD 2 0).toNat
            let base := (top + 2 ^ 36 - 4 * n) % 2 ^ 36
            let d ← get
            let (upc, ck) := match v.micro with
              | some u => (u.upc.toNat, u.ck.toNat)
              | none => (0, 0)
            let fw := frameWords k v l own d.now upc ck
            let rp ← attempt (do
              let x ← segCheck s .write { off := base } (4 * n)
              let ps ← linAccess c v.world true .write x.key.toNat (k.wr v.world).pkr.toNat { off := base } (x.base.toNat + base) (4 * n)
              storeLoc c { cells := ps, jr := x.jr, segtag := x.segtag } (fw.flatMap (natCells 4)))
            match rp with
            | .error _ => failWith 5
            | .ok _ =>
              let b := levelBank l
              let st := setBits (setBits k.cstat.toNat 35 34 (bitsOf w0 32 31)) 33 31 l
              let st := setBits (setBits st 30 28 (Nat.max l (bitsOf w0 27 25))) 21 14 0
              modCore c fun k =>
                let k := (k.setSegAt b 1 s).setGAt b 15 (BitVec.ofNat 36 base)
                { k with cstat := BitVec.ofNat 36 st, pc := ws.getD 1 0, ext := [], micro := none, strDone := 0, fresh := true }
              modify fun d => (d.formXav c).trace c 2 v.vec (ws.getD 1 0)
              return .ok ()

/-- The core checkstops (R201): it stops, and reports to the fault hub as a lasting fault of the core. -/
def Dev.checkstop (d : Dev) (c : Nat) : Dev :=
  let k := d.core c
  let d := d.setCore c { k with checkstop := true, ext := [] }
  let d := (d.log 1 0x04 1 c 0 0 k.pc.toNat).raise 1011
  { d with hub := { d.hub with lasting := d.hub.lasting ++ [(.core (Fin.ofNat 96 c), d.now)] } }

/-- Deliver an event: at its level, or by escalation to level 7 through custody vector 40; a level-7 delivery that fails
checkstops (R199 to R201, R204). -/
def deliver (c : Nat) (v : Delivery) : M Unit := do
  if (← getCore c).plev = 7 then modify fun d => d.checkstop c
  else
    match ← deliverOnce c v with
    | .ok () => if v.vec = 41 then modify fun d => d.logEvent 0x05 1 c 0 0 c
    | .error cause =>
      if v.vec = 41 then modify fun d => d.checkstop c
      else
        let info0 := setBits (setBits v.info0 31 28 cause) 17 10 v.vec
        match ← deliverOnce c { v with vec := 40, world := true, level := none, irq := false, gate := false,
                                         info0 := info0 } with
        | .ok () => modify fun d => d.logEvent 0x06 1 c 0 0 v.vec
        | .error _ => modify fun d => d.checkstop c

/-- Deliver an event after which the instruction is not run again, a trap or a gate: an entry that launches a read goes on as an
entry under way. -/
def deliverAfter (c : Nat) (v : Delivery) : M Unit := ExceptT.mk fun d =>
  match deliver c v d with
  | (.error .hold, d') => (.ok (), d'.updCore c fun k => { k with entry := some v })
  | r => r

/-- World whose HDT receives a synchronous event of vector `vec` (R203, R219): custody for the machine check; for
FP-unavailable, custody when the code or the owner of the extended state is custody; else the world of the code. -/
def Dev.excWorld (d : Dev) (c vec : Nat) : Bool :=
  let k := d.core c
  if vec = 41 then true
  else if vec = 3 then
    let x := d.xown c
    k.world || (if x < 64 then (k.slot x).world else if 0o101 ≤ x ∧ x ≤ 0o107 then d.levelWorld c (x - 0o100) else false)
  else k.world

/-- Take the event of an instruction (R200, R212): a fault resumes at the instruction, a trap at `next`. -/
def takeExc (c : Nat) (e : Exc) (fpc next : Word) : M Unit := do
  let d ← get
  let trap := decide (16 ≤ e.vec) && decide (e.vec ≤ 19)
  let v : Delivery := { vec := e.vec, world := d.excWorld c e.vec, spc := if trap then next else fpc, fpc := fpc,
                        info0 := e.info0, info1 := e.info1, lin := e.lin }
  if trap then deliverAfter c v else deliver c v

end Sys2Proof.Machine
end

