-- ==== Sys2Proof/Machine/Descriptor.lean ====
section
/-!
DEFINITION. Host descriptors of the three generations (R389 to R392, R403): their fields, the checks that need nothing but their
bytes, and the finishing of a descriptor (R395).
-/

namespace Sys2Proof.Machine

/-- Bytes of a descriptor by generation: Gen-A 32, Gen-B 64, Gen-C 128 (R390, R391). -/
def descSize (gen : Nat) : Nat := if gen = 0 then 32 else if gen = 1 then 64 else 128

/-- The little-endian integer of `n` bytes at `o`. -/
def leAt (b : List Byte) (o n : Nat) : Nat := bytesNat ((b.drop o).take n)

/-- OPC. -/
def QDesc.opc (e : QDesc) : Nat := leAt e.bytes 0 1
/-- FLAGS. -/
def QDesc.flags (e : QDesc) : Nat := leAt e.bytes 1 1
/-- ORD. -/
def QDesc.ord (e : QDesc) : Bool := bitOf e.flags 0
/-- CNT; 0 in the generations that have none. -/
def QDesc.cnt (e : QDesc) : Nat := if e.gen = 2 then leAt e.bytes 2 2 else 0
/-- TAG. -/
def QDesc.tag (e : QDesc) : Nat := if e.gen = 0 then leAt e.bytes 2 2 else leAt e.bytes 4 4
/-- ADDR. -/
def QDesc.addr (e : QDesc) : Nat := leAt e.bytes 8 8
/-- LEN. -/
def QDesc.len (e : QDesc) : Nat := if e.gen = 0 then leAt e.bytes 4 4 else leAt e.bytes 16 4
/-- CONV. -/
def QDesc.conv (e : QDesc) : Nat := if e.gen = 0 then leAt e.bytes 24 2 else leAt e.bytes 20 2
/-- The offset of DEVOFF. -/
def QDesc.off (e : QDesc) : Nat := if e.gen = 0 then leAt e.bytes 16 4 else leAt e.bytes 24 8 % 2 ^ 36
/-- The segment-set entry of DEVOFF. -/
def QDesc.ent (e : QDesc) : Nat := if e.gen = 0 then 0 else bitsOf (leAt e.bytes 24 8) 42 40
/-- Whether the descriptor is a POST with inline postings. -/
def QDesc.inline' (e : QDesc) : Bool := e.opc == 3 && e.cnt != 0
/-- DEVLEN. -/
def QDesc.devlen (e : QDesc) : Nat :=
  if e.gen = 0 then leAt e.bytes 20 4 else if e.inline' then 0 else leAt e.bytes 32 8 % 2 ^ 36

/-- Whether bytes `o` onward hold anything but 0. -/
def anyAt (b : List Byte) (o : Nat) : Bool := (b.drop o).any (· != 0)

/-- Whether a reserved field is not 0 (R389 to R391). -/
def QDesc.reservedSet (e : QDesc) : Bool :=
  decide (4 ≤ e.flags) ||
  if e.gen = 0 then e.opc != 4 && anyAt e.bytes 26
  else
    leAt e.bytes 22 2 != 0 || bitsOf (leAt e.bytes 24 8) 63 43 != 0 || bitsOf (leAt e.bytes 24 8) 39 36 != 0 ||
    (e.gen == 1 && leAt e.bytes 2 2 != 0) ||
    if e.inline' then anyAt e.bytes (32 + 16 * Nat.min e.cnt 6)
    else decide (2 ^ 36 ≤ leAt e.bytes 32 8) || (e.opc != 4 && anyAt e.bytes 40)

/-- The status that a descriptor's bytes alone give it (R389, R390, R392, R403); 0 when they are right. -/
def QDesc.badStatus (e : QDesc) : Nat :=
  if 5 < e.opc ∨ (e.opc = 5 ∧ e.gen = 0) then 0x01
  else if e.reservedSet || decide (6 < e.cnt) || (e.cnt != 0 && e.opc != 3) || decide (64 ≤ e.conv) ||
          (e.conv != 0 && [0, 4, 5].contains e.opc) then 0x02
  else 0

/-- Queue `q`'s state. -/
def Dev.queue (d : Dev) (q : Nat) : Queue := d.queues.getD' q {}

/-- Replace queue `q`'s state. -/
def Dev.setQueue (d : Dev) (q : Nat) (x : Queue) : Dev := { d with queues := d.queues.put q x }

/-- Change queue `q`'s state. -/
def Dev.updQueue (d : Dev) (q : Nat) (f : Queue → Queue) : Dev := d.setQueue q (f (d.queue q))

/-- Replace the descriptor of an image slot. -/
def Dev.setDesc (d : Dev) (q : Nat) (e : QDesc) : Dev :=
  d.updQueue q fun x => { x with descs := x.descs.map fun f => if f.index = e.index then e else f }

/-- Finish a descriptor (R395): its completion joins those to be written. -/
def Dev.finish (d : Dev) (q : Nat) (e : QDesc) (status result detail : Nat) (pstat : Nat := 0)
    (slot : Option (Nat × Nat) := none) : Dev :=
  let c : Comp := { index := e.index, gen := e.gen, tag := BitVec.ofNat 32 e.tag, status := BitVec.ofNat 8 status,
                    result := BitVec.ofNat 64 result, detail := BitVec.ofNat 16 detail, pstat := BitVec.ofNat 24 pstat,
                    now := bitOf e.flags 1, slot := slot, batch := e.batch, jseq := (d.queue q).journaled.getD' e.index 0 }
  (d.setDesc q { e with st := .done, data := [], ext := [] }).updQueue q fun x =>
    { x with comps := x.comps ++ [c], journaled := x.journaled.del e.index }

end Sys2Proof.Machine
end

