-- ==== Sys2Proof/Machine/Operands.lean ====
section
/-!
DEFINITION. Instruction parcels and specifiers (R65 to R68), addressing modes (R69), register-direct operands (R70),
immediates and literals (R71), the order of specifier evaluation and of writes (R72), and results that wait beside the pipe.
-/

namespace Sys2Proof.Machine

/-- A core instruction as fetched: core, primary opcode, secondary opcode (0: none), bits 5:0 of the opcode parcel, length or
mask parcel, in-line parcels, specifiers (R65). -/
structure Ins where
  c : Nat
  op : Nat
  sec : Nat := 0
  ob : Nat
  lp : List Parcel := []
  inl : List Parcel := []
  specs : List Spec := []
  deriving DecidableEq, Repr

/-- The parcels of a specifier (R67). -/
def specParcels (p : Spec) : List Parcel :=
  BitVec.ofNat 14 (p.mode.toNat * 1024 + p.reg.toNat * 64 + p.seg.toNat * 8 + p.ext.toNat) :: p.xs

/-- The parcels of an instruction, in the order of R65. -/
def Ins.parcels (x : Ins) : List Parcel :=
  BitVec.ofNat 14 (x.op * 64 + x.ob) :: ((if x.op = 0o377 then [BitVec.ofNat 14 x.sec] else []) ++ x.lp ++ x.inl ++
    x.specs.flatMap specParcels)

/-- Length in parcels. -/
def Ins.len (x : Ins) : Nat := x.parcels.length

/-- Parcels concatenated, first most significant (R68). -/
def parcelsNat (ps : List Parcel) : Nat := ps.foldl (fun a p => a * 16384 + p.toNat) 0

/-- In-line or extension parcels as a sign-extended displacement, modulo 2³⁶ (R69, R98). -/
def dispOf (ps : List Parcel) : Nat := if ps.isEmpty then 0 else sext36 (14 * ps.length) (parcelsNat ps)

/-- Whether a specifier's mode has an index parcel (R69). -/
def specIndexed (p : Spec) : Bool := p.mode == 6 || p.mode == 7 || p.mode == 12

/-- Cells that a literal of `ext` parcels supplies (R71). -/
def litCells (ext : Nat) : Nat := if ext = 1 then 1 else if ext = 2 then 3 else 4

/-- The encoding rules of a specifier that hold for every operand (R67 to R69, R71). -/
def specForm (p : Spec) : Bool :=
  let e := p.ext.toNat
  let range (lo hi : Nat) : Bool := decide (lo ≤ e) && decide (e ≤ hi)
  let idx : Bool := match p.xs with | x :: _ => bitsOf x.toNat 7 0 == 0 | [] => false
  decide (e ≤ 3) && p.xs.length == e &&
  match p.mode.toNat with
  | 0 => e == 0 && p.seg == 0
  | 1 => e == 0
  | 2 => e == 1
  | 3 => range 2 3
  | 4 => e == 0
  | 5 => e == 0
  | 6 => e == 1 && idx
  | 7 => range 2 3 && idx
  | 8 => e == 0 || p.reg == 0
  | 9 => e == 0 || p.reg == 0
  | 10 => range 1 3 && p.reg == 0
  | 11 => true
  | 12 => range 1 3 && idx
  | 13 => if e = 0 then p.seg == 0 else p.seg == 0 || p.seg == 1
  | 14 => range 1 3 && p.seg == 0
  | _ => false

/-- Whether a specifier's mode addresses memory. -/
def specMem (p : Spec) : Bool := decide (1 ≤ p.mode.toNat) && decide (p.mode.toNat ≤ 12)

/-- A literal may supply an operand of `n` cells (R71). -/
def litOk (n : Nat) (p : Spec) : Bool :=
  decide (n ≤ litCells p.ext.toNat) && parcelsNat p.xs % 2 ^ (14 * p.ext.toNat - 9 * n) == 0

/-- An integer source of `n` cells (R70, R71). -/
def okIntSrc (n : Nat) (p : Spec) : Bool :=
  specForm p && (if p.mode = 0 then n != 8 || p.reg.toNat % 2 == 0 else if p.mode = 14 then litOk n p else true)

/-- An integer operand of `n` cells that is written (R70, R71). -/
def okIntDst (n : Nat) (p : Spec) : Bool :=
  specForm p && (specMem p || (p.mode == 0 && (n != 8 || p.reg.toNat % 2 == 0)))

/-- A decimal source of `n` cells (R70, R71). -/
def okDecSrc (n : Nat) (p : Spec) : Bool :=
  specForm p && (specMem p || (p.mode == 0 && decide (n ≤ 4)) || (p.mode == 14 && litOk n p))

/-- A decimal operand of `n` cells that is written (R70, R71). -/
def okDecDst (n : Nat) (p : Spec) : Bool := specForm p && (specMem p || (p.mode == 0 && decide (n ≤ 4)))

/-- A floating operand (R70): F register, or memory. -/
def okFlt (p : Spec) : Bool := specForm p && (specMem p || p.mode == 0)

/-- A floating source of `n` cells: as `okFlt`, or a literal that supplies it (R70, R71). -/
def okFltSrc (n : Nat) (p : Spec) : Bool := okFlt p || (specForm p && p.mode == 14 && litOk n p)

/-- An operand defined as a register (R70): mode 0. -/
def okReg (p : Spec) : Bool := specForm p && p.mode == 0

/-- A mask register operand (R70). -/
def okMask (p : Spec) : Bool := okReg p && decide (p.reg.toNat < 8)

/-- An operand of the move, compare, translate and search families (R70): mode 1. -/
def okStr (p : Spec) : Bool := specForm p && p.mode == 1

/-- A memory operand (R304). -/
def okMem (p : Spec) : Bool := specForm p && specMem p

/-! ## Evaluation -/

/-- G`r` as a specifier sees it, after the mode 4 and 5 updates of earlier specifiers (R72). -/
def seeG (c : Nat) (upd : AMap Word) (r : Nat) : M Word :=
  match upd.find r with
  | some v => return v
  | none => rdG c r

/-- The segment register of a memory mode (R67). -/
def specSeg (p : Spec) : Nat := if p.mode = 8 ∨ p.mode = 9 then (if p.seg = 0 then 1 else p.seg.toNat) else p.seg.toNat

/-- The scaled index of a specifier's index parcel (R68). -/
def indexOf (c : Nat) (upd : AMap Word) (p : Spec) : M Nat := do
  let x := (p.xs.headD 0).toNat
  let g ← seeG c upd (bitsOf x 13 10)
  let sc := match bitsOf x 9 8 with | 0 => 1 | 1 => 4 | 2 => 8 | _ => 16
  return g.toNat * sc

/-- A specifier's effective address for an operand of `n` cells (R69): address and register updates. `i` is the operand number. -/
def evalEA (c i n : Nat) (p : Spec) (upd : AMap Word) : M (Nat × AMap Word) := do
  let r := p.reg.toNat
  let m36 := 2 ^ 36
  let pointer (a : Nat) : M Nat := do
    let rep : Rep := { opnd := i, seg := specSeg p, off := a % m36 }
    let loc ← memAccess c i (specSeg p) (a % m36) 4 .read
    return cellsNat (← readLoc c rep loc)
  match p.mode.toNat with
  | 1 => return ((← seeG c upd r).toNat, upd)
  | 2 | 3 => return (((← seeG c upd r).toNat + dispOf p.xs) % m36, upd)
  | 4 =>
    let g ← seeG c upd r
    return (g.toNat, upd.put r (BitVec.ofNat 36 (g.toNat + n)))
  | 5 =>
    let g ← seeG c upd r
    let v := BitVec.ofNat 36 (g.toNat + m36 - n)
    return (v.toNat, upd.put r v)
  | 6 => return (((← seeG c upd r).toNat + (← indexOf c upd p)) % m36, upd)
  | 7 => return (((← seeG c upd r).toNat + (← indexOf c upd p) + dispOf (p.xs.drop 1)) % m36, upd)
  | 8 => return (((← seeG c upd 15).toNat + (if p.ext = 0 then 4 * r else dispOf p.xs)) % m36, upd)
  | 9 => return (((← seeG c upd 14).toNat + (if p.ext = 0 then 4 * r else dispOf p.xs)) % m36, upd)
  | 10 => return (parcelsNat p.xs % m36, upd)
  | 11 => return (← pointer ((← seeG c upd r).toNat + dispOf p.xs), upd)
  | 12 =>
    let x ← indexOf c upd p
    let w ← pointer ((← seeG c upd r).toNat + dispOf (p.xs.drop 1))
    return ((w + x) % m36, upd)
  | _ => return (0, upd)

/-- Where a written operand stands. -/
inductive Dst where
  /-- The low-order `n` cells of G`r`, or the pair G`r`, G`r`+1 for a double word (R70). -/
  | g (r n : Nat)
  /-- F`r`. -/
  | f (r : Nat)
  | mem (loc : MemLoc) (rep : Rep)
  deriving DecidableEq, Repr

/-- A memory operand's checked location (R64). -/
def memOpd (c i n : Nat) (acc : Access) (p : Spec) (upd : AMap Word) : M (MemLoc × Rep × AMap Word) := do
  let (ea, upd) ← evalEA c i n p upd
  let loc ← memAccess c i (specSeg p) ea n acc
  return (loc, { opnd := i, seg := specSeg p, off := ea }, upd)

/-- The cells of a register-direct operand of `n` cells (R70). -/
def regCells (c r n : Nat) (upd : AMap Word) : M (List Cell) := do
  let a ← seeG c upd r
  if n = 8 then
    let b ← seeG c upd (r + 1)
    return wordCells a ++ wordCells b
  else return natCells n a.toNat

/-- The cells of a source operand of `n` cells: register, immediate, literal or memory (R69 to R71). -/
def srcCells (c i n : Nat) (p : Spec) (upd : AMap Word) : M (List Cell × AMap Word) := do
  match p.mode.toNat with
  | 0 => return (← regCells c p.reg.toNat n upd, upd)
  | 13 =>
    let v := if p.ext = 0 then p.reg.toNat
      else if p.seg = 1 then parcelsNat p.xs else wrap 72 (signed (14 * p.xs.length) (parcelsNat p.xs))
    return (natCells n v, upd)
  | 14 => return (natCells n (parcelsNat p.xs / 2 ^ (14 * p.ext.toNat - 9 * n)), upd)
  | _ =>
    let (loc, rep, upd) ← memOpd c i n .read p upd
    return (← readLoc c rep loc, upd)

/-- The value of a source operand of `n` cells. -/
def srcNat (c i n : Nat) (p : Spec) (upd : AMap Word) : M (Nat × AMap Word) := do
  let (cs, upd) ← srcCells c i n p upd
  return (cellsNat cs, upd)

/-- A written operand of `n` cells. -/
def dstOpd (c i n : Nat) (p : Spec) (upd : AMap Word) : M (Dst × AMap Word) := do
  if p.mode = 0 then return (.g p.reg.toNat n, upd)
  else
    let (loc, rep, upd) ← memOpd c i n .write p upd
    return (.mem loc rep, upd)

/-- A read-modify-write operand of `n` cells: its cells and where they stand. -/
def rmwOpd (c i n : Nat) (p : Spec) (upd : AMap Word) : M (List Cell × Dst × AMap Word) := do
  if p.mode = 0 then return (← regCells c p.reg.toNat n upd, .g p.reg.toNat n, upd)
  else
    let (loc, rep, upd) ← memOpd c i n .rmw p upd
    return (← readLoc c rep loc, .mem loc rep, upd)

/-! ## Writing results -/

/-- Commit the register updates of modes 4 and 5 (R72). -/
def commitUpd (c : Nat) : AMap Word → M Unit
  | [] => return ()
  | (r, v) :: t => do
    wrG c r v
    commitUpd c t

/-- The writes that put cells into a written operand, given the registers as they then stand (R70). -/
def dstWrites (k : Core) (dst : Dst) (cs : List Cell) : List Wr :=
  match dst with
  | .g r n =>
    if n = 8 then [.g k.bankNo r (cellsWord (cs.take 4)), .g k.bankNo (r + 1) (cellsWord (cs.drop 4))]
    else [.g k.bankNo r (BitVec.ofNat 36 ((k.gr r).toNat / 512 ^ n * 512 ^ n + cellsNat cs))]
  | .f r => [.f r (BitVec.ofNat 144 (cellsNat cs))]
  | .mem loc _ => [.mem loc cs]

/-- Perform a result write. -/
def applyWr (c : Nat) : Wr → M Unit
  | .g b r v => do
    if (← getCore c).gBusy b r then waitM
    modCore c fun k => k.setGAt b r v
  | .f r v => do
    if (← getCore c).fBusy r then waitM
    modCore c fun k => { k with f := k.f.put r v }
  | .mem loc cs => storeLoc c loc cs

/-- Perform result writes in order. -/
def applyWrs (c : Nat) : List Wr → M Unit
  | [] => return ()
  | w :: t => do
    applyWr c w
    applyWrs c t

/-- Write cells into a written operand. -/
def putDst (c : Nat) (dst : Dst) (cs : List Cell) : M Unit := do
  applyWrs c (dstWrites (← getCore c) dst cs)

/-- Whether a result write must wait for one already in flight (R312). -/
def wrBusy (k : Core) : Wr → Bool
  | .g b r _ => k.gBusy b r
  | .f r _ => k.fBusy r
  | .mem loc _ => loc.cells.any fun p => k.cellBusy p.addr

/-- Let an instruction run beside the pipe (R91): its writes and flags come when it completes. -/
def runBeside (c : Nat) (ws : List Wr) (sf : Nat) : M Unit := do
  let k ← getCore c
  if ws.any (wrBusy k) then waitM
  modCore c fun k => { k with beside := k.beside ++ [{ pc := k.pc, writes := ws, sf := BitVec.ofNat 8 sf, te := BitVec.ofNat 8 k.te }] }

end Sys2Proof.Machine
end

