-- ==== Sys2Proof/Machine/Flags.lean ====
section
/-!
DEFINITION. Sticky flags and trap enables (R54, R57): the computation of overflow at each width (R87, R89), the raising of
flags, and which trap an instruction takes (R86, R137, R174).
-/

namespace Sys2Proof.Machine

/-- Bit indexes within SF and TE (R54). -/
def fOV : Nat := 7
def fDZ : Nat := 6
def fDD : Nat := 5
def fFIV : Nat := 4
def fFDZ : Nat := 3
def fFOF : Nat := 2
def fFUF : Nat := 1
def fFIX : Nat := 0

/-- A set of flags as a number. -/
def flagBits (l : List (Nat × Bool)) : Nat := l.foldl (fun a p => if p.2 then a ||| 2 ^ p.1 else a) 0

/-- Raise sticky flags (R54). -/
def Core.raiseSf (k : Core) (sf : Nat) : Core := k.setStat 13 6 (k.sf ||| sf)

/-- The trap that raised flags take under the enables (R57, R86, R137, R174): divide-by-zero before overflow before decimal
data; the floating trap reports the highest flag. -/
def trapOf (te sf : Nat) : Option Exc :=
  let on (b : Nat) : Bool := bitOf te b && bitOf sf b
  if on fDZ then some { vec := 17 }
  else if on fOV then some { vec := 16 }
  else if on fDD then some { vec := 18 }
  else if on fFIV then some { vec := 19, src := fFIV }
  else if on fFDZ then some { vec := 19, src := fFDZ }
  else if on fFOF then some { vec := 19, src := fFOF }
  else if on fFUF then some { vec := 19, src := fFUF }
  else if on fFIX then some { vec := 19, src := fFIX }
  else none

/-- Whether an exact result does not fit `bits` bits, signed (R87). -/
def ovSigned (bits : Nat) (v : Int) : Bool := decide (v < -(2 ^ (bits - 1) : Nat)) || decide ((2 ^ (bits - 1) : Nat) ≤ v)

/-- Whether an exact unsigned result does not fit `bits` bits. -/
def ovUnsigned (bits v : Nat) : Bool := decide (2 ^ bits ≤ v)

/-- How an instruction ends: a taken transfer's target, the trap it takes after completing, whether the branch-target buffer
takes the transfer, and whether it has set the control state itself. -/
structure Done where
  jump : Option Nat := none
  trap : Option Exc := none
  btb : Bool := false
  final : Bool := false
  deriving DecidableEq, Repr

/-- Raise flags and choose the trap, with the enables in effect (R57). -/
def raiseFlags (c sf : Nat) : M (Option Exc) := do
  let k ← getCore c
  modCore c fun k => k.raiseSf sf
  return trapOf k.te sf

end Sys2Proof.Machine
end

