-- ==== Sys2Proof/Machine/Sched.lean ====
section
/-!
DEFINITION. The hardware task scheduler (R223 to R232): events, readiness, the choice of a slot, dispatch and the
bank-overflow trap; and which requests a core would accept (R199, R231).
-/

namespace Sys2Proof.Machine

/-- Whether R199 accepts a request of level `l`. -/
def Core.accepts (k : Core) (l : Nat) : Bool := decide (k.mlev < l) && decide (k.plev < l)

/-- Whether an event awaits the next boundary: a bank-overflow trap or a request that would be accepted (R214). -/
def Core.eventDue (k : Core) : Bool := (k.ovf.isSome && k.accepts 6) || k.reqs.any fun r => k.accepts r.level

/-- Whether core `c` is halted by debug (R523). -/
def Dev.halted (d : Dev) (c : Nat) : Bool := d.bit (offDBGC c) 1

/-- Whether the device runs at all: not dormant, not tripped, not reset (R496, R536, R493). -/
def Dev.active (d : Dev) : Bool := !d.board.dormant && !d.board.stopped

/-- Whether core `c` executes instructions now: it is up, not gated (R497), and has code to run. -/
def Dev.runs (d : Dev) (c : Nat) : Bool :=
  let k := d.core c
  d.active && k.started && !k.checkstop && !k.fenced && !k.idle && !k.microStall && !k.detWait &&
  !(k.posts.any (·.lockGc.isSome)) &&
  (decide (0 < k.plev) || k.runSlot.isSome) && !d.islandDown (c / 8) && !d.bit (offISLCLK (c / 8)) 9

/-- A slot turns ready (R225, R228). -/
def Core.turnReady (k : Core) (s : Nat) : Core :=
  { k.setSlot s { k.slot s with st := .ready, readyAt := k.readyClock } with readyClock := k.readyClock + 1 }

/-- Whether ready slot `a` is chosen before ready slot `b` (R228, R229). In deterministic mode a slot that turned ready by a write of CTL or
an RTE keeps the number of its last event, 0 if it had none, which the manual does not give (log entry 134, DESIGN CHOICE). -/
def slotBefore (det : Bool) (a b : Nat × Slot) : Bool :=
  if a.2.prio ≠ b.2.prio then decide (b.2.prio.toNat < a.2.prio.toNat)
  else if det then
    if a.2.evSeq ≠ b.2.evSeq then decide (a.2.evSeq < b.2.evSeq) else decide (a.1 < b.1)
  else if a.2.res ≠ b.2.res then a.2.res
  else decide (a.2.readyAt < b.2.readyAt)

/-- The best slot of a list. -/
def bestSlot (det : Bool) : List (Nat × Slot) → Option (Nat × Slot)
  | [] => none
  | a :: t =>
    match bestSlot det t with
    | none => some a
    | some b => some (if slotBefore det b a then b else a)

/-- The ready slots of a core. -/
def Core.ready (k : Core) : List (Nat × Slot) := k.slots.filter fun p => p.2.valid && p.2.st == .ready

/-- The resident slots in task bank `b`. -/
def Core.inBank (k : Core) (b : Nat) : List (Nat × Slot) :=
  k.slots.filter fun p => p.2.valid && p.2.res && p.2.bank.toNat == b

/-- The resident slot of the least SEQ (R231). -/
def leastSeq : List (Nat × Slot) → Option (Nat × Slot)
  | [] => none
  | a :: t =>
    match leastSeq t with
    | none => some a
    | some b => some (if b.2.seq.toNat < a.2.seq.toNat then b else a)

/-- What the bank-overflow trap announces for a non-resident slot: a free bank of its world, else the bank of the resident slot
of least SEQ that is not running; none when every bank holds the running or interrupted task (R231). Of several free banks the lowest is
taken, and of slots of equal SEQ the lowest (log entry 136, DESIGN CHOICE). -/
def Dev.overflowFor (d : Dev) (c : Nat) (s : Nat) (w : Bool) : Option Overflow :=
  let k := d.core c
  let banks := (upto 4).filter fun b => d.taskBankWorld c b == w
  match banks.find? fun b => (k.inBank b).isEmpty with
  | some b => some { slot := s, vict := 0, bank := b, spill := false }
  | none =>
    let vs := k.slots.filter fun p =>
      p.2.valid && p.2.res && p.2.st != .running && p.2.world == w && banks.contains p.2.bank.toNat
    (leastSeq vs).map fun v => { slot := s, vict := v.1, bank := v.2.bank.toNat, spill := true }

/-- Preemption is on (R216, R229): PREEMPT reads 0 in deterministic mode. -/
def Dev.preemptOn (d : Dev) (c : Nat) : Bool := d.bit (offSCHEDCFG c) 16 && !(d.core c).det

/-- The running task leaves the core: exposed distances end, and its PC and CSTAT go to its slot (R226, R228; log entry 22). -/
def Core.leave (k : Core) (st : SlotState) : Core :=
  match k.runSlot with
  | none => k
  | some s =>
    let k := k.flushExp
    { k.setSlot s { k.slot s with st := st, pc := k.pc, tstat := k.cstat } with runSlot := none, lastSlot := s, fresh := false }

/-- The sequence number that puts slot `s` behind every other ready slot of its PRIO (R226, R229). -/
def Core.lastSeq (k : Core) (s : Nat) : Nat :=
  (k.ready.filter fun p => p.2.prio == (k.slot s).prio).foldl (fun a p => Nat.max a (p.2.evSeq + 1)) (k.slot s).evSeq

/-- The running task yields (R226): its slot turns ready behind every other of equal PRIO. -/
def Core.yieldTask (k : Core) : Core :=
  match k.runSlot with
  | none => k
  | some s =>
    let k := (k.setSlot s { k.slot s with evSeq := k.lastSeq s }).leave .ready
    k.turnReady s

/-- Whether a ready slot of PRIO above the running task's pre-empts it (R228): one that is resident, or whose bank-overflow trap
could be taken (R231). -/
def Dev.preemptDue (d : Dev) (c : Nat) : Bool :=
  let k := d.core c
  match k.runSlot with
  | none => false
  | some r =>
    d.preemptOn c && k.plev == 0 && k.ready.any fun p =>
      decide ((k.slot r).prio.toNat < p.2.prio.toNat) &&
      (p.2.res || (k.accepts 6 && ((d.setCore c k.yieldTask).overflowFor c p.1 p.2.world).isSome))

/-- Whether an instruction command executes on core `c`: it runs, no event is due (R214) unless it is the first instruction of a
handler (R249), no pre-emption (R228) and no microcode load waits for it, unless an instruction with an outstanding read is to be
finished (R250), or it single-steps (R523). -/
def Dev.canRun (d : Dev) (c : Nat) : Bool :=
  let k := d.core c
  d.runs c && k.entry.isNone && (if d.halted c then k.stepArmed
    else (!(k.eventDue && !k.fresh) && !k.mcWait && !(d.preemptDue c && k.micro.isNone)) || !k.ext.isEmpty)

/-- Switch to a resident slot (R228): its PC and TSTAT, its bank, its SEQ. -/
def Dev.switchTo (d : Dev) (c s : Nat) : Dev :=
  let k := d.core c
  let x := k.slot s
  let k := { (k.setSlot s { x with st := .running, seq := k.dcount + 1 }).loadStat d.lockMode x.tstat.toNat with
    runSlot := some s, lastSlot := s, taskBank := x.bank.toNat, dcount := k.dcount + 1, pc := x.pc, ovf := none, micro := none, ext := [],
    strDone := 0 }
  ((d.setCore c k).formXav c).trace c 4 s x.pc

/-- Dispatch at PLEV 0 when no task runs and no event is due (R214, R228, R231): the best ready slot, by a switch when it is
resident, else by raising the bank-overflow trap; while level 6 is masked, other resident ready slots may be chosen, and what the
waiting trap announces is then formed again for the bank that the running task takes. -/
def Dev.dispatch (d : Dev) (c : Nat) : Dev :=
  let k := d.core c
  if k.plev ≠ 0 ∨ k.runSlot.isSome ∨ !d.active ∨ d.halted c ∨ k.eventDue then d
  else
    match bestSlot k.det k.ready with
    | none => d
    | some (s, x) =>
      if x.res then d.switchTo c s
      else
        match d.overflowFor c s x.world with
        | some o =>
          let d := d.setCore c { k with ovf := some o }
          if k.accepts 6 then d
          else match bestSlot k.det (k.ready.filter (·.2.res)) with
            | some (r, _) => let d := d.switchTo c r; d.updCore c fun k => { k with ovf := d.overflowFor c s x.world }
            | none => d
        | none =>
          match bestSlot k.det (k.ready.filter (·.2.res)) with
          | some (r, _) => d.switchTo c r
          | none => d

/-- An idle core sees a request that it would accept, or at PLEV 0 a ready slot: IDLE completes (R230). -/
def Dev.wakeIdle (d : Dev) (c : Nat) : Dev :=
  let k := d.core c
  if !k.idle then d.dispatch c
  else if k.eventDue then d.setCore c { k with idle := false }
  else if k.plev = 0 ∧ !k.ready.isEmpty then (d.setCore c { k.yieldTask with idle := false }).dispatch c
  else d

/-- An event for a slot (R225): its bit of EVPEND, readiness when awaited; discarded and recorded for a slot that is free or
not VALID. -/
def Dev.schedEvent (d : Dev) (c s ev seq : Nat) : Dev :=
  let k := d.core c
  let x := k.slot s
  if !x.valid || x.st == .free then d.logEvent 0x17 1 c 0 0 (s * 256 + ev)
  else
    let x := { x with evpend := x.evpend ||| BitVec.ofNat 5 (2 ^ ev) }
    let k := k.setSlot s x
    if x.st == .blocked && x.evpend &&& x.evmask != 0 then
      let k := (k.setSlot s { x with evSeq := seq }).turnReady s
      (d.setCore c k).wakeIdle c
    else d.setCore c k

/-- A posting of slot `s` has been acknowledged: its count falls, and at 0 the posting completion event is raised (R312). -/
def Dev.postDone (d : Dev) (c s : Nat) : Dev :=
  let k := d.core c
  let x := k.slot s
  let d := d.setCore c (k.setSlot s { x with posts := x.posts - 1 })
  if x.posts = 1 then d.schedEvent c s 2 d.now else d

end Sys2Proof.Machine
end

