-- ==== Sys2Proof/Machine/Run.lean ====
section
/-!
DEFINITION. How a core instruction runs: the checks before its body (R48, R65, R78, R211), its body, then the loop-back check
(R101), the exposed distances (R80), the program counter, and the trap or fault that it takes (R212 to R214).
-/

namespace Sys2Proof.Machine

/-- Lift an effect on the device to a command's outcome: the time base is latched for the command, and nothing stops. -/
def onDev (f : Dev → Dev) (s : State) : Host.Outcome State Fault Refusal :=
  .next { s with dev := f { s.dev with now := s.fum.time } }

/-- What a line buffer raises when an instruction needs a parcel of it: its fetch fault (R48, R238), or the machine check of poisoned
cells (R472, R213). -/
def LineBuf.exc (b : LineBuf) : Option Exc :=
  match b.fault with
  | some f => some { vec := 6, cause := f.cause, opnd := 15, stage := f.stage, wlev := f.lev, lin := 64 * b.line }
  | none => if b.poison then some { vec := 41, opnd := 15, info1 := 64 * b.line % 2 ^ 36, lin := 64 * b.line } else none

/-- A line buffer that is used becomes the most recently used (R238). -/
def Core.useLine (k : Core) (world : Bool) (line : Nat) : Core :=
  match k.lbuf.find? fun b => b.world == world && b.line == line with
  | some b => { k with lbuf := b :: k.lbuf.filter fun x => !(x.world == world && x.line == line) }
  | none => k

/-- An instruction of `n` parcels at `pc` uses the line buffers that hold it. -/
def Core.useLines (k : Core) (pc n : Nat) : Core :=
  (k.useLine k.world (pc / 32)).useLine k.world ((pc + n - 1) % 2 ^ 36 / 32)

/-- The event kept with a line buffer that holds a parcel of the instruction (R48, R238): that of the first of its lines. -/
def Core.fetchFault (k : Core) (pc : Nat) : Nat → Option Exc
  | 0 => none
  | n + 1 =>
    match k.lbuf.find? fun b => b.world == k.world && b.line == pc / 32 && b.exc.isSome with
    | some b => b.exc
    | none => Core.fetchFault k ((pc + 1) % 2 ^ 36) n

/-- Opcodes with micro-trap points (R124, R165): DMUL, DDIV, ZMUL, ZDIV, EDIT, EDTM. -/
def microOp (op : Nat) : Bool := [0o102, 0o103, 0o132, 0o133, 0o151, 0o152].contains op

/-- The check cell of a micro-state agrees with the instruction and the control store (R211). -/
def microOk (k : Core) (op : Nat) (u : Micro) : Bool :=
  microOp op && Config.checkCell op u.upc u.u0 u.u1 u.u2 u.u3 k.csgen == u.ck

/-- The checks made before an instruction's own: the check cell of a resumed micro-state (R211), fetch faults (R48), which end with
their line buffer once raised (log entry 40), and the length limit (R65). -/
def frontChecks (x : Ins) : M Unit := do
  let k ← getCore x.c
  match k.micro with
  | some u => need (microOk k x.op u) { vec := 10, cause := 1 }
  | none => pure ()
  match k.fetchFault k.pc.toNat (Nat.min x.len 10) with
  | some e => do
    modCore x.c fun k => { k with lbuf := k.lbuf.filter fun b => !(b.world == k.world && 64 * b.line == e.lin) }
    raiseE e
  | none => pure ()
  need (decide (x.len ≤ 10)) illegal

/-- The loop-back check after an instruction at `pc` whose successor is `n` (R101): the bank's loop registers and the next PC. -/
def loopBack (b : Bank) (pc n : Nat) : Bank × Nat :=
  if b.dep ≠ 0 ∧ pc < b.cur.exit.toNat ∧ b.cur.exit.toNat ≤ n then
    if 1 < b.cur.rem.toNat then ({ b with cur := { b.cur with rem := b.cur.rem - 1 } }, b.cur.top.toNat)
    else (b.popLoop, n)
  else (b, n)

/-- Allocate or train a branch-target buffer entry for a taken transfer (R240). -/
def btbTaken (l : List BtbEntry) (world : Bool) (pc target : Word) : List BtbEntry :=
  let same (e : BtbEntry) : Bool := e.pc == pc && e.world == world
  let ctr := match l.find? same with
    | some e => BitVec.ofNat 2 (satNat (e.ctr.toNat + 1) 3)
    | none => 2
  { pc := pc, world := world, target := target, ctr := ctr } :: l.filter fun e => e.pc.toNat % 512 != pc.toNat % 512

/-- The end of an instruction is a point at which the core halts: after a single step, or when HALT is 1 (R523). -/
def Dev.endStep (d : Dev) (c : Nat) : Dev :=
  let k := d.core c
  if k.stepArmed || d.bit (offDBGC c) 0 then (d.setCore c { k with stepArmed := false }).setBit (offDBGC c) 1 true else d

/-- Wait until no instruction runs beside the pipe: its results and flags come first (R91, R180). -/
def besideIdle (c : Nat) : M Unit := do
  if !(← getCore c).beside.isEmpty then waitM

/-- Take an instruction's event once the instructions beside the pipe have written their results. -/
def takeEvent (c : Nat) (e : Exc) (fpc next : Word) : M Unit := do
  besideIdle c
  takeExc c e fpc next

/-- Finish an instruction that runs beside the pipe, or that blocks it in deterministic mode (R91, R251). -/
def besideOr (c : Nat) (ws : List Wr) (sf : Nat) : M Done := do
  if (← getCore c).det then
    applyWrs c ws
    return { trap := ← raiseFlags c sf }
  else
    runBeside c ws sf
    return {}

/-- A request that core `c` would accept, at the core or on its way to it: what an interruptible instruction stops for at an
acceptance point (R145, R124; log entry 23). In the first instruction of a handler none is accepted (R249). -/
def Dev.pointDue (d : Dev) (c : Nat) : Bool :=
  !(d.core c).fresh && ((d.core c).eventDue || d.irqNet.any fun r => r.1 == c && (d.core c).accepts r.2.level)

/-- What an instruction that keeps its state in registers stops for at a 64-cell point: a request (R145), or a pre-emption (R228). -/
def Dev.strDue (d : Dev) (c : Nat) : Bool := d.pointDue c || d.preemptDue c

/-- Completion of an instruction of length `len`: loop-back or transfer, distances, PC, then its trap. -/
def complete (c len : Nat) (r : Done) : M Unit := do
  if r.final then return ()
  let k ← getCore c
  let pc := k.pc
  let n := (pc.toNat + len) % 2 ^ 36
  match r.jump with
  | some t =>
    let tw := BitVec.ofNat 36 t
    let dead := (← get).hub.fenced.any fun u => match u with
      | .coreEntry x .btbEntry n => x.val == c && n == pc.toNat % 512
      | _ => false
    modCore c fun k =>
      let k := { k.countExp.useLines pc.toNat len with pc := tw, ext := [], micro := none, fresh := false, strDone := 0 }
      if r.btb && !k.det && !dead then { k with btb := btbTaken k.btb k.world pc tw } else k
    modify fun d => d.trace c 1 0 tw
  | none =>
    let (b, n') := loopBack k.bank pc.toNat n
    modCore c fun k =>
      let k := ((k.setBank k.bankNo b).countExp).useLines pc.toNat len
      { k with pc := BitVec.ofNat 36 n', ext := [], micro := none, fresh := false, strDone := 0 }
  match r.trap with
  | none => return ()
  | some e => do
    let next := (← getCore c).pc
    takeEvent c e pc next

/-- Run an instruction on a device: it waits with nothing changed, or completes, or takes its event. -/
def runInstr (x : Ins) (body : M Done) (d : Dev) : Dev :=
  if !d.canRun x.c then d
  else
    let act : M Unit := do
      frontChecks x
      let r ← body
      complete x.c x.len r
    match act d with
    | (.ok (), d') => d'.endStep x.c
    | (.error .wait, _) => d
    | (.error .hold, d') => d'
    | (.error (.exc e), d') =>
      let pc := (d'.core x.c).pc
      match takeEvent x.c e pc pc d' with
      | (.ok (), d'') => (d''.updCore x.c fun k => { k with ext := [] }).endStep x.c
      | (.error .hold, d'') => d''
      | (.error _, _) => d

/-- An instruction command as an outcome. -/
def instr (x : Ins) (body : M Done) (s : State) : Host.Outcome State Fault Refusal := onDev (runInstr x body) s

/-- Raise the privilege fault unless the core runs at supervisor level (R77). -/
def needSup (c : Nat) : M Unit := do need ((← getCore c).sup) privilege

/-- Raise the privilege fault unless the core runs in CS (R77). -/
def needCS (c : Nat) : M Unit := do
  let k ← getCore c
  need (k.sup && k.world) privilege

/-- Raise FP-unavailable unless the extended state belongs to the running code (R52). -/
def needFP (c : Nat) : M Unit := do
  let x := (← get).xown c
  need ((← getCore c).xav) { vec := 3, info1 := x }

end Sys2Proof.Machine
end

