-- ==== Sys2Proof/Machine/Control.lean ====
section
/-!
DEFINITION. Control instructions (chapters 3, 4 and 8): NOP, the fences, IFLUSH, SVC, SRET, RTE, control registers, bank
registers, segment loads, branches, calls, loops, translation invalidation, and the task and system instructions TWAIT, TSIG,
TBRD, TSLOT and IDLE.
-/

namespace Sys2Proof.Machine

/-! ## Shared parts -/

/-- Whether the unit that performs a posting of core `c` has applied it (R316). -/
def Dev.postAccepted (d : Dev) (p : CorePost) : Bool :=
  (d.ackNet.any (·.id == p.id)) || (d.pus.any fun u => u.2.applied.any (·.p.id == p.id)) ||
  (d.islands.any fun i => i.2.atomDone.any (·.p.id == p.id))

/-- Whether the twin has acknowledged record `n`, or the pair state asks for no such acknowledgement (R429). -/
def Dev.twinHas (d : Dev) (n : Nat) : Bool :=
  let st := d.fld offSNSTAT 31 28
  let mode := d.fld offSNCFG 1 0
  !((st == 1 || st == 2) && (mode == 1 || mode == 3)) || decide (n ≤ d.rd offSNACK)

/-- Wait until every earlier store of the core is visible (R316, R349). -/
def storesVisible (c : Nat) : M Unit := do
  if (← getCore c).beside.any fun b => b.writes.any fun w => match w with | .mem _ _ => true | _ => false then waitM
  drainAll c
  if (← get).regBusy c then waitM

/-- The waits of FENCE (R316). -/
def fenceWait (c : Nat) : M Unit := do
  storesVisible c
  let d ← get
  if (d.core c).posts.any fun p => !d.postAccepted p then waitM

/-- Continue at `pc` after an instruction that replaces control state (R101). -/
def transferTo (c kind arg : Nat) (pc : Word) : M Unit := do
  modCore c fun k => { k.useLines k.pc.toNat 1 with pc := pc, ext := [], micro := none, fresh := false }
  modify fun d => d.trace c kind arg pc

/-- Exchange G15 with the world's SCE_SP (R106, R107). -/
def Core.swapStack (k : Core) : Core :=
  let w := k.wr k.world
  (k.setG 15 w.sceSp).setWr k.world { w with sceSp := k.gr 15 }

/-! ## NOP, fences, IFLUSH -/

/-- NOP (R73). -/
def execNop (c : CoreId) (ob : BitVec 6) : State → Host.Outcome State Fault Refusal :=
  instr { c := c, op := 0o001, ob := ob.toNat } do
    need (ob == 0) illegal
    return {}

/-- FENCE (R316, R80). Its own loop-back check, as that of FENCE.P, IFLUSH and TLBSYNC, uses the loop registers that it makes current: the
manual says this of later instructions only (log entry 132, DESIGN CHOICE). -/
def execFence (c : CoreId) (ob : BitVec 6) : State → Host.Outcome State Fault Refusal :=
  instr { c := c, op := 0o002, ob := ob.toNat } do
    need (ob == 0) illegal
    fenceWait c
    modCore c Core.flushExp
    return {}

/-- FENCE.P (R317, R429). -/
def execFenceP (c : CoreId) (ob : BitVec 6) : State → Host.Outcome State Fault Refusal :=
  instr { c := c, op := 0o003, ob := ob.toNat } do
    need (decide (ob.toNat < 2)) illegal
    storesVisible c
    let d ← get
    if !(d.core c).posts.isEmpty || (ob == 1 && !d.twinHas (d.core c).twinSeq) then waitM
    modCore c Core.flushExp
    return {}

/-- IFLUSH (R246). -/
def execIflush (c : CoreId) (ob : BitVec 6) : State → Host.Outcome State Fault Refusal :=
  instr { c := c, op := 0o004, ob := ob.toNat } do
    need (ob == 0) illegal
    if !(← getCore c).beside.isEmpty then waitM
    modCore c fun k => { k.flushExp with lbuf := [], btb := [] }
    return {}

/-! ## SVC, SRET, RTE -/

/-- SVC (R106). -/
def execSvc (c : CoreId) (ob : BitVec 6) : State → Host.Outcome State Fault Refusal :=
  instr { c := c, op := 0o005, ob := ob.toNat } do
    need (ob == 0 && !(← getCore c).sup) illegal
    besideIdle c
    let _ ← rdG c 15
    modCore c fun k =>
      let k := k.flushExp
      let k := k.setWr k.world { k.wr k.world with lnk := k.pc + 1, sstat := k.cstat }
      k.swapStack.setStat 34 34 1
    let k ← getCore c
    transferTo c 1 0 (k.wr k.world).scePc
    return { final := true }

/-- SRET (R107, R108). -/
def execSret (c : CoreId) (ob : BitVec 6) : State → Host.Outcome State Fault Refusal :=
  instr { c := c, op := 0o006, ob := ob.toNat } do
    need (ob == 0) illegal
    needSup c
    let k ← getCore c
    let s := (k.wr k.world).sstat.toNat
    need (bitOf s 35 == k.world && bitsOf s 33 31 == k.plev) privilege
    need (decide (bitsOf s 24 22 ≤ 4)) illegal
    besideIdle c
    let _ ← rdG c 15
    let lock := (← get).lockMode
    modCore c fun k =>
      let k := k.flushExp.swapStack
      k.loadStat lock (setBits s 25 25 (flagNat k.xav))
    let k ← getCore c
    transferTo c 1 0 (k.wr k.world).lnk
    return { final := true }

/-- The frame checks of RTE after its reads (R209): the first failing one. -/
def rteCheck (k : Core) (ws : List Word) : Option Exc :=
  let h := (ws.getD 0 0).toNat
  let st := (ws.getD 2 0).toNat
  let sl := (ws.getD 8 0).toNat
  let slot := bitsOf sl 6 0
  let upc := (ws.getD 12 0).toNat
  let plev := bitsOf st 33 31
  if decide (2 ≤ bitsOf h 35 34) || bitsOf h 21 0 != 0 || bitsOf sl 35 10 != 0 || bitOf sl 7 ||
      (bitsOf h 35 34 == 1 && bitsOf upc 35 13 != 0) || (plev == 0 && !(decide (slot < 64) && (k.slot slot).valid)) ||
      (plev == 7 && !bitOf st 35) then some { vec := 8, cause := 2 }
  else if (!k.world && bitOf st 35) || decide (k.plev < plev) then some privilege
  else if 4 < bitsOf st 24 22 then some illegal
  else none

/-- Restore an accepted frame (R210, R211). -/
def rteRestore (c : Nat) (base : Nat) (ws : List Word) : M Unit := do
  let lock := (← get).lockMode
  let fmt1 := bitsOf (ws.getD 0 0).toNat 35 34 == 1
  let st := ws.getD 2 0
  let spc := ws.getD 1 0
  let n := if fmt1 then 18 else 12
  modCore c fun k =>
    let k := k.flushExp
    let k := (k.setG 15 (BitVec.ofNat 36 (base + 4 * n))).loadStat lock st.toNat
    { k.useLines k.pc.toNat 1 with
             pc := spc, ext := [], fresh := false,
             micro := if fmt1 then
               some { upc := BitVec.ofNat 13 (ws.getD 12 0).toNat, u0 := ws.getD 13 0, u1 := ws.getD 14 0, u2 := ws.getD 15 0,
                      u3 := ws.getD 16 0, ck := BitVec.ofNat 9 (ws.getD 17 0).toNat } else none }
  modify fun d => d.trace c 3 0 spc
  let k ← getCore c
  if k.plev = 0 then
    let s := bitsOf (ws.getD 8 0).toNat 6 0
    let x := { k.slot s with pc := spc, tstat := st }
    if x.valid && x.st == .running && x.res then
      modCore c fun k => { k.setSlot s x with runSlot := some s, lastSlot := s, taskBank := x.bank.toNat }
      modify fun d => d.formXav c
    else
      modCore c fun k =>
        let k := { k.setSlot s x with runSlot := none, lastSlot := s }
        if x.valid && x.st == .running then k.turnReady s else k
      modify fun d => (d.formXav c).dispatch c
  else modify fun d => d.formXav c

/-- RTE (R209 to R211). -/
def execRte (c : CoreId) (ob : BitVec 6) : State → Host.Outcome State Fault Refusal :=
  instr { c := c, op := 0o007, ob := ob.toNat } do
    need (ob == 0) illegal
    needSup c
    besideIdle c
    let base := (← rdG c 15).toNat
    let rep : Rep := { opnd := 0, seg := 1, off := base }
    let loc ← memAccess c 0 1 base 48 .read
    let ws := cellsWords (← readLoc c rep loc)
    let ws ← if bitsOf (ws.getD 0 0).toNat 35 34 = 1 then do
        let loc ← memAccess c 0 1 base 72 .read
        pure (cellsWords (← readLoc c rep loc))
      else pure ws
    match rteCheck (← getCore c) ws with
    | some e => raiseE e
    | none => rteRestore c base ws
    return { final := true }

/-! ## Control registers (R58) -/

/-- Whether control register `num` exists with one copy for each world. -/
def ctlPerWorld (num : Nat) : Bool := [1, 3, 4, 5, 6, 13, 14, 15].contains num

/-- Whether user level may read, or write, control register `num`. -/
def ctlUser (num : Nat) (write : Bool) : Bool := [0, 7, 8, 9, 10, 11, 12].contains num || (!write && (num == 1 || num == 16))

/-- The value of control register `num`, of world `w` where the register has two copies. -/
def Core.ctl (k : Core) (c num : Nat) (w : Bool) : Word :=
  let r := k.wr w
  match num with
  | 0 => k.cstat
  | 1 => BitVec.ofNat 36 r.pkr.toNat
  | 2 => BitVec.ofNat 36 k.bwin.toNat
  | 3 => r.scePc
  | 4 => r.sceSp
  | 5 => r.lnk
  | 6 => r.sstat
  | 7 => k.vcfg
  | 8 => k.vresume
  | 9 => k.bank.cur.top
  | 10 => k.bank.cur.exit
  | 11 => k.bank.cur.rem
  | 12 => BitVec.ofNat 36 k.bank.dep.toNat
  | 13 => r.sdtb
  | 14 => BitVec.ofNat 36 r.sdtl.toNat
  | 15 => r.hdtb
  | 16 => BitVec.ofNat 36 c
  | _ => 0

/-- Largest AVL for an element width (R182). -/
def avlMax (ew : Nat) : Nat := match ew with | 0 => 64 | 1 => 32 | 2 => 16 | _ => 8

/-- VCFG after an MTC of `v` (R183). -/
def vcfgOf (v : Nat) : Word :=
  let ew := bitsOf v 35 34
  BitVec.ofNat 36 (ew * 2 ^ 34 + 16 * 2 ^ 16 + Nat.min (bitsOf v 15 0) (avlMax ew))

/-- Hold back a write for `n` later instructions (R80). -/
def Core.expose (k : Core) (n : Nat) (w : ExpWrite) : Core := { k with exposed := k.exposed ++ [{ left := n + 1, w := w }] }

/-- CSTAT after an MTC of `v` by the running code, TE apart (R54, R56). -/
def Core.mtcStat (k : Core) (lock : Bool) (v : Nat) : Core :=
  let st := setBits (setBits (setBits k.cstat.toNat 27 27 (bitsOf v 27 27)) 24 22 (bitsOf v 24 22)) 13 6 (bitsOf v 13 6)
  let st := if k.sup then setBits (setBits st 30 28 (bitsOf v 30 28)) 26 26 (bitsOf v 26 26) else st
  k.loadStat lock st

/-- Write control register `num`, of world `w` where the register has two copies (R58, R79, R81). -/
def Core.setCtl (k : Core) (lock : Bool) (num : Nat) (w : Bool) (v : Nat) : Core :=
  let r := k.wr w
  let x := BitVec.ofNat 36 v
  match num with
  | 0 => (k.mtcStat lock v).expose 2 (.te (BitVec.ofNat 8 (bitsOf v 21 14)))
  | 1 => k.expose 3 (.pkr w (BitVec.ofNat 32 v))
  | 2 => { k with bwin := BitVec.ofNat 4 v }
  | 3 => k.setWr w { r with scePc := x }
  | 4 => k.setWr w { r with sceSp := x }
  | 5 => k.setWr w { r with lnk := x }
  | 6 => k.setWr w { r with sstat := x }
  | 7 => k.expose 4 (.vcfg (vcfgOf v))
  | 8 => { k with vresume := BitVec.ofNat 36 (v % 2 ^ 16) }
  | 9 => k.expose 2 (.loopReg k.bankNo 24 x)
  | 10 => k.expose 2 (.loopReg k.bankNo 25 x)
  | 11 => k.expose 2 (.loopReg k.bankNo 26 x)
  | 12 => k.expose 2 (.loopReg k.bankNo 27 x)
  | 13 => k.setWr w { r with sdtb := x }
  | 14 => k.setWr w { r with sdtl := BitVec.ofNat 17 v }
  | 15 => k.setWr w { r with hdtb := x }
  | _ => k

/-- MFC (R58). -/
def execMfc (c : CoreId) (ob : BitVec 6) (d : Spec) : State → Host.Outcome State Fault Refusal :=
  instr { c := c, op := 0o010, ob := ob.toNat, specs := [d] } do
    let num := ob.toNat
    need (decide (num ≤ 16) && okIntDst 4 d) illegal
    need (ctlUser num false || (← getCore c).sup) privilege
    if num = 7 ∨ num = 8 then needFP c
    if num = 0 then besideIdle c
    let (dst, upd) ← dstOpd c 1 4 d []
    let k ← getCore c
    let v := k.ctl c num k.world
    commitUpd c upd
    putDst c dst (wordCells v)
    return {}

/-- MTC (R58, R56). -/
def execMtc (c : CoreId) (ob : BitVec 6) (a : Spec) : State → Host.Outcome State Fault Refusal :=
  instr { c := c, op := 0o011, ob := ob.toNat, specs := [a] } do
    let num := ob.toNat
    need (decide (num ≤ 15) && okIntSrc 4 a) illegal
    need (ctlUser num true || (← getCore c).sup) privilege
    if num = 7 ∨ num = 8 then needFP c
    if num = 0 then besideIdle c
    let (v, upd) ← srcNat c 1 4 a []
    need (!(num == 12 && decide (4 < v)) && !(num == 0 && decide (4 < bitsOf v 24 22))) illegal
    commitUpd c upd
    let lock := (← get).lockMode
    modCore c fun k => k.setCtl lock num k.world v
    return {}

/-- MFCW (R58). -/
def execMfcw (c : CoreId) (ob : BitVec 6) (d : Spec) : State → Host.Outcome State Fault Refusal :=
  instr { c := c, op := 0o012, ob := ob.toNat, specs := [d] } do
    need (ctlPerWorld ob.toNat && okIntDst 4 d) illegal
    needCS c
    let (dst, upd) ← dstOpd c 1 4 d []
    let v := (← getCore c).ctl c ob.toNat false
    commitUpd c upd
    putDst c dst (wordCells v)
    return {}

/-- MTCW (R58). -/
def execMtcw (c : CoreId) (ob : BitVec 6) (a : Spec) : State → Host.Outcome State Fault Refusal :=
  instr { c := c, op := 0o013, ob := ob.toNat, specs := [a] } do
    need (ctlPerWorld ob.toNat && okIntSrc 4 a) illegal
    needCS c
    let (v, upd) ← srcNat c 1 4 a []
    commitUpd c upd
    modCore c fun k => k.setCtl false ob.toNat false v
    return {}

/-! ## Bank registers (R53, R215) -/

/-- World of register bank `b` (R215, R216). -/
def Dev.bankWorld (d : Dev) (c b : Nat) : Bool := if b < 4 then d.taskBankWorld c b else d.levelWorld c (b - 3)

/-- The checks of MFB and MTB before their operand: BWIN, number, supervisor level, world of the bank. Answers the bank. -/
def bankOf (c num : Nat) (ok : Bool) : M Nat := do
  let k ← getCore c
  let b := k.bwin.toNat
  need (decide (b ≤ 10) && decide (num ≤ 36) && ok) illegal
  needSup c
  need (k.world || !(← get).bankWorld c b) privilege
  return b

/-- MFB (R53, R312). -/
def execMfb (c : CoreId) (ob : BitVec 6) (d : Spec) : State → Host.Outcome State Fault Refusal :=
  instr { c := c, op := 0o014, ob := ob.toNat, specs := [d] } do
    let num := ob.toNat
    let b ← bankOf c num (okIntDst 4 d)
    let (dst, upd) ← dstOpd c 1 4 d []
    let k ← getCore c
    if num < 16 && k.gBusy b num then waitM
    let v := if num < 16 then k.gAt b num
      else if num < 24 then BitVec.ofNat 36 (k.segAt b (num - 16)).sel.toNat
      else (k.bankAt b).loopReg num
    commitUpd c upd
    putDst c dst (wordCells v)
    return {}

/-- MTB (R53, R79, R215): the loop-stack entries, which R79 does not list, change at once (R81). -/
def execMtb (c : CoreId) (ob : BitVec 6) (a : Spec) : State → Host.Outcome State Fault Refusal :=
  instr { c := c, op := 0o015, ob := ob.toNat, specs := [a] } do
    let num := ob.toNat
    let b ← bankOf c num (okIntSrc 4 a)
    let (v, upd) ← srcNat c 1 4 a []
    need (!(num == 27 && decide (4 < v))) illegal
    let k ← getCore c
    let cur := b == k.bankNo && !(decide (28 ≤ num))
    if num < 16 then
      commitUpd c upd
      if (← getCore c).gBusy b num then waitM
      modCore c fun k => k.setGAt b num (BitVec.ofNat 36 v)
    else if num < 24 then
      let r ← loadSeg c k.world false v { opnd := 1, seg := num - 16 }
      commitUpd c upd
      modCore c fun k => if cur then k.expose 3 (.seg b (num - 16) r) else k.setSegAt b (num - 16) r
    else
      commitUpd c upd
      modCore c fun k =>
        if cur then k.expose 2 (.loopReg b num (BitVec.ofNat 36 v))
        else k.setBank b ((k.bankAt b).setLoopReg num (BitVec.ofNat 36 v))
    return {}

/-! ## Segment registers (R61) -/

/-- LSEG (R61, R79). -/
def execLseg (c : CoreId) (ob : BitVec 6) (a : Spec) : State → Host.Outcome State Fault Refusal :=
  instr { c := c, op := 0o016, ob := ob.toNat, specs := [a] } do
    need (decide (ob.toNat < 8) && okIntSrc 4 a) illegal
    let (v, upd) ← srcNat c 1 4 a []
    let k ← getCore c
    let r ← loadSeg c k.world (!k.sup) v { opnd := 1, seg := ob.toNat }
    commitUpd c upd
    modCore c fun k => k.expose 3 (.seg k.bankNo ob.toNat r)
    return {}

/-- SSEG (R61). -/
def execSseg (c : CoreId) (ob : BitVec 6) (d : Spec) : State → Host.Outcome State Fault Refusal :=
  instr { c := c, op := 0o017, ob := ob.toNat, specs := [d] } do
    need (decide (ob.toNat < 8) && okIntDst 4 d) illegal
    let (dst, upd) ← dstOpd c 1 4 d []
    let k ← getCore c
    commitUpd c upd
    putDst c dst (natCells 4 (k.segAt k.bankNo ob.toNat).sel.toNat)
    return {}

/-! ## Branches (R98, R99) -/

/-- Bits 1:0 of the opcode parcel give the number of in-line parcels, 1 to 3 (R76). -/
def inlOk (ob : BitVec 6) (ps : List Parcel) : Bool := ob.toNat % 4 != 0 && ps.length == ob.toNat % 4

/-- The target of a displacement from the opcode parcel at `pc` (R98). -/
def relTarget (pc : Word) (ps : List Parcel) : Nat := (pc.toNat + dispOf ps) % 2 ^ 36

/-- Train the branch-target buffer on a branch that falls through (R240). -/
def Core.btbFall (k : Core) : Core :=
  { k with btb := k.btb.map fun e =>
      if e.pc = k.pc ∧ e.world = k.world then { e with ctr := BitVec.ofNat 2 (e.ctr.toNat - 1) } else e }

/-- A conditional branch on G`t`, taken when `p` holds of it. -/
def branchIf (c : Nat) (ob : BitVec 6) (ps : List Parcel) (p : Word → Bool) : M Done := do
  need (inlOk ob ps) illegal
  let g ← rdG c (ob.toNat / 4)
  if p g then return { jump := some (relTarget (← getCore c).pc ps), btb := true }
  modCore c Core.btbFall
  return {}

/-- BR (R98). -/
def execBr (c : CoreId) (ob : BitVec 6) (ps : List Parcel) : State → Host.Outcome State Fault Refusal :=
  instr { c := c, op := 0o020, ob := ob.toNat, inl := ps } do
    need (decide (ob.toNat < 4) && inlOk ob ps) illegal
    return { jump := some (relTarget (← getCore c).pc ps), btb := true }

/-- BZ (R98). -/
def execBz (c : CoreId) (ob : BitVec 6) (ps : List Parcel) : State → Host.Outcome State Fault Refusal :=
  instr { c := c, op := 0o021, ob := ob.toNat, inl := ps } (branchIf c ob ps (· == 0))

/-- BNZ (R98). -/
def execBnz (c : CoreId) (ob : BitVec 6) (ps : List Parcel) : State → Host.Outcome State Fault Refusal :=
  instr { c := c, op := 0o022, ob := ob.toNat, inl := ps } (branchIf c ob ps (· != 0))

/-- JMP (R99). -/
def execJmp (c : CoreId) (ob : BitVec 6) (a : Spec) : State → Host.Outcome State Fault Refusal :=
  instr { c := c, op := 0o023, ob := ob.toNat, specs := [a] } do
    need (ob == 0 && okIntSrc 4 a) illegal
    let (v, upd) ← srcNat c 1 4 a []
    commitUpd c upd
    return { jump := some v, btb := true }

/-! ## CALL and RET (R104, R105) -/

/-- The registers that a mask names, lowest first. -/
def maskRegs (m : Nat) : List Nat := (upto 15).filter fun i => bitOf m i

/-- Read the registers of a list. -/
def readRegs (c : Nat) : List Nat → M (List Word)
  | [] => return []
  | r :: t => do
    let v ← rdG c r
    let vs ← readRegs c t
    return v :: vs

/-- Write the registers of a list. -/
def writeRegs (c : Nat) : List (Nat × Word) → M Unit
  | [] => return ()
  | (r, v) :: t => do
    wrG c r v
    writeRegs c t

/-- CALL (R104). -/
def execCall (c : CoreId) (ob : BitVec 6) (mask : Parcel) (ps : List Parcel) : State → Host.Outcome State Fault Refusal :=
  let x : Ins := { c := c, op := 0o024, ob := ob.toNat, lp := [mask], inl := ps }
  instr x do
    let m := ob.toNat / 16 * 2 ^ 14 + mask.toNat
    need (bitsOf ob.toNat 3 2 == 0 && inlOk ob ps && !bitOf m 15) illegal
    let rs := maskRegs m
    let n := 4 * (2 + rs.length)
    let pc := (← getCore c).pc
    let base := ((← rdG c 15).toNat + 2 ^ 36 - n) % 2 ^ 36
    let loc ← memAccess c 0 1 base n .write
    let vs ← readRegs c rs
    let ret := BitVec.ofNat 36 (pc.toNat + x.len)
    storeLoc c loc (wordsCells (BitVec.ofNat 36 m :: ret :: vs))
    wrG c 15 (BitVec.ofNat 36 base)
    return { jump := some (relTarget pc ps), btb := true }

/-- RET (R105, R108). -/
def execRet (c : CoreId) (ob : BitVec 6) : State → Host.Outcome State Fault Refusal :=
  instr { c := c, op := 0o025, ob := ob.toNat } do
    need (ob == 0) illegal
    let base := (← rdG c 15).toNat
    let rep : Rep := { opnd := 0, seg := 1, off := base }
    let loc ← memAccess c 0 1 base 4 .read
    let m := cellsNat (← readLoc c rep loc)
    need (bitsOf m 35 15 == 0) { vec := 8, cause := 1 }
    let rs := maskRegs m
    let n := 4 * (2 + rs.length)
    let loc ← memAccess c 0 1 base n .read
    let ws := cellsWords (← readLoc c rep loc)
    writeRegs c (rs.zip (ws.drop 2))
    wrG c 15 (BitVec.ofNat 36 (base + n))
    return { jump := some (ws.getD 1 0).toNat, btb := true }

/-! ## Hardware loops (R100, R102) -/

/-- Start a loop in a bank (R100). -/
def Bank.pushLoop (b : Bank) (l : LoopRegs) : Bank :=
  let b := if b.dep ≠ 0 then { b with l3 := b.l2, l2 := b.l1, l1 := b.cur } else b
  { b with cur := l, dep := b.dep + 1 }

/-- LOOP (R100). -/
def execLoop (c : CoreId) (ob : BitVec 6) (ps : List Parcel) (a : Spec) : State → Host.Outcome State Fault Refusal :=
  let x : Ins := { c := c, op := 0o026, ob := ob.toNat, inl := ps, specs := [a] }
  instr x do
    need (decide (ob.toNat < 4) && inlOk ob ps && okIntSrc 4 a) illegal
    let pc := (← getCore c).pc.toNat
    let b := pc + x.len
    let e : Int := pc + signed (14 * ps.length) (parcelsNat ps)
    need (decide ((b : Int) < e) && decide (e < (2 ^ 36 : Nat))) illegal
    let (n, upd) ← srcNat c 1 4 a []
    if n = 0 then
      commitUpd c upd
      return { jump := some e.toNat }
    need ((← getCore c).bank.dep != 4) { vec := 7 }
    commitUpd c upd
    modCore c fun k => k.setBank k.bankNo
      (k.bank.pushLoop { top := BitVec.ofNat 36 b, exit := BitVec.ofNat 36 e.toNat, rem := BitVec.ofNat 36 n })
    return { jump := some b }

/-- LBRK (R102). -/
def execLbrk (c : CoreId) (ob : BitVec 6) : State → Host.Outcome State Fault Refusal :=
  instr { c := c, op := 0o027, ob := ob.toNat } do
    need (ob == 0) illegal
    let b := (← getCore c).bank
    need (b.dep != 0) { vec := 7 }
    modCore c fun k => k.setBank k.bankNo b.popLoop
    return { jump := some b.cur.exit.toNat }

/-! ## Translation invalidation (R348 to R350) -/

/-- Whether an invalidation operand breaks the encoding rules of R348. -/
def tlbiBad (kind w0 w1 : Nat) : Bool :=
  bitsOf w0 34 33 == 3 || (bitOf w0 32 && kind != 0) || bitsOf w0 31 4 != 0 || (kind != 1 && bitsOf w0 3 0 != 0) ||
  (kind != 0 && w1 != 0)

/-- TLBI (R348, R349). -/
def execTlbi (c : CoreId) (ob : BitVec 6) (a : Spec) : State → Host.Outcome State Fault Refusal :=
  instr { c := c, op := 0o030, ob := ob.toNat, specs := [a] } do
    let kind := ob.toNat / 8
    need (decide (kind ≤ 3) && ob.toNat % 8 == 0 && okIntSrc 8 a) illegal
    needSup c
    let (v, upd) ← srcNat c 1 8 a []
    let w0 := v / 2 ^ 36
    let w1 := v % 2 ^ 36
    need (!tlbiBad kind w0 w1) illegal
    need ((← getCore c).world || (!bitOf w0 35 && !bitOf w0 32)) privilege
    commitUpd c upd
    storesVisible c
    modify fun d => d.broadcast
      { core := some c, kind := kind, world := bitOf w0 35, space := bitsOf w0 34 33, s2 := bitOf w0 32,
        key := BitVec.ofNat 4 w0, page := w1 }
    return {}

/-- Whether accesses that any requester has begun are still to be performed (R350): reads that have left the device, stores in buffers,
beside a pipe or on their way to a register, postings and locks that their unit has not accepted, and posts of a Geyser. -/
def Dev.accessPending (d : Dev) : Bool :=
  let reads (l : List ExtRead) : Bool := l.any fun e => e.data.isNone
  !d.regNet.isEmpty ||
  (d.cores.any fun k => !k.2.sbuf.isEmpty || reads k.2.ext || (k.2.posts.any fun p => !d.postAccepted p) ||
    k.2.beside.any fun b => b.writes.any fun w => match w with | .mem _ _ => true | _ => false) ||
  (d.islands.any fun i => i.2.ctxs.any fun g => !g.2.posts.isEmpty || reads g.2.ext) ||
  d.queues.any fun q => q.2.descs.any fun e => reads e.ext

/-- TLBSYNC (R350): every earlier TLBI of the core has been applied everywhere, and every access in flight has been performed (log
entry 21). -/
def execTlbsync (c : CoreId) (ob : BitVec 6) : State → Host.Outcome State Fault Refusal :=
  instr { c := c, op := 0o031, ob := ob.toNat } do
    need (ob == 0) illegal
    needSup c
    storesVisible c
    let d ← get
    if d.islands.any fun i => i.2.inv.any (·.core == some c.val) then waitM
    if d.accessPending then waitM
    modCore c Core.flushExp
    return {}

/-! ## Task and system instructions (R208, R223 to R230) -/

/-- TWAIT (R226). -/
def execTwait (c : CoreId) (ob : BitVec 6) (a : Spec) : State → Host.Outcome State Fault Refusal :=
  let x : Ins := { c := c, op := 0o035, ob := ob.toNat, specs := [a] }
  instr x do
    need (ob == 0 && okReg a) illegal
    let k ← getCore c
    need (k.plev == 0) illegal
    besideIdle c
    let r := a.reg.toNat
    let g ← rdG c r
    let s := k.runSlot.getD 0
    let m := BitVec.ofNat 5 g.toNat
    let e := (k.slot s).evpend &&& m
    if e ≠ 0 then
      wrG c r (BitVec.ofNat 36 e.toNat)
      modCore c fun k => k.setSlot s { k.slot s with evpend := (k.slot s).evpend &&& ~~~e }
      return {}
    else if m = 0 then
      wrG c r 0
      complete c x.len {}
      modify fun d => (d.updCore c Core.yieldTask).dispatch c
      return { final := true }
    else
      modCore c fun k =>
        let k := ({ k with ext := [] }).leave .blocked
        k.setSlot s { k.slot s with evmask := m }
      modify fun d => d.dispatch c
      return { final := true }

/-- A gate call from LS to vector `v` (R208). -/
def gateTo (c v : Nat) (next : Word) (upd : AMap Word) : M Done := do
  let k ← getCore c
  need (k.sup && !k.world) privilege
  need (decide (64 ≤ v)) privilege
  besideIdle c
  let r ← attempt (readLin c true {} (k.cus.hdtb.toNat * 4096 + 16 * v) 16)
  match r with
  | .ok cs =>
    let w0 := ((cellsWords cs).getD 0 0).toNat
    need (bitOf w0 35 && bitsOf w0 34 33 == 1) privilege
  | .error _ => pure ()
  commitUpd c upd
  deliverAfter c { vec := v, world := true, gate := true, spc := next, fpc := k.pc }
  modCore c fun k => { k with ext := [] }
  return { final := true }

/-- TSIG by its operand (R227): a signal, or a gate call. -/
def tsigBody (x : Ins) (a : Spec) : M Done := do
  need (x.ob == 0 && okIntSrc 4 a) illegal
  let (v, upd) ← srcNat x.c 1 4 a []
  let kind := bitsOf v 35 34
  if kind = 3 then
    need (bitsOf v 33 8 == 0) illegal
    gateTo x.c (v % 256) (BitVec.ofNat 36 ((← getCore x.c).pc.toNat + x.len)) upd
  else
    need (kind == 0 && bitsOf v 33 23 == 0 && bitsOf v 15 6 == 0 && decide (bitsOf v 22 16 < 96)) illegal
    commitUpd x.c upd
    let w := (← getCore x.c).world
    modify fun d => { d with sigNet := d.sigNet ++ [{ core := bitsOf v 22 16, slot := v % 64, fromCustody := w }] }
    return {}

/-- TSIG (R227). -/
def execTsig (c : CoreId) (ob : BitVec 6) (a : Spec) : State → Host.Outcome State Fault Refusal :=
  let x : Ins := { c := c, op := 0o036, ob := ob.toNat, specs := [a] }
  instr x (tsigBody x a)

/-- TSIG with KIND 3: a gate call (R208). -/
def execGateCall (c : CoreId) (ob : BitVec 6) (a : Spec) : State → Host.Outcome State Fault Refusal :=
  let x : Ins := { c := c, op := 0o036, ob := ob.toNat, specs := [a] }
  instr x (tsigBody x a)

/-- TBRD (R75). -/
def execTbrd (c : CoreId) (ob : BitVec 6) (d : Spec) : State → Host.Outcome State Fault Refusal :=
  instr { c := c, op := 0o377, sec := 1, ob := ob.toNat, specs := [d] } do
    need (ob == 0 && okIntDst 8 d) illegal
    let (dst, upd) ← dstOpd c 1 8 d []
    let t := (← get).now % 2 ^ 64
    commitUpd c upd
    putDst c dst (natCells 8 t)
    return {}

/-- STATE as TSLOT numbers it (R223). -/
def slotCode : SlotState → Nat
  | .free => 0
  | .blocked => 1
  | .ready => 2
  | .running => 3

/-- A task slot's field as TSLOT reads it (R223). -/
def Slot.field (x : Slot) (f : Nat) : Nat :=
  match f with
  | 0 => flagNat x.valid * 2 ^ 35 + flagNat x.world * 2 ^ 34 + x.prio.toNat * 2 ^ 32 + slotCode x.st * 2 ^ 29 +
         flagNat x.res * 2 ^ 28 + x.bank.toNat * 2 ^ 26
  | 1 => x.pc.toNat
  | 2 => x.tstat.toNat
  | 3 => x.evpend.toNat
  | 4 => x.evmask.toNat
  | 5 => x.tcb.toNat
  | 6 => x.seq.toNat
  | _ => 0

/-- Whether a value of XOWN names a ledger-world identity or none (R218). -/
def Dev.ledgerOwner (d : Dev) (c x : Nat) : Bool :=
  if x < 64 then !((d.core c).slot x).world else if x = 0o177 then true else !d.levelWorld c (x - 0o100)

/-- Whether a value may be written to XOWN (R218). -/
def xownOk (v : Nat) : Bool := decide (v < 64) || (decide (0o101 ≤ v) && decide (v ≤ 0o107)) || v == 0o177

/-- The illegal-instruction checks of a TSLOT write of `v` to field `f` of slot `s` (R224, R218). -/
def tslotBad (k : Core) (s f v : Nat) : Bool :=
  match f with
  | 0 => bitsOf v 25 0 != 0 || decide (3 ≤ bitsOf v 31 29)
  | 2 => bitsOf v 5 0 != 0 || bitsOf v 33 31 != 0 || decide (4 < bitsOf v 24 22) || bitOf v 35 != (k.slot s).world
  | 3 | 4 => decide (32 ≤ v)
  | 6 => true
  | 7 => !xownOk v
  | _ => false

/-- A blocked slot with an awaited event turns ready (R225). -/
def Core.readyIfDue (k : Core) (s : Nat) : Core :=
  let x := k.slot s
  if x.valid && x.st == .blocked && x.evpend &&& x.evmask != 0 then k.turnReady s else k

/-- A TSLOT write of CTL, that passed its checks (R224, R217). -/
def Dev.writeCtlField (d : Dev) (c s v : Nat) : Dev :=
  let k := d.core c
  let x := k.slot s
  let w := bitOf v 34
  let st : SlotState := match bitsOf v 31 29 with | 0 => .free | 1 => .blocked | _ => .ready
  let y := { x with
    valid := bitOf v 35, world := w, prio := BitVec.ofNat 2 (bitsOf v 33 32), res := bitOf v 28, bank := BitVec.ofNat 2 (bitsOf v 27 26),
    st := st, tstat := BitVec.ofNat 36 (setBits x.tstat.toNat 35 35 (flagNat w)) }
  let k := k.setSlot s y
  let k := if st == .ready && x.st != .ready then k.turnReady s else k
  let d := d.setCore c k
  let d := if (st == .free || !y.valid) && d.xown c == s then d.setFld (offSCHEDCFG c) 6 0 0o177 else d
  d.formXav c

/-- A TSLOT write that passed its checks. -/
def Dev.writeSlotField (d : Dev) (c s f v : Nat) : Dev :=
  match f with
  | 0 => d.writeCtlField c s v
  | 1 => d.updCore c fun k => k.setSlot s { k.slot s with pc := BitVec.ofNat 36 v }
  | 2 => d.updCore c fun k => k.setSlot s { k.slot s with tstat := BitVec.ofNat 36 v }
  | 3 => d.updCore c fun k => (k.setSlot s { k.slot s with evpend := BitVec.ofNat 5 v }).readyIfDue s
  | 4 => d.updCore c fun k => (k.setSlot s { k.slot s with evmask := BitVec.ofNat 5 v }).readyIfDue s
  | 5 => d.updCore c fun k => k.setSlot s { k.slot s with tcb := BitVec.ofNat 36 v }
  | 7 => (d.setFld (offSCHEDCFG c) 6 0 v).formXav c
  | _ => d

/-- TSLOT by its command word (R224). -/
def tslotBody (x : Ins) (a p : Spec) : M Done := do
  let c := x.c
  need (x.ob == 0 && okIntSrc 4 a && okIntSrc 4 p) illegal
  needSup c
  let (v, upd) ← srcNat c 1 4 a []
  let s := bitsOf v 13 8
  let f := bitsOf v 3 0
  need (bitsOf v 34 14 == 0 && bitsOf v 7 4 == 0 && decide (f < 8)) illegal
  let k ← getCore c
  let led := !k.world
  if bitOf v 35 then
    let (y, upd) ← srcNat c 2 4 p upd
    need (!tslotBad k s f y && !(decide (f ≤ 2) && k.plev == 0 && k.runSlot == some s)) illegal
    let d ← get
    if f = 7 then need (!led || (d.ledgerOwner c (d.xown c) && d.ledgerOwner c y)) privilege
    else need (!led || (!(k.slot s).world && !(f == 0 && bitOf y 34))) privilege
    commitUpd c upd
    modify fun d => d.writeSlotField c s f y
  else
    need (okIntDst 4 p) illegal
    need (!led || f == 7 || !(k.slot s).world) privilege
    let (dst, upd) ← dstOpd c 2 4 p upd
    let own := (← get).xown c
    let y := if f = 7 then own else (k.slot s).field f
    commitUpd c upd
    putDst c dst (natCells 4 y)
  return {}

/-- TSLOT, a read (R224). -/
def execTslotRead (c : CoreId) (ob : BitVec 6) (a d : Spec) : State → Host.Outcome State Fault Refusal :=
  let x : Ins := { c := c, op := 0o377, sec := 2, ob := ob.toNat, specs := [a, d] }
  instr x (tslotBody x a d)

/-- TSLOT, a write (R224). -/
def execTslotWrite (c : CoreId) (ob : BitVec 6) (a d : Spec) : State → Host.Outcome State Fault Refusal :=
  let x : Ins := { c := c, op := 0o377, sec := 2, ob := ob.toNat, specs := [a, d] }
  instr x (tslotBody x a d)

/-- IDLE (R230). -/
def execIdle (c : CoreId) (ob : BitVec 6) : State → Host.Outcome State Fault Refusal :=
  let x : Ins := { c := c, op := 0o377, sec := 3, ob := ob.toNat }
  instr x do
    need (ob == 0) illegal
    needSup c
    besideIdle c
    complete c x.len {}
    modCore c fun k => { k with idle := true }
    modify fun d => d.wakeIdle c
    return { final := true }

end Sys2Proof.Machine
end

