-- ==== Sys2Proof/Machine/Formats.lean ====
section
/-!
DEFINITION. Packed and zoned decimal fields (R30 to R38): validity, values, the cells that a result writes; and decimal operands
with their to-mark scan (R70, R111).
-/

namespace Sys2Proof.Machine

/-- Data bits of a cell. -/
def cellData (x : Cell) : Nat := x.toNat % 256

/-- The nibbles of a field, in reading order (R30). -/
def nibbles (cs : List Cell) : List Nat := cs.flatMap fun x => [cellData x / 16, cellData x % 16]

/-- A sign nibble: whether it is minus; none when it is invalid (R31). -/
def signNibble (n : Nat) : Option Bool := if n < 10 then none else some (n == 11 || n == 13)

/-- A list of digits as a number, most significant first; none when one is invalid. -/
def digitsNat (l : List Nat) : Option Nat :=
  l.foldl (fun a n => match a with | some v => if n ≤ 9 then some (v * 10 + n) else none | none => none) (some 0)

/-- A packed field's magnitude and sign; none when invalid (R32). -/
def packedVal (cs : List Cell) : Option (Nat × Bool) :=
  let ns := nibbles cs
  match digitsNat ns.dropLast, signNibble (ns.getLastD 0) with
  | some m, some s => some (m, s)
  | _, _ => none

/-- A zoned field's magnitude and sign; none when invalid (R35). -/
def zonedVal (cs : List Cell) : Option (Nat × Bool) :=
  match digitsNat (cs.map fun x => cellData x % 16), signNibble (cellData (cs.getLastD 0) / 16) with
  | some m, some s => some (m, s)
  | _, _ => none

/-- A decimal field's magnitude and sign; zoned when `z`. -/
def fieldVal (z : Bool) (cs : List Cell) : Option (Nat × Bool) := if z then zonedVal cs else packedVal cs

/-- Digits of a field of `n` cells (R30, R35). -/
def fieldDigits (z : Bool) (n : Nat) : Nat := if z then n else 2 * n - 1

/-- A magnitude and sign as a signed number. -/
def signedMag (m : Nat) (neg : Bool) : Int := if neg then -(m : Int) else m

/-- The last `n` decimal digits of `v`, most significant first. -/
def decDigits : Nat → Nat → List Nat
  | 0, _ => []
  | n + 1, v => v / 10 ^ n % 10 :: decDigits n v

/-- The preferred sign of a result (R33). -/
def signCode (neg dsm : Bool) : Nat := if neg then 13 else if dsm then 15 else 12

/-- Pairs of nibbles as data bytes. -/
def pairBytes : List Nat → List Nat
  | a :: b :: t => (16 * a + b) :: pairBytes t
  | _ => []

/-- The data of a field of `n` cells with the low digits of `m` and sign code `code` (R30, R35). -/
def fieldDataAs (z : Bool) (n m code : Nat) : List Nat :=
  if z then
    let ds := decDigits n m
    ds.dropLast.map (240 + ·) ++ [16 * code + ds.getLastD 0]
  else pairBytes (decDigits (2 * n - 1) m ++ [code])

/-- The data of a written field of `n` cells with the low digits of `m` (R30, R33, R35). -/
def fieldData (z : Bool) (n m : Nat) (neg dsm : Bool) : List Nat := fieldDataAs z n m (signCode neg dsm)

/-- The sign code that a field's cells hold (R30, R35). -/
def fieldSign (z : Bool) (cs : List Cell) : Nat :=
  let x := (cs.getLastD 0).toNat
  if z then x / 16 % 16 else x % 16

/-- Data written over cells whose marks stay (R28). -/
def keepMarks (old : List Cell) (data : List Nat) : List Cell :=
  (old.zip data).map fun p => BitVec.ofNat 9 (p.1.toNat / 256 * 256 + p.2)

/-- What a field of `n` cells takes of the exact result `v`, and whether it was truncated (R114, R115). -/
def fieldResult (z : Bool) (n : Nat) (v : Int) (dsm : Bool) : List Nat × Bool :=
  let m := v.natAbs
  let lim := 10 ^ fieldDigits z n
  (fieldData z n (m % lim) (decide (v < 0)) dsm, decide (lim ≤ m))

/-- Significant digits of a number, at most `fuel`. -/
def sigDigits : Nat → Nat → Nat
  | 0, _ => 0
  | fuel + 1, v => if v = 0 then 0 else 1 + sigDigits fuel (v / 10)

/-! ## Operands -/

/-- Cells as they stand, for a writer that keeps marks or for a scan: no right is needed to read them (R28, R111). Windows have
no marks. -/
def peekRun (c : Nat) (rep : Rep) (i lin : Nat) (ps : List PLoc) : M (List Cell) := do
  match ps with
  | [] => return []
  | p :: _ =>
    let d ← get
    match d.region p.addr with
    | .localMem | .bank _ =>
      drainN c (drainCount (← getCore c).sbuf ps)
      let d ← get
      if d.postQueued ps then waitM
      return d.cells ps
    | .far _ => readRun c rep i lin ps
    | _ => return ps.map fun _ => 0

/-- `peekRun` over the pages of an operand. -/
def peekRuns (c : Nat) (rep : Rep) (i lin : Nat) : List (List PLoc) → M (List Cell)
  | [] => return []
  | r :: t => do
    let a ← peekRun c rep i lin r
    let b ← peekRuns c rep (i + r.length) (lin + r.length) t
    return a ++ b

/-- The cells of a checked operand as they stand. -/
def peekLoc (c : Nat) (rep : Rep) (loc : MemLoc) : M (List Cell) :=
  peekRuns c rep 0 loc.lin ((runsBy 4096 (loc.cells.map fun p => (p, 0))).map fun r => r.map (·.1))

/-- A decimal operand: its length, its cells when it is read, the cells that a written one stands over, where it is written; no
place for a literal. -/
structure DecOp where
  n : Nat
  cells : List Cell := []
  old : List Cell := []
  dst : Option Dst := none
  deriving DecidableEq, Repr

/-- The to-mark scan of an operand at offset `off` (R111): the length found, from `n` on, at most `fuel` cells further. -/
def scanMarks (c i seg off : Nat) (acc : Access) (n : Nat) : Nat → M Nat
  | 0 => return n
  | fuel + 1 => do
    let loc ← memAccess c i seg (off + n) 1 acc
    let cs ← peekLoc c { opnd := i, seg := seg, off := off + n } loc
    if (cs.headD 0).toNat / 256 = 1 then return n
    scanMarks c i seg off acc (n + 1) fuel

/-- The to-mark scan of a field of at most `L` cells (R111): it starts at the first cell, which passes the checks as every scanned
cell does. -/
def scanField (c i seg off : Nat) (acc : Access) (L : Nat) : M Nat := do
  let _ ← memAccess c i seg off 1 acc
  scanMarks c i seg off acc 1 (L - 1)

/-- Evaluate decimal operand `i` of length field `L`, scanned when `scan` (R70, R111). -/
def decOpd (c i L : Nat) (scan : Bool) (acc : Access) (p : Spec) (upd : AMap Word) : M (DecOp × AMap Word) := do
  match p.mode.toNat with
  | 0 =>
    let cs ← regCells c p.reg.toNat L upd
    return ({ n := L, cells := cs, dst := some (.g p.reg.toNat L) }, upd)
  | 14 => return ({ n := L, cells := natCells L (parcelsNat p.xs / 2 ^ (14 * p.ext.toNat - 9 * L)) }, upd)
  | _ =>
    let (ea, upd') ← evalEA c i L p upd
    let rep : Rep := { opnd := i, seg := specSeg p, off := ea }
    let n ← if scan then scanField c i (specSeg p) ea acc L else pure L
    let upd' := if p.mode = 4 then upd'.put p.reg.toNat (BitVec.ofNat 36 (ea + n)) else upd'
    let loc ← memAccess c i (specSeg p) ea n acc
    let cs ← if accReads acc then readLoc c rep loc else pure []
    let old ← if acc == .write then peekLoc c rep loc else pure cs
    return ({ n := n, cells := cs, old := old, dst := some (.mem loc rep) }, upd')

/-- The cells that a written operand stands over. -/
def oldCells (c : Nat) (o : DecOp) : M (List Cell) := do
  match o.dst with
  | some (.g r n) => return natCells n ((← getCore c).gr r).toNat
  | _ => return o.old

/-- The writes that put data into a decimal operand, keeping its marks (R28). -/
def fieldWrites (c : Nat) (o : DecOp) (data : List Nat) : M (List Wr) := do
  let old ← oldCells c o
  match o.dst with
  | some dst => return dstWrites (← getCore c) dst (keepMarks old data)
  | none => return []

/-- Write data into a decimal operand, keeping its marks. -/
def putField (c : Nat) (o : DecOp) (data : List Nat) : M Unit := do
  applyWrs c (← fieldWrites c o data)

/-! ## Operands shared by instructions with micro-trap points (R117, R125) -/

/-- Whether two operands share a physical cell, or name one G register (R117). -/
def opsOverlap (a b : DecOp) : Bool :=
  match a.dst, b.dst with
  | some (.mem x _), some (.mem y _) => x.cells.any fun p => y.cells.any fun q => p.addr == q.addr
  | some (.g r _), some (.g s _) => r == s
  | _, _ => false

/-- What the operand digest covers of an operand: how it is reached, its first physical cell, its length (R125). -/
def digestOf (o : DecOp) : List Nat :=
  match o.dst with
  | some (.mem loc _) => [0, match loc.cells with | p :: _ => p.addr | [] => 0, o.n]
  | some (.g _ _) => [1, 0, o.n]
  | _ => [2, 0, o.n]

/-- Stop at a micro-trap point (R124, R165): the micro-state waits for the interrupt, and the PC stays at the instruction. -/
def microStop (c op step : Nat) (u0 u1 u2 u3 : Word) : M Done := do
  let upc := Config.microPc op step
  modCore c fun k => { k with
    ext := [],
    micro := some { upc := upc, u0 := u0, u1 := u1, u2 := u2, u3 := u3,
                    ck := Config.checkCell op upc u0 u1 u2 u3 k.csgen } }
  return { final := true }

end Sys2Proof.Machine
end

