-- ==== Sys2Proof/Machine/Posting.lean ====
section
/-!
DEFINITION. Posting operations (R302, R305 to R307), what a posting unit or bank atomic unit does with one (R309 to R311, R325),
task-tagged locks (R313, R314), the instructions of row 0o24x (R303, R304, R312), and the return of their statuses.
-/

namespace Sys2Proof.Machine

/-! ## Operations -/

/-- Cells of a posting type: P16, P32, word, double word (R303, R423). -/
def postCells (ty : Nat) : Nat := match ty with | 0 => 8 | 1 => 16 | 2 => 4 | _ => 8

/-- A decimal add, with the floor of operation 1: status and the value after it (R306, R307). -/
def postDecimal (p : Posting) (v : List Cell) : Nat × List Cell :=
  match packedVal p.x, (if p.op = 1 then packedVal p.y else some (0, false)), packedVal v with
  | some (a, s), some (f, t), some (m, u) =>
    let r := signedMag m u + signedMag a s
    let (data, ov) := fieldResult false v.length r p.dsm
    if ov then (1, v)
    else if p.op = 1 ∧ r < signedMag f t then (3, v)
    else (0, keepMarks v data)
  | _, _, _ => (2, v)

/-- A signed binary add (R306, R26). -/
def postBinary (p : Posting) (v : List Cell) : Nat × List Cell :=
  let w := 9 * v.length
  let r := signed w (cellsNat v) + signed w (cellsNat p.x)
  if ovSigned w r then (1, v) else (0, natCells v.length (wrap w r))

/-- A posting on a value in a line that is not poisoned: status and the value after it (R302, R306). -/
def postEval (p : Posting) (v : List Cell) : Nat × List Cell :=
  match p.op.toNat with
  | 0 | 1 => postDecimal p v
  | 2 => (0, p.x)
  | 3 | 5 | 6 => if v = p.y then (0, p.x) else (4, v)
  | _ => postBinary p v

/-- Entries of the lock registry (R314). -/
def registrySize : Nat := 4096

/-- A posting on a value, with the poison of its line and the room of the lock registry. -/
def Dev.postTry (d : Dev) (p : Posting) (v : List Cell) : Nat × List Cell :=
  if d.poisoned p.loc then (6, v)
  else
    let (st, w) := postEval p v
    if p.op = 5 ∧ st = 0 ∧ registrySize ≤ d.locks.length then (4, v) else (st, w)

/-- The answer of LKT (R314): 1 taken, 0 held by another tag, 2 held by this tag, 3 not taken; for a poisoned line the manual
gives none, and the value is free. -/
def lockAnswer (free st : Nat) (tag old : List Cell) : Word :=
  if st = 0 then 1 else if st = 6 then Config.freeWord free else if old = tag then 2 else if cellsNat old = 0 then 3 else 0

/-- Four words that hold cells from the first on (R423). -/
def fourWords (cs : List Cell) : List Word := cellsWords (cs ++ List.replicate (16 - cs.length) 0)

/-- The POST record of an applied posting (R423). -/
def postRecord (d : Dev) (p : Posting) (st : Nat) (old new : List Cell) (src seq : Nat) : Record :=
  let operand := if p.op = 0 ∨ p.op = 1 ∨ p.op = 4 then fourWords p.x else fourWords (p.x ++ (if p.y.isEmpty then natCells 4 0 else p.y) ++ old)
  let (peer, rnum) := match p.who with
    | .peer n r => (n, r)
    | _ => (0, 0)
  { kind := 1, op := p.op, ty := p.ty, dsm := p.dsm, status := BitVec.ofNat 4 st, segtag := p.segtag, seq := BitVec.ofNat 64 seq,
    epoch := BitVec.ofNat 32 d.epoch, src := BitVec.ofNat 9 src, peer := BitVec.ofNat 5 peer, rnum := rnum,
    body := addrWords p.loc.addr ++ [0] ++ operand ++ fourWords new }

/-- Number and launch the record of a posting (R311, R420): its number, none when no record is produced (R430). -/
def Dev.postJournal (d : Dev) (p : Posting) (st : Nat) (old new : List Cell) (src : Nat) : Dev × Option Nat :=
  if !p.jr then (d, none)
  else if d.isStandby then (d.addSat offSNSTAT 23 16 1, none)
  else
    let seq := d.rd offSNSEQ
    let d := d.numberRecord (postRecord d p st old new src)
    let outside := if p.loc.isLocal then puOf p.loc.addr p.loc.pol / 128 == 1 else decide (6 ≤ bankIsland p.loc.addr)
    (if d.fld offSNCFG 1 0 = 3 && [1, 2].contains (d.fld offSNSTAT 31 28) && outside then d.raise 260 else d, some seq)

/-- The lock registry and the log after a lock operation of status `st` (R314). -/
def Dev.registry (d : Dev) (p : Posting) (st : Nat) : Dev :=
  match p.op.toNat with
  | 5 => if st = 0 then { d with locks := d.locks ++ [(p.loc.addr, cellsWord p.x)] } else d
  | 6 =>
    if st = 0 then
      let d := { d with locks := d.locks.filter (·.1 != p.loc.addr) }
      if p.who = .hub then d.logEvent 0x0A 1 (cellsNat p.y / 2 ^ 27 % 128) 1 p.loc.addr (cellsNat p.y) else d
    else if p.who = .hub then d
    else
      let c := match p.who with | .core c => c | _ => 0
      d.logEvent 0x18 1 c 1 p.loc.addr (cellsNat p.y)
  | _ => d

/-- The locations of a posting's value. -/
def Posting.locs (p : Posting) : List PLoc := (fromN p.loc.addr (postCells p.ty.toNat)).map fun a => { p.loc with addr := a }

/-- The pool request of a far posting (R450). -/
def Posting.request (p : Posting) : FarReq :=
  .posting (BitVec.ofNat 38 p.loc.addr) p.op p.ty p.dsm p.x p.y p.jr p.segtag (BitVec.ofNat 22 p.id)

/-- Launch a posting toward the unit that performs it (R308). -/
def Dev.launch (d : Dev) (p : Posting) : Dev :=
  match d.region p.loc.addr with
  | .bank i => d.updIsl i fun x => { x with atomics := x.atomics ++ [p] }
  | .far w => { d with farHeld := d.farHeld ++ [p] }.datagram (d.farPeer w) (.request p.request)
  | _ => { d with postNet := d.postNet ++ [p] }

/-- Source and peer of the sample of a requester's posting (R353): none for the lock registry and the fault hub. -/
def sampleSrc : Requester → Option (Nat × Nat)
  | .core c => some (c / 8, 0)
  | .geyser i _ _ => some (i, 0)
  | .peer p _ => some (12, p)
  | .hub => none

/-- Perform one posting on the cells of its line, as unit `src` (R306, R311): record first, then the value. -/
def Dev.applyPost (d : Dev) (p : Posting) (src : Nat) : Dev × Applied :=
  let old := d.cells p.locs
  let (st, new) := d.postTry p old
  let (d, seq) := d.postJournal p st old new src
  let d := if new = old then d else d.pokeBoth p.locs new
  let d := match sampleSrc p.who with
    | some (s, k) => d.heatEvent src p.loc.addr p.world s k
    | none => d
  (d.registry p st, { p := p, status := BitVec.ofNat 4 st, old := old, seq := seq })

/-- Perform postings in order. -/
def Dev.applyPosts (d : Dev) (src : Nat) : List Posting → Dev × List Applied
  | [] => (d, [])
  | p :: t =>
    let (d, a) := d.applyPost p src
    let (d, l) := Dev.applyPosts d src t
    (d, a :: l)

/-- HEAT source of a posting's requester (R355). -/
def heatOf : Requester → Nat
  | .core c => c / 8
  | .geyser i _ _ => i
  | .peer _ _ => 14
  | .hub => 12

/-- The metadata that a group's line write sets (R311, R42). -/
def postInfo (d : Dev) (as : List Applied) (heat : Nat) (jr : Bool) (i : LineInfo) : LineInfo :=
  let i := { i with heat := heatWrite i.heat d.window heat }
  let i := if jr then { i with mirrorEpoch := BitVec.ofNat 32 d.epoch, jw := true } else i
  match (as.filterMap (·.seq)).getLast? with
  | some n => { i with postTag := BitVec.ofNat 16 n, postSeqH := BitVec.ofNat 48 (n / 2 ^ 16) }
  | none => i

/-- Whether a lasting fault of posting unit `u` waits for its fence (R455). -/
def Dev.puStopped (d : Dev) (u : Nat) : Bool :=
  d.hub.lasting.any fun x => match x.1 with | .postingUnit k => k.val == u | _ => false

/-- Whether two postings come from one requester, for the order of R21. -/
def sameRequester : Requester → Requester → Bool
  | .core a, .core b => a == b
  | .geyser i x _, .geyser j y _ => i == j && x == y
  | .peer a _, .peer b _ => a == b
  | _, _ => false

/-- Whether an older posting of the same requester to the same value still waits at the other place of a line in move state (R21,
R22). -/
def Dev.olderElsewhere (d : Dev) (p : Posting) : Bool :=
  match d.moveTwin p.loc with
  | none => false
  | some q =>
    let old (x : Posting) : Bool := x.loc.addr == q.addr && sameRequester x.who p.who && decide (x.id < p.id)
    d.postNet.any old || d.pus.any fun u => u.2.queue.any old || u.2.cut.any fun a => old a.p

/-- A posting to a frame whose page a pool peer has taken, on the way from the old place to the new one (R371): a posting of a peer takes
a number of this device. -/
def Dev.forwardPost (d : Dev) (p : Posting) (q : PLoc) : Dev :=
  match p.who with
  | .peer _ _ => { d with nextPost := d.nextPost + 1 }.launch { p with id := d.nextPost, loc := q }
  | _ => d.launch { p with loc := q }

/-- Serve the first group of posting unit `u` (R309, R311): the line is read once, the postings applied in arrival order, the line
written once. It waits while the unit is fenced or a record has no ring (R451), and for the order of R21 in move state. In move state
postings to a page that a pool peer has taken are forwarded there (R371). -/
def Dev.serveGroup (d : Dev) (u : Nat) : Dev :=
  let pu := d.pus.getD' u {}
  match pu.queue with
  | [] => d
  | h :: _ =>
    let line := h.loc.key / 128
    let group := (pu.queue.filter fun p => p.loc.key / 128 == line).takeWhile fun p => !d.olderElsewhere p
    let rest := pu.queue.filter fun p => !group.contains p
    let jr := group.any (·.jr)
    let away := (d.moveTwin h.loc).filter fun q =>
      !q.isLocal && d.cal.moves.any fun m => m.2.source == h.loc.addr / 4096 && decide (5 ≤ m.2.step)
    if d.bit (offPUSTAT u) 63 || d.puStopped u || (jr && !d.journalReady) || d.heldFrame h.loc || group.isEmpty then d
    else if let some q := away then
      group.foldl (fun d p => d.forwardPost p { q with addr := q.addr / 4096 * 4096 + p.loc.addr % 4096 })
        { d with pus := d.pus.put u { pu with queue := rest } }
    else
      let d := d.lineRead h.loc
      let (d, as) := d.applyPosts u group
      let heat := heatOf (group.getLastD h).who
      let d := d.updInfo h.loc (postInfo d as heat jr)
      let d := d.dropL1 (h.loc.addr / 128) none
      let done := (as.filter (·.status == 0)).length
      let d := d.setFld (offPUSTAT u) 47 16 ((d.fld (offPUSTAT u) 47 16 + done) % 2 ^ 32)
      { d with pus := d.pus.put u { pu with queue := rest, applied := pu.applied ++ as } }

/-- The service of the first group of unit `u` that a lasting fault of the unit cuts: the records have been numbered and handed over,
and the line write has not been made (R19, R23; log entry 88). Postings without a record stay in the queue. -/
def Dev.cutGroup (d : Dev) (u : Nat) : Dev :=
  let pu := d.pus.getD' u {}
  match pu.queue with
  | [] => d
  | h :: _ =>
    let line := h.loc.key / 128
    if !pu.cut.isEmpty || !d.journalReady || d.heldFrame h.loc then d
    else
      let group := pu.queue.filter fun p => p.loc.key / 128 == line && p.jr
      let (d', as) := (d.lineRead h.loc).applyPosts u group
      let gone (p : Posting) : Bool := as.any fun a => a.p.id == p.id && a.seq.isSome
      { d' with mem := d.mem, out := d.out, peers := d.peers,
                pus := d.pus.put u { pu with queue := pu.queue.filter fun p => !gone p, cut := as.filter (·.seq.isSome) } }

/-- Perform the next operation of island `i`'s bank atomic unit (R325). -/
def Dev.serveAtomic (d : Dev) (i : Nat) : Dev :=
  let isl := d.isl i
  match isl.atomics with
  | [] => d
  | p :: t =>
    if (p.jr && !d.journalReady) || p.locs.any (fun q => d.bankHeld q.addr) then d
    else
      let (d, a) := d.applyPost p (256 + i)
      let d := d.dropL1 (p.loc.addr / 128) none
      d.updIsl i fun x => { x with
        atomics := t
        atomDone := x.atomDone ++ [a]
        tags := match a.seq with | some n => x.tags.put (p.loc.addr / 128) (BitVec.ofNat 64 n) | none => x.tags }

/-- Whether Sinter has accepted record `n`: it has been handed over (R19, R422). -/
def Dev.accepted (d : Dev) (n : Nat) : Bool := !d.sn.net.any fun r => r.seq.toNat == n

/-- Whether the unit may acknowledge an applied posting (R311). -/
def Dev.mayAck (d : Dev) (a : Applied) : Bool := match a.seq with | some n => d.accepted n | none => true

/-- The acknowledgement of an applied posting. -/
def ackOf (a : Applied) : Ack := { id := a.p.id, who := a.p.who, status := a.status, old := a.old, seq := a.seq }

/-! ## Issue -/

/-- Drain the stores to a posting's 16-cell block first (R315). -/
def drainBlock (c : Nat) (loc : MemLoc) : M Unit := do
  let blocks := loc.cells.map (·.addr / 16)
  let sb := (← getCore c).sbuf
  drainN c (sb.length - (sb.reverse.takeWhile fun e => !blocks.contains e.block).length)

/-- A FENCED device sends no posting (R443). -/
def Dev.fenced (d : Dev) : Bool := d.fld offSNSTAT 31 28 == 6

/-- Most postings that a core may have awaiting acknowledgement (R312). -/
def maxPosts : Nat := 32

/-- Send a posting of core `c` to checked cells (R312): it waits while 32 are outstanding. -/
def sendPost (c op ty : Nat) (loc : MemLoc) (x y : List Cell) (gs gr lockGc : Option Nat) : M Unit := do
  drainBlock c loc
  let d ← get
  let k := d.core c
  if maxPosts ≤ k.posts.length || d.fenced then waitM
  let id := d.nextPost
  let slot := if k.plev = 0 then k.runSlot else none
  let p0 : PLoc := loc.cells.headD { addr := 0 }
  let post : CorePost := { id := id, slot := slot, bank := k.bankNo, gs := gs, gr := gr, lockGc := lockGc, release := op == 6,
                           first := p0.addr, n := loc.cells.length }
  let k := { k with posts := k.posts ++ [post] }
  let k := match slot with
    | some s => k.setSlot s { k.slot s with posts := (k.slot s).posts + 1 }
    | none => k
  let p : Posting := { id := id, who := .core c, op := BitVec.ofNat 4 op, ty := BitVec.ofNat 2 ty, dsm := k.dsm, x := x, y := y,
                       loc := p0, jr := loc.jr, segtag := loc.segtag, world := k.world }
  set (({ d with nextPost := id + 1 }.setCore c k).launch p)

/-- G registers that the mode 4 or 5 specifiers of a list update. -/
def updRegs (ss : List Spec) : List Nat := (ss.filter fun p => p.mode == 4 || p.mode == 5).map (·.reg.toNat)

/-- An instruction of row 0o24x as fetched. -/
def postIns (c op : Nat) (ob : BitVec 6) (ss : List Spec) : Ins := { c := c, op := op, ob := ob.toNat, specs := ss }

/-- The type field (R76). -/
def postTy (ob : BitVec 6) : Nat := ob.toNat / 16
/-- G`s` (R303). -/
def postGs (ob : BitVec 6) : Nat := ob.toNat % 16

/-- Finish a posting instruction at operand `i` = `d` (R304, R305): the location's checks, status 5 at once when it is not aligned,
else the posting is sent. -/
def postTo (c i op : Nat) (ob : BitVec 6) (d : Spec) (x y : List Cell) (gr : Option Nat) (upd : AMap Word) : M Done := do
  let n := postCells (postTy ob)
  let (loc, _, upd) ← memOpd c i n .posting d upd
  commitUpd c upd
  if firstCell loc % n ≠ 0 then setStatus c (postGs ob)
  else sendPost c op (postTy ob) loc x y (some (postGs ob)) gr none
  return {}
where
  /-- Physical address of the first cell; its alignment is the linear address's. -/
  firstCell (loc : MemLoc) : Nat := match loc.cells with | p :: _ => p.addr | [] => 0
  /-- Write status 5. -/
  setStatus (c r : Nat) : M Unit := modCore c fun k => k.setG r 5

/-- PADD. -/
def execPadd (c : CoreId) (ob : BitVec 6) (a d : Spec) : State → Host.Outcome State Fault Refusal :=
  instr (postIns c 0o240 ob [a, d]) do
    need (decide (postTy ob ≤ 1) && okMem a && okMem d && !(updRegs [a, d]).contains (postGs ob)) illegal
    let _ ← rdG c (postGs ob)
    let (x, upd) ← srcCells c 1 (postCells (postTy ob)) a []
    postTo c 2 0 ob d x [] none upd

/-- PADF. -/
def execPadf (c : CoreId) (ob : BitVec 6) (a f d : Spec) : State → Host.Outcome State Fault Refusal :=
  instr (postIns c 0o241 ob [a, f, d]) do
    need (decide (postTy ob ≤ 1) && okMem a && okMem f && okMem d && !(updRegs [a, f, d]).contains (postGs ob)) illegal
    let _ ← rdG c (postGs ob)
    let (x, upd) ← srcCells c 1 (postCells (postTy ob)) a []
    let (y, upd) ← srcCells c 2 (postCells (postTy ob)) f upd
    postTo c 3 1 ob d x y none upd

/-- PSWP. -/
def execPswp (c : CoreId) (ob : BitVec 6) (r d : Spec) : State → Host.Outcome State Fault Refusal :=
  instr (postIns c 0o242 ob [r, d]) do
    let u := updRegs [d]
    need (postTy ob == 2 && okReg r && okMem d && r.reg.toNat != postGs ob && !u.contains (postGs ob) &&
          !u.contains r.reg.toNat) illegal
    let _ ← rdG c (postGs ob)
    let x ← rdG c r.reg.toNat
    postTo c 2 2 ob d (wordCells x) [] (some r.reg.toNat) []

/-- PCAS. -/
def execPcas (c : CoreId) (ob : BitVec 6) (e n d : Spec) : State → Host.Outcome State Fault Refusal :=
  instr (postIns c 0o243 ob [e, n, d]) do
    let u := updRegs [n, d]
    need (postTy ob == 2 && okReg e && okIntSrc 4 n && okMem d && e.reg.toNat != postGs ob && !u.contains (postGs ob) &&
          !u.contains e.reg.toNat) illegal
    let _ ← rdG c (postGs ob)
    let y ← rdG c e.reg.toNat
    let (x, upd) ← srcCells c 2 4 n []
    postTo c 3 3 ob d x (wordCells y) (some e.reg.toNat) upd

/-- PBAD. -/
def execPbad (c : CoreId) (ob : BitVec 6) (a d : Spec) : State → Host.Outcome State Fault Refusal :=
  instr (postIns c 0o244 ob [a, d]) do
    let n := postCells (postTy ob)
    need (decide (2 ≤ postTy ob) && okIntSrc n a && okMem d && !(updRegs [a, d]).contains (postGs ob)) illegal
    let _ ← rdG c (postGs ob)
    let (x, upd) ← srcCells c 1 n a []
    postTo c 2 4 ob d x [] none upd

/-! ## Locks (R313, R314) -/

/-- The tag of the code that runs on core `c` (R313, R217). -/
def lockTag (k : Core) (c : Nat) : Nat := 2 ^ 35 + flagNat k.world * 2 ^ 34 + c * 2 ^ 27 + k.identity * 2 ^ 20

/-- Whether a lock word can be a lock: aligned, in local device memory, on no side-effect page (R314). -/
def Dev.lockable (d : Dev) (loc : MemLoc) : Bool :=
  match loc.cells with
  | p :: _ => p.addr % 4 == 0 && (d.region p.addr == .localMem) && loc.cells.all fun q => !q.se
  | [] => false

/-- LKT: G`c` may be a register that `lk` updates (R304): the answer is written over the update. Its answer comes with the acknowledgement, and the core executes nothing before. -/
def execLkt (c : CoreId) (ob : BitVec 6) (lk g : Spec) : State → Host.Outcome State Fault Refusal :=
  instr (postIns c 0o245 ob [lk, g]) do
    need (ob == 0 && okMem lk && okReg g) illegal
    let _ ← rdG c g.reg.toNat
    let (loc, _, upd) ← memOpd c 1 4 .lock lk []
    commitUpd c upd
    if (← get).lockable loc then
      sendPost c 5 2 loc (natCells 4 (lockTag (← getCore c) c)) (natCells 4 0) none none (some g.reg.toNat)
    else wrG c g.reg.toNat 3
    return {}

/-- LKR: it waits as FENCE does, then releases. -/
def execLkr (c : CoreId) (ob : BitVec 6) (lk : Spec) : State → Host.Outcome State Fault Refusal :=
  instr (postIns c 0o246 ob [lk]) do
    need (ob == 0 && okMem lk) illegal
    storesVisible c
    let d ← get
    if (d.core c).posts.any fun p => !d.postAccepted p then waitM
    let (loc, _, upd) ← memOpd c 1 4 .lock lk []
    commitUpd c upd
    let tag := lockTag (← getCore c) c
    if (← get).lockable loc then sendPost c 6 2 loc (natCells 4 0) (natCells 4 tag) none none none
    else modify fun d => d.logEvent 0x18 1 c 1 (match loc.cells with | p :: _ => p.addr | [] => 0) tag
    return {}

/-! ## Statuses return (R312, R305) -/

/-- Write the status, old value or lock answer of an acknowledged posting, and count it. -/
def Dev.returnStatus (d : Dev) (c : Nat) (p : CorePost) (a : Ack) : Dev :=
  let st := a.status.toNat
  let upd (k : Core) : Core :=
    let k := match p.gs with | some s => k.setGAt p.bank s (BitVec.ofNat 36 st) | none => k
    let k := match p.gr with | some r => if st = 0 ∨ st = 4 then k.setGAt p.bank r (cellsWord a.old) else k | none => k
    { k with posts := k.posts.filter (·.id != p.id), twinSeq := Nat.max k.twinSeq (a.seq.getD 0) }
  let d := d.updCore c upd
  let d := match p.lockGc with
    | some g =>
      let tag := natCells 4 (lockTag (d.core c) c)
      let k := d.core c
      (d.setCore c (k.setGAt p.bank g (lockAnswer d.free st tag a.old))).bumpFree
    | none => d
  match p.slot with
  | some s => d.postDone c s
  | none => d

/-- POSTING_STATUS_RETURN: the oldest acknowledgement on its way to core `c` reaches it. -/
def execPostingStatusReturn (c : CoreId) : State → Host.Outcome State Fault Refusal :=
  onDev fun d =>
    match d.ackNet.find? fun a => a.who == .core c with
    | none => d
    | some a =>
      let d := { d with ackNet := d.ackNet.erase a }
      match (d.core c).posts.find? (·.id == a.id) with
      | none => d
      | some p => d.returnStatus c p a

end Sys2Proof.Machine
end

