-- ==== Sys2Proof/Machine/Events.lean ====
section
/-!
DEFINITION. What happens to a ledger core from outside its instruction stream: requests and their acceptance (R199 to R222),
scheduler events and signals (R225 to R229), the change to deterministic mode (R252), the store buffer's drain (R243), line-buffer
fills (R238, R239), table walks, invalidations and aging (R341, R349, R352).
-/

namespace Sys2Proof.Machine

/-- INTERRUPT_REQUEST_ARRIVAL (R222): the oldest request on its way to core `c` reaches it. -/
def execInterruptRequestArrival (c : CoreId) : State → Host.Outcome State Fault Refusal :=
  onDev fun d =>
    match d.irqNet.find? (·.1 == c.val) with
    | none => d
    | some r =>
      let d := { d with irqNet := d.irqNet.erase r }
      (d.updCore c fun k => { k with reqs := k.reqs ++ [r.2] }).wakeIdle c

/-- Whether request `a` is taken before request `b` (R214). -/
def reqBefore (a b : IrqReq) : Bool := decide (b.level < a.level) || (a.level == b.level && decide (a.source < b.source))

/-- The request of a list that is taken first. -/
def bestReq : List IrqReq → Option IrqReq
  | [] => none
  | a :: t =>
    match bestReq t with
    | none => some a
    | some b => some (if reqBefore b a then b else a)

/-- Whether core `c` is at a point at which events are taken (R214): nothing runs beside the pipe (R91), no read is outstanding
(R250), no lock answer is awaited (R314), and the core is not halted. -/
def Dev.atPoint (d : Dev) (c : Nat) : Bool :=
  let k := d.core c
  d.active && k.started && !k.checkstop && !k.fenced && !k.microStall && !k.detWait && !d.islandDown (c / 8) && !d.bit (offISLCLK (c / 8)) 9 &&
  !d.halted c && k.beside.isEmpty && (k.entry.isSome || k.ext.isEmpty) && !(k.posts.any (·.lockGc.isSome))

/-- What the bank-overflow trap reports in INFO1 (R231). -/
def Overflow.info1 (o : Overflow) : Nat := o.slot + o.vict * 2 ^ 8 + o.bank * 2 ^ 16 + flagNat o.spill * 2 ^ 18

/-- An entry has been made: a request's PEND clears (R222), and a bank-overflow trap no longer waits. -/
def Dev.entered (d : Dev) (c : Nat) (v : Delivery) : Dev :=
  if v.irq then
    (d.updCore c fun k => { k with reqs := k.reqs.eraseP (·.source == v.info0) }).setBit (offISRC v.info0) 63 false
  else if v.vec = 24 then d.updCore c fun k => { k with ovf := none } else d

/-- Perform an entry on a device; one that reads from outside the device stays under way. -/
def Dev.enter (d : Dev) (c : Nat) (v : Delivery) : Dev :=
  match (deliver c v : M Unit) d with
  | (.ok (), d') => ((d'.entered c v).updCore c fun k => { k with entry := none, ext := [] }).endStep c
  | (.error .hold, d') => d'.updCore c fun k => { k with entry := some v }
  | (.error _, _) => d

/-- The entry for request `r` (R205 to R207, R222). -/
def Core.reqDelivery (k : Core) (r : IrqReq) : Delivery :=
  { vec := r.vector, world := r.world, level := some r.level, irq := true, spc := k.pc, fpc := k.pc, info0 := r.source,
    micro := k.micro }

/-- The entry for the highest request that R199 accepts. -/
def Core.dueRequest (k : Core) : Option Delivery :=
  (bestReq (k.reqs.filter fun r => k.accepts r.level)).map k.reqDelivery

/-- The entry for the bank-overflow trap, which announces the banks as they now stand: none when its slot no longer waits for one
(R231). -/
def Dev.dueOverflow (d : Dev) (c : Nat) : Option Delivery :=
  let k := d.core c
  match k.ovf with
  | some o =>
    let x := k.slot o.slot
    if k.accepts 6 && x.valid && x.st == .ready && !x.res then
      (d.overflowFor c o.slot x.world).map fun o =>
        { vec := 24, world := x.world, level := some 6, spc := k.pc, fpc := k.pc, info0 := flagNat o.spill * 2 ^ 28,
          info1 := o.info1, micro := k.micro }
    else none
  | none => none

/-- What takes over an entry under way for an event of level `l`: a request, or the bank-overflow trap, of a level above it
(R249). An entry for a synchronous event always completes (R214). -/
def takeOver (v : Delivery) (ovf req : Option Delivery) : Delivery :=
  match v.level with
  | none => v
  | some l =>
    let above (x : Delivery) : Bool := decide (l < x.level.getD 0)
    match req.filter above, ovf.filter above with
    | some r, some o => if 6 < r.level.getD 0 then r else o
    | some r, none => r
    | none, some o => o
    | none, none => v

/-- Accept the first event in the order of R214: the bank-overflow trap (R231), else the highest request; an entry under way goes
on, or is taken over (R249). After an entry, the handler's first instruction comes first. -/
def Dev.acceptEvent (d : Dev) (c : Nat) : Dev :=
  let k := d.core c
  let ovf := d.dueOverflow c
  match k.entry with
  | some v => d.enter c (takeOver v ovf k.dueRequest)
  | none =>
    if k.fresh then d
    else
      let d := if k.accepts 6 && ovf.isNone then d.updCore c fun k => { k with ovf := none } else d
      match ovf, k.dueRequest with
      | some v, _ => d.enter c v
      | none, some v => d.enter c v
      | none, none => d.dispatch c

/-- INTERRUPT_ACCEPT (R214). -/
def execInterruptAccept (c : CoreId) : State → Host.Outcome State Fault Refusal :=
  onDev fun d => if d.atPoint c then d.acceptEvent c else d

/-- SCHEDULER_EVENT (R225). -/
def execSchedulerEvent (c : CoreId) (slot : SlotId) (ev : Fin 5) (seqno : Nat) : State → Host.Outcome State Fault Refusal :=
  onDev fun d => if d.active then d.schedEvent c slot ev seqno else d

/-- Time for which a forwarding entry holds (R367). -/
def Dev.fwdTime (d : Dev) : Nat := d.fld offCLCTL 31 24 * 64000

/-- A signal at its target core (R227): forwarded when the slot has moved (R367); discarded and recorded when the slot is not
VALID, or is custody and the sender ledger. -/
def Dev.signal (d : Dev) (s : Signal) : Dev :=
  let x := (d.core s.core).slot s.slot
  match (d.core s.core).fwd.find? fun f => f.slot == s.slot && decide (d.now ≤ f.time + d.fwdTime) with
  | some f => { d with sigNet := d.sigNet ++ [{ s with core := f.core, slot := f.newSlot }] }
  | none =>
  if x.world && !s.fromCustody then d.logEvent 0x17 1 s.core 0 0 (s.slot * 256 + 4)
  else d.schedEvent s.core s.slot 4 d.now

/-- SIGNAL_ARRIVAL (R227). -/
def execSignalArrival (c : CoreId) : State → Host.Outcome State Fault Refusal :=
  onDev fun d =>
    match d.sigNet.find? (·.core == c.val) with
    | none => d
    | some s => { d with sigNet := d.sigNet.erase s }.signal s

/-- PREEMPT (R228, R229): a ready slot of higher priority takes the core at an instruction boundary. -/
def execPreempt (c : CoreId) : State → Host.Outcome State Fault Refusal :=
  onDev fun d =>
    let k := d.core c
    if d.runs c && d.atPoint c && !k.eventDue && k.micro.isNone && d.preemptDue c then (d.setCore c k.yieldTask).dispatch c else d

/-- DET_MODE_ENTER (R252). -/
def execDetModeEnter (c : CoreId) : State → Host.Outcome State Fault Refusal :=
  onDev fun d =>
    let k := d.core c
    if k.detWait && k.beside.isEmpty && k.sbuf.isEmpty then
      d.setCore c { k.setStat 26 26 1 with l1 := [], btb := [], lbuf := [], detWait := false }
    else d

/-- STORE_BUFFER_DRAIN (R243). -/
def execStoreBufferDrain (c : CoreId) : State → Host.Outcome State Fault Refusal :=
  onDev fun d => if d.active then (d.drainOne c).getD d else d

/-! ## Line buffers and the code cache (R238, R239) -/

/-- Lines of the set of `line` in a code cache of 4,096 sets. -/
def ccSet (cc : List (Nat × Nat)) (line : Nat) : List (Nat × Nat) := cc.filter fun e => e.1 % 4096 == line % 4096

/-- Whether way `w` of island `i`'s code cache is fenced (R457). -/
def Dev.deadWay (d : Dev) (i w : Nat) : Bool :=
  d.hub.fenced.any fun u => match u with | .islandEntry k .codeWay n => k.val == i && n % 8 == w | _ => false

/-- The way of its set that a line is filled into (R238, R239): with PINFILL 1 a free pinned way; else an unpinned way, a free one or
the least recently used. -/
def Dev.ccWay (d : Dev) (i : Nat) (set : List (Nat × Nat)) : Option Nat :=
  let pinw := d.fld (offCCPIN i) 2 0
  let free (w : Nat) : Bool := !d.deadWay i w && !set.any (·.2 == w)
  let pin := if d.bit (offCCPIN i) 8 then (upto pinw).find? free else none
  match pin, (fromN pinw (8 - pinw)).find? free with
  | some w, _ => some w
  | none, some w => some w
  | none, none => ((set.filter fun e => decide (pinw ≤ e.2)).getLast?).map (·.2)

/-- Fill a line into an island's code cache of eight ways, in front of the others of its set (R238, R239). -/
def Dev.ccFill (d : Dev) (i line : Nat) : Dev :=
  let cc := (d.isl i).ccache
  match cc.find? (·.1 == line) with
  | some e => d.updIsl i fun x => { x with ccache := e :: cc.filter (·.1 != line) }
  | none =>
    match d.ccWay i (ccSet cc line) with
    | some w =>
      d.updIsl i fun x => { x with ccache := (line, w) :: cc.filter fun e => !(e.1 % 4096 == line % 4096 && e.2 == w) }
    | none => d

/-- Put a line buffer at the front of eight, less the `lost` fenced ones (R238, R457). -/
def Core.putLine (k : Core) (lost : Nat) (b : LineBuf) : Core :=
  { k with lbuf := (b :: k.lbuf.filter fun x => !(x.world == b.world && x.line == b.line)).take (8 - lost) }

/-- A line-buffer fill (R238): translation through the island TLB with the code root; a fault is kept with the buffer, and so is
the poison of a line read from memory, which the code cache does not keep; a prefetch makes no fill that touches a side-effect page.
A demand for a line that a buffer holds is a use of it. -/
def Dev.fillLine (d : Dev) (c : Nat) (world : Bool) (line : Nat) (demand : Bool) : Dev :=
  let k := d.core c
  if k.lbuf.any fun b => b.world == world && b.line == line then (if demand then d.setCore c (k.useLine world line) else d)
  else
    let q : TrReq := { world := world, code := true, sup := k.sup, page := 64 * line / 4096, acc := .fetch, spec := !demand }
    match d.translate (c / 8) none q with
    | (_, .error ⟨0, _, _⟩) => d
    | (d, .error f) =>
      if f.cause = 4 && !demand then d
      else d.updCore c fun k => k.putLine (d.lostCore c .lineBuffer) { world := world, line := line, fault := some f }
    | (d, .ok e) =>
      let p : PLoc := { addr := e.frame * 4096 + 64 * line % 4096, pol := e.pol }
      let hit := (d.isl (c / 8)).ccache.any (·.1 == p.addr / 64)
      let d := if hit then d else d.lineRead p
      let bad := !hit && d.poisoned p
      let d := if bad then d else d.ccFill (c / 8) (p.addr / 64)
      d.updCore c fun k => k.putLine (d.lostCore c .lineBuffer) { world := world, line := line, fault := none, poison := bad }

/-- LINE_BUFFER_FILL (R238). -/
def execLineBufferFill (c : CoreId) (world : Bool) (line : BitVec 31) (demand : Bool) : State → Host.Outcome State Fault Refusal :=
  onDev fun d => if d.active && (d.core c).started then d.fillLine c world line.toNat demand else d

/-! ## Walkers, invalidations, aging -/

/-- TABLE_WALK (R341). -/
def execTableWalk (i : IslandId) (q : WalkReq) : State → Host.Outcome State Fault Refusal :=
  onDev fun d =>
    let c := 8 * i.val + q.core.val
    let k := d.core c
    let r : TrReq := { world := q.world, code := accCode q.acc, sup := q.sup, page := q.page.toNat, acc := q.acc,
                       segKey := q.segKey.toNat, pkr := (k.wr q.world).pkr.toNat, spec := q.speculative }
    if d.active && !d.islandDown i then
      match d.walkInstall i (if accCode q.acc then none else some c) r with
      | (_, .error ⟨0, _, _⟩) => d
      | (d, _) => d
    else d

/-- INVALIDATION_ARRIVAL (R349): the oldest invalidation on its way to island `i` is applied there. -/
def execInvalidationArrival (i : IslandId) : State → Host.Outcome State Fault Refusal :=
  onDev fun d =>
    match (d.isl i).inv with
    | [] => d
    | v :: t => (d.applyInval i v).updIsl i fun x => { x with inv := t }

/-- EPOCH_AGING (R352). -/
def execEpochAging (i : IslandId) : State → Host.Outcome State Fault Refusal := onDev fun d => d.ageIsland i

end Sys2Proof.Machine
end

