-- ==== Sys2Proof/Machine/FloatFmt.lean ====
section
/-!
DEFINITION. IEEE 754-2019 binary64 and decimal128 (R39, R40, R167 to R178): encodings, rounding, and the operations on exact
numbers.
-/

namespace Sys2Proof.Machine

/-- A floating datum: a finite number `coef` × radix^`exp`, an infinity, or a NaN with its payload. -/
inductive Fp where
  | fin (neg : Bool) (coef : Nat) (exp : Int)
  | inf (neg : Bool)
  | nan (neg sig : Bool) (payload : Nat)
  deriving DecidableEq, Repr

/-- Sign of a datum. -/
def Fp.neg : Fp → Bool
  | .fin s _ _ => s
  | .inf s => s
  | .nan s _ _ => s

/-- A signaling NaN. -/
def Fp.isSig : Fp → Bool
  | .nan _ s _ => s
  | _ => false

/-- A NaN. -/
def Fp.isNan : Fp → Bool
  | .nan _ _ _ => true
  | _ => false

/-- An infinity. -/
def Fp.isInf : Fp → Bool
  | .inf _ => true
  | _ => false

/-- A zero. -/
def Fp.isZero : Fp → Bool
  | .fin _ 0 _ => true
  | _ => false

/-- An exact magnitude before rounding: between `m` and `m + 1` units of radix^`e` when `sticky`, else `m` units. -/
structure Exact where
  neg : Bool
  m : Nat
  e : Int
  sticky : Bool := false
  deriving DecidableEq, Repr

/-- Whether rounding raises a magnitude by one unit: `odd` of the kept part, the discarded part against one half
(0 zero, 1 below, 2 equal, 3 above), in rounding code `rm` (R55). -/
def roundUp (rm : Nat) (neg odd : Bool) (part : Nat) : Bool :=
  match rm with
  | 0 => part == 3 || (part == 2 && odd)
  | 1 => false
  | 2 => !neg && part != 0
  | 3 => neg && part != 0
  | _ => decide (2 ≤ part)

/-- The discarded part of `m` at unit `u`, with a sticky part below. -/
def discarded (m u : Nat) (sticky : Bool) : Nat :=
  let r := m % u
  if u = 1 then (if sticky then 1 else 0)
  else if r = 0 ∧ !sticky then 0
  else if 2 * r < u then 1
  else if 2 * r = u ∧ !sticky then 2
  else 3

/-- Round `x` to units of radix^`q`, `q` at or above its exponent: the kept coefficient and whether it is inexact. -/
def roundAt (radix rm : Nat) (x : Exact) (q : Int) : Nat × Bool :=
  let u := radix ^ (q - x.e).toNat
  let part := discarded x.m u x.sticky
  let c := x.m / u
  (if roundUp rm x.neg (c % 2 == 1) part then c + 1 else c, part != 0)

/-- Whether an overflow rounds to infinity rather than to the largest number (R175). -/
def toInf (rm : Nat) (neg : Bool) : Bool := rm == 0 || rm == 4 || (rm == 2 && !neg) || (rm == 3 && neg)

/-- Flags of a floating result. -/
def inexactF : Nat := 2 ^ fFIX
def invalidF : Nat := 2 ^ fFIV
def divZeroF : Nat := 2 ^ fFDZ
def overF : Nat := 2 ^ fFOF + 2 ^ fFIX
def underF : Nat := 2 ^ fFUF + 2 ^ fFIX

/-! ## binary64 -/

/-- Bits of a number. -/
def bitLen (m : Nat) : Nat := if m = 0 then 0 else m.log2 + 1

/-- Decode binary64 (R39). -/
def b64Dec (v : Nat) : Fp :=
  let s := bitOf v 63
  let e := bitsOf v 62 52
  let f := bitsOf v 51 0
  if e = 2047 then (if f = 0 then .inf s else .nan s (!bitOf v 51) f)
  else if e = 0 then .fin s f (-1074) else .fin s (2 ^ 52 + f) ((e : Int) - 1075)

/-- The default quiet NaN of binary64 (R173). -/
def b64Nan : Nat := 0x7FF8000000000000

/-- Encode a finite binary64 whose coefficient has at most 53 bits. -/
def b64Fin (neg : Bool) (c : Nat) (q : Int) : Nat :=
  flagNat neg * 2 ^ 63 + (if c < 2 ^ 52 then c else ((q + 1075).toNat) * 2 ^ 52 + (c - 2 ^ 52))

/-- Encode a datum in binary64, exact. -/
def b64Enc : Fp → Nat
  | .fin s c e => b64Fin s c e
  | .inf s => flagNat s * 2 ^ 63 + 2047 * 2 ^ 52
  | .nan s _ p => flagNat s * 2 ^ 63 + 2047 * 2 ^ 52 + (p ||| 2 ^ 51)

/-- Round to binary64 (R171, R174, R175): the encoding and its flags. -/
def b64Round (rm : Nat) (x : Exact) : Nat × Nat :=
  if x.m = 0 ∧ !x.sticky then (flagNat x.neg * 2 ^ 63, 0)
  else
    let q0 := x.e + bitLen x.m - 53
    let q := max q0 (-1074)
    if q ≤ x.e ∧ !x.sticky then
      let c := x.m * 2 ^ (x.e - q).toNat
      if q > 971 then ((flagNat x.neg * 2 ^ 63 + if toInf rm x.neg then 2047 * 2 ^ 52 else 2047 * 2 ^ 52 - 1), overF)
      else (b64Fin x.neg c q, 0)
    else
      let (c, inex) := roundAt 2 rm x q
      let (c, q) := if c = 2 ^ 53 then (2 ^ 52, q + 1) else (c, q)
      if q > 971 then ((flagNat x.neg * 2 ^ 63 + if toInf rm x.neg then 2047 * 2 ^ 52 else 2047 * 2 ^ 52 - 1), overF)
      else
        let tiny := decide (q0 < -1074) && (let (cu, _) := roundAt 2 rm x q0; decide (q0 < -1075) || decide (cu < 2 ^ 53))
        (b64Fin x.neg c q, if inex then (if tiny then underF else inexactF) else 0)

/-! ## decimal128 -/

/-- Digits of a declet (IEEE 754-2019 table 3.3). -/
def dpdDec (w : Nat) : Nat :=
  let b (k : Nat) : Nat := w / 2 ^ k % 2
  let pqr := bitsOf w 9 7
  let stu := bitsOf w 6 4
  let wxy := bitsOf w 2 0
  let pq (x : Nat) : Nat := 4 * b 9 + 2 * b 8 + x
  let (d1, d2, d3) :=
    if b 3 = 0 then (pqr, stu, wxy)
    else match bitsOf w 2 1 with
      | 0 => (pqr, stu, 8 + b 0)
      | 1 => (pqr, 8 + b 4, 4 * b 6 + 2 * b 5 + b 0)
      | 2 => (8 + b 7, stu, pq (b 0))
      | _ => match bitsOf w 6 5 with
        | 0 => (8 + b 7, 8 + b 4, pq (b 0))
        | 1 => (8 + b 7, pq (b 4), 8 + b 0)
        | 2 => (pqr, 8 + b 4, 8 + b 0)
        | _ => (8 + b 7, 8 + b 4, 8 + b 0)
  100 * d1 + 10 * d2 + d3

/-- The canonical declet of a number below 1,000. -/
def dpdEnc (n : Nat) : Nat :=
  let a := n / 100
  let b := n / 10 % 10
  let c := n % 10
  let hi (x : Nat) : Bool := decide (8 ≤ x)
  let l (x : Nat) : Nat := x % 2
  match hi a, hi b, hi c with
  | false, false, false => a * 128 + b * 16 + c
  | false, false, true => a * 128 + b * 16 + 8 + l c
  | false, true, false => a * 128 + c / 2 * 32 + l b * 16 + 10 + l c
  | true, false, false => c / 2 * 256 + l a * 128 + b * 16 + 12 + l c
  | true, true, false => c / 2 * 256 + l a * 128 + l b * 16 + 14 + l c
  | true, false, true => b / 2 * 256 + l a * 128 + 32 + l b * 16 + 14 + l c
  | false, true, true => a * 128 + 64 + l b * 16 + 14 + l c
  | true, true, true => l a * 128 + 96 + l b * 16 + 14 + l c

/-- The number of `n` declets, most significant first. -/
def decletsNat : Nat → Nat → Nat
  | 0, _ => 0
  | n + 1, v => dpdDec (v / 1024 ^ n % 1024) * 1000 ^ n + decletsNat n v

/-- `n` canonical declets of a number. -/
def natDeclets : Nat → Nat → Nat
  | 0, _ => 0
  | n + 1, v => dpdEnc (v / 1000 ^ n % 1000) * 1024 ^ n + natDeclets n v

/-- Decode decimal128 in its DPD form (R40, R176); a NaN's payload that is not canonical becomes 0 (R173). -/
def d128Dec (v : Nat) : Fp :=
  let s := bitOf v 127
  let t := bitsOf v 109 0
  let lo := bitsOf v 121 110
  match bitsOf v 126 122 with
  | 31 => .nan s (bitOf v 121) (if natDeclets 11 (decletsNat 11 t) = t then t else 0)
  | 30 => .inf s
  | g =>
    let (top, lead) := if 24 ≤ g then (g / 2 % 4, 8 + g % 2) else (g / 8, g % 8)
    .fin s (lead * 10 ^ 33 + decletsNat 11 t) (((top * 4096 + lo : Nat) : Int) - 6176)

/-- The default quiet NaN of decimal128 (R173). -/
def d128Nan : Nat := 0x7C000000000000000000000000000000

/-- Encode a datum in decimal128, exact and canonical; a NaN comes out quiet. -/
def d128Enc : Fp → Nat
  | .fin s c e =>
    let be := (e + 6176).toNat
    let lead := c / 10 ^ 33
    let g := if lead ≤ 7 then be / 4096 * 8 + lead else 24 + be / 4096 * 2 + lead % 2
    flagNat s * 2 ^ 127 + g * 2 ^ 122 + be % 4096 * 2 ^ 110 + natDeclets 11 (c % 10 ^ 33)
  | .inf s => flagNat s * 2 ^ 127 + 30 * 2 ^ 122
  | .nan s _ p => flagNat s * 2 ^ 127 + 31 * 2 ^ 122 + p

/-- Decimal digits of a number below 10^`fuel`. -/
def decLen (fuel m : Nat) : Nat := sigDigits fuel m

/-- Fuel for counting digits of an exact intermediate: bits bound digits. -/
def digitsOf (m : Nat) : Nat := decLen (bitLen m) m

/-- Strip up to `n` trailing decimal zeros: what is left and how many went. -/
def stripZeros : Nat → Nat → Nat × Nat
  | 0, c => (c, 0)
  | n + 1, c => if c % 10 = 0 then let (r, k) := stripZeros n (c / 10); (r, k + 1) else (c, 0)

/-- Move an exact coefficient's exponent toward the preferred one (R176), within 34 digits and the format's range. -/
def prefer (c : Nat) (q pref : Int) : Nat × Int :=
  if q < pref then
    let (c', k) := stripZeros (Nat.min (pref - q).toNat 34) c
    (c', q + k)
  else
    let room := 34 - digitsOf c
    let k := Nat.min room (q - pref).toNat
    (c * 10 ^ k, q - k)

/-- Round to decimal128 with preferred exponent `pref` (R171, R174 to R176). -/
def d128Round (rm : Nat) (x : Exact) (pref : Int) : Nat × Nat :=
  let ovf : Nat × Nat := (if toInf rm x.neg then d128Enc (.inf x.neg) else d128Enc (.fin x.neg (10 ^ 34 - 1) 6111), overF)
  if x.m = 0 ∧ !x.sticky then (d128Enc (.fin x.neg 0 (max (-6176) (min pref 6111))), 0)
  else
    let q0 := x.e + digitsOf x.m - 34
    let q := max q0 (-6176)
    if q ≤ x.e ∧ !x.sticky then
      let (c, q) := prefer x.m x.e (max (-6176) (min pref 6111))
      if q > 6111 then ovf else (d128Enc (.fin x.neg c q), 0)
    else
      let (c, inex) := roundAt 10 rm x q
      let (c, q) := if c = 10 ^ 34 then (10 ^ 33, q + 1) else (c, q)
      if !inex then
        let (c, q) := prefer c q (max (-6176) (min pref 6111))
        if q > 6111 then ovf else (d128Enc (.fin x.neg c q), 0)
      else if q > 6111 then ovf
      else
        let tiny := decide (q0 < -6176) && (let (cu, _) := roundAt 10 rm x q0; decide (q0 < -6177) || decide (cu < 10 ^ 34))
        (d128Enc (.fin x.neg c q), if tiny then underF else inexactF)

/-! ## Operations, in either format -/

/-- A format: its radix, encoding, default NaN and rounding with a preferred exponent. -/
inductive FpFmt where
  | b64 | d128
  deriving DecidableEq, Repr

def FpFmt.radix : FpFmt → Nat
  | .b64 => 2
  | .d128 => 10

def FpFmt.dec (f : FpFmt) (v : Nat) : Fp :=
  match f with
  | .b64 => b64Dec v
  | .d128 => d128Dec v

def FpFmt.enc (f : FpFmt) (x : Fp) : Nat :=
  match f with
  | .b64 => b64Enc x
  | .d128 => d128Enc x

def FpFmt.qnan : FpFmt → Nat
  | .b64 => b64Nan
  | .d128 => d128Nan

def FpFmt.round (f : FpFmt) (rm : Nat) (x : Exact) (pref : Int) : Nat × Nat :=
  match f with
  | .b64 => b64Round rm x
  | .d128 => d128Round rm x pref

/-- Cells of a memory operand of a format (R168). -/
def FpFmt.cells : FpFmt → Nat
  | .b64 => 8
  | .d128 => 16

/-- The NaN result of operands of which one is a NaN (R173): the first, made quiet, and FIV for a signaling one. -/
def nanResult (f : FpFmt) (xs : List Fp) : Option (Nat × Nat) :=
  (xs.find? Fp.isNan).map fun x => (f.enc x, if xs.any Fp.isSig then invalidF else 0)

/-- An invalid operation without a NaN operand (R173). -/
def invalidResult (f : FpFmt) : Nat × Nat := (f.qnan, invalidF)

/-- The exact sum of two finite numbers at the lower exponent; a zero sum's sign follows R172. -/
def exactSum (rm radix : Nat) (s1 : Bool) (c1 : Nat) (e1 : Int) (s2 : Bool) (c2 : Nat) (e2 : Int) : Exact :=
  let e := min e1 e2
  let v := signedMag (c1 * radix ^ (e1 - e).toNat) s1 + signedMag (c2 * radix ^ (e2 - e).toNat) s2
  let neg := if v = 0 then (if s1 == s2 then s1 else rm == 3) else decide (v < 0)
  { neg := neg, m := v.natAbs, e := e }

/-- Addition (R170, R172). -/
def fpAdd (f : FpFmt) (rm : Nat) (x y : Fp) : Nat × Nat :=
  match nanResult f [x, y] with
  | some r => r
  | none =>
    match x, y with
    | .inf s, .inf t => if s == t then (f.enc (.inf s), 0) else invalidResult f
    | .inf s, _ => (f.enc (.inf s), 0)
    | _, .inf t => (f.enc (.inf t), 0)
    | .fin s1 c1 e1, .fin s2 c2 e2 => f.round rm (exactSum rm f.radix s1 c1 e1 s2 c2 e2) (min e1 e2)
    | _, _ => invalidResult f

/-- Negation of a datum that is no NaN; a NaN stays. -/
def Fp.negate : Fp → Fp
  | .fin s c e => .fin (!s) c e
  | .inf s => .inf (!s)
  | x => x

/-- Subtraction. -/
def fpSub (f : FpFmt) (rm : Nat) (x y : Fp) : Nat × Nat := fpAdd f rm x y.negate

/-- Multiplication. -/
def fpMul (f : FpFmt) (rm : Nat) (x y : Fp) : Nat × Nat :=
  match nanResult f [x, y] with
  | some r => r
  | none =>
    if (x.isInf && y.isZero) || (x.isZero && y.isInf) then invalidResult f
    else match x, y with
      | .fin s1 c1 e1, .fin s2 c2 e2 => f.round rm { neg := s1 != s2, m := c1 * c2, e := e1 + e2 } (e1 + e2)
      | _, _ => (f.enc (.inf (x.neg != y.neg)), 0)

/-- Enough scaling for a quotient or root: digits or bits kept beyond the precision. -/
def FpFmt.guard : FpFmt → Nat
  | .b64 => 56
  | .d128 => 36

/-- Digits of a number in a format's radix. -/
def FpFmt.len (f : FpFmt) (m : Nat) : Nat :=
  match f with
  | .b64 => bitLen m
  | .d128 => digitsOf m

/-- Division. -/
def fpDiv (f : FpFmt) (rm : Nat) (x y : Fp) : Nat × Nat :=
  match nanResult f [x, y] with
  | some r => r
  | none =>
    let s := x.neg != y.neg
    match x, y with
    | .inf _, .inf _ => invalidResult f
    | .inf _, _ => (f.enc (.inf s), 0)
    | .fin _ _ _, .inf _ => f.round rm { neg := s, m := 0, e := 0 } (match f with | .b64 => 0 | .d128 => -6176)
    | .fin _ c1 e1, .fin _ c2 e2 =>
      if c2 = 0 then (if c1 = 0 then invalidResult f else (f.enc (.inf s), divZeroF))
      else if c1 = 0 then f.round rm { neg := s, m := 0, e := 0 } (e1 - e2)
      else
        let k := f.guard + f.len c2 - Nat.min (f.len c1) (f.guard + f.len c2)
        let n := c1 * f.radix ^ k
        f.round rm { neg := s, m := n / c2, e := e1 - e2 - k, sticky := n % c2 != 0 } (e1 - e2)
    | _, _ => invalidResult f

/-- Fused multiply and add (R173). -/
def fpFma (f : FpFmt) (rm : Nat) (x y z : Fp) : Nat × Nat :=
  let bad := (x.isInf && y.isZero) || (x.isZero && y.isInf)
  match nanResult f [x, y, z] with
  | some (v, fl) => (v, if bad then invalidF else fl)
  | none =>
    if bad then invalidResult f
    else
      let s := x.neg != y.neg
      if x.isInf || y.isInf then
        match z with
        | .inf t => if s == t then (f.enc (.inf s), 0) else invalidResult f
        | _ => (f.enc (.inf s), 0)
      else match x, y, z with
        | _, _, .inf t => (f.enc (.inf t), 0)
        | .fin _ c1 e1, .fin _ c2 e2, .fin s3 c3 e3 =>
          f.round rm (exactSum rm f.radix s (c1 * c2) (e1 + e2) s3 c3 e3) (min (e1 + e2) e3)
        | _, _, _ => invalidResult f

/-- Integer square root, bit by bit. -/
def isqrt : Nat → Nat → Nat → Nat
  | 0, _, r => r
  | b + 1, n, r => if (r + 2 ^ b) * (r + 2 ^ b) ≤ n then isqrt b n (r + 2 ^ b) else isqrt b n r

/-- Square root (R172, R175, R176). -/
def fpSqrt (f : FpFmt) (rm : Nat) (x : Fp) : Nat × Nat :=
  match nanResult f [x] with
  | some r => r
  | none =>
    match x with
    | .inf false => (f.enc (.inf false), 0)
    | .fin s 0 e => f.round rm { neg := s, m := 0, e := 0 } (e / 2)
    | .fin false c e =>
      let t := 2 * f.guard + (e % 2).toNat
      let n := c * f.radix ^ t
      let r := isqrt (bitLen n / 2 + 1) n 0
      f.round rm { neg := false, m := r, e := (e - t) / 2, sticky := r * r != n } (e / 2)
    | _ => invalidResult f

/-- Comparison of data that are no NaN: less, equal, greater as -1, 0, 1. -/
def fpCompare (f : FpFmt) (x y : Fp) : Int :=
  match x, y with
  | .fin s1 c1 e1, .fin s2 c2 e2 =>
    let e := min e1 e2
    let v := signedMag (c1 * f.radix ^ (e1 - e).toNat) s1 - signedMag (c2 * f.radix ^ (e2 - e).toNat) s2
    v.sign
  | .inf s, .inf t => if s == t then 0 else if s then -1 else 1
  | .inf s, _ => if s then -1 else 1
  | _, .inf t => if t then 1 else -1
  | _, _ => 0

/-- A predicate of FCMP and QCMP (R177): the result and FIV. -/
def fpPred (f : FpFmt) (p : Nat) (x y : Fp) : Bool × Nat :=
  let un := x.isNan || y.isNan
  let fl := if x.isSig || y.isSig || (un && (p == 1 || p == 2)) then invalidF else 0
  let r := fpCompare f x y
  let b := match p with
    | 0 => !un && r == 0
    | 1 | 4 => !un && decide (r < 0)
    | 2 | 5 => !un && decide (r ≤ 0)
    | 3 => un
    | _ => un || r != 0
  (b, fl)

/-- A finite number rounded to an integer: the magnitude and whether it is inexact. -/
def fpInt (radix rm : Nat) (neg : Bool) (c : Nat) (e : Int) : Nat × Bool :=
  if 0 ≤ e then (c * radix ^ e.toNat, false) else roundAt radix rm { neg := neg, m := c, e := e } 0

/-- Conversion to a signed integer of `w` bits (R178): the result and flags. -/
def fpToInt (f : FpFmt) (rm w : Nat) (x : Fp) : Nat × Nat :=
  let big (neg : Bool) : Nat × Nat := (if neg then 2 ^ (w - 1) else 2 ^ (w - 1) - 1, invalidF)
  match x with
  | .nan _ _ _ => (0, invalidF)
  | .inf s => big s
  | .fin s c e =>
    let (m, inex) := fpInt f.radix rm s c e
    let v := signedMag m s
    if ovSigned w v then big s else (wrap w v, if inex then inexactF else 0)

/-- Conversion from a signed integer (R178). -/
def fpOfInt (f : FpFmt) (rm : Nat) (v : Int) : Nat × Nat := f.round rm { neg := decide (v < 0), m := v.natAbs, e := 0 } 0

/-- Rounding to an integral value in the format (R178). -/
def fpIntegral (f : FpFmt) (rm : Nat) (x : Fp) : Nat × Nat :=
  match nanResult f [x] with
  | some r => r
  | none =>
    match x with
    | .fin s c e =>
      let (m, inex) := fpInt f.radix rm s c e
      if 0 ≤ e then (f.enc (.fin s c e), 0)
      else ((f.round 0 { neg := s, m := m, e := 0 } 0).1, if inex then inexactF else 0)
    | x => (f.enc x, 0)

/-- A NaN converted to the other format (R178). -/
def nanConvert (f : FpFmt) (neg sig : Bool) : Nat × Nat :=
  (f.qnan + flagNat neg * (match f with | .b64 => 2 ^ 63 | .d128 => 2 ^ 127), if sig then invalidF else 0)

/-- FCVT kind 0: binary64 to decimal128 (R178); an exact result's preferred exponent is 0 (log entry 24). -/
def b64ToD128 (rm : Nat) (x : Fp) : Nat × Nat :=
  match x with
  | .nan s g _ => nanConvert .d128 s g
  | .inf s => (d128Enc (.inf s), 0)
  | .fin s c e =>
    if 0 ≤ e then d128Round rm { neg := s, m := c * 2 ^ e.toNat, e := 0 } 0
    else d128Round rm { neg := s, m := c * 5 ^ (-e).toNat, e := e } 0

/-- FCVT kind 1: decimal128 to binary64 (R178). -/
def d128ToB64 (rm : Nat) (x : Fp) : Nat × Nat :=
  match x with
  | .nan s g _ => nanConvert .b64 s g
  | .inf s => (b64Enc (.inf s), 0)
  | .fin s c e =>
    if 0 ≤ e then b64Round rm { neg := s, m := c * 10 ^ e.toNat, e := 0 }
    else
      let den := 10 ^ (-e).toNat
      let k := 56 + bitLen den
      let n := c * 2 ^ k
      b64Round rm { neg := s, m := n / den, e := -(k : Int), sticky := n % den != 0 }

/-- QQUA (R176). -/
def fpQuantum (rm : Nat) (x y : Fp) : Nat × Nat :=
  match nanResult .d128 [x, y] with
  | some r => r
  | none =>
    match x, y with
    | .inf s, .inf _ => (d128Enc (.inf s), 0)
    | .fin s c e, .fin _ _ q =>
      let (m, inex) := if q ≤ e then (c * 10 ^ (e - q).toNat, false) else roundAt 10 rm { neg := s, m := c, e := e } q
      if 10 ^ 34 ≤ m then invalidResult .d128 else (d128Enc (.fin s m q), if inex then inexactF else 0)
    | _, _ => invalidResult .d128

end Sys2Proof.Machine
end

