-- ==== Sys2Proof/Machine/Integer.lean ====
section
/-!
DEFINITION. Integer instructions (chapter 4, rows 0o04x to 0o07x): arithmetic, moves, logic, shifts, bit fields, counts, cell
permutation, compares; and the completion of an instruction that runs beside the pipe (R91).
-/

namespace Sys2Proof.Machine

/-- Cells of the width that bits 5:4 of the opcode parcel give (R82). -/
def widthCells (ob : BitVec 6) : Nat := 2 ^ (ob.toNat / 16)

/-- Bits 3:0 of the opcode parcel are 0 (R76). -/
def lowZero (ob : BitVec 6) : Bool := ob.toNat % 16 == 0

/-- An integer instruction on `a` into `d`; `f` answers the result and the flags, from the width in bits and the operand. -/
def intUn (c op : Nat) (ob : BitVec 6) (okW : Bool) (a d : Spec) (f : Nat → Nat → Nat × Nat) :
    State → Host.Outcome State Fault Refusal :=
  instr { c := c, op := op, ob := ob.toNat, specs := [a, d] } do
    let n := widthCells ob
    need (lowZero ob && okW && okIntSrc n a && okIntDst n d) illegal
    let (x, upd) ← srcNat c 1 n a []
    let (dst, upd) ← dstOpd c 2 n d upd
    let (y, sf) := f (9 * n) x
    commitUpd c upd
    putDst c dst (natCells n y)
    return { trap := ← raiseFlags c sf }

/-- An integer instruction on `a` and `b` into `d`; `b` has the width, or is a word when `word` (R83). -/
def intBin (c op : Nat) (ob : BitVec 6) (okW word : Bool) (a b d : Spec) (f : Nat → Nat → Nat → Nat × Nat) :
    State → Host.Outcome State Fault Refusal :=
  instr { c := c, op := op, ob := ob.toNat, specs := [a, b, d] } do
    let n := widthCells ob
    let nb := if word then 4 else n
    need (lowZero ob && okW && okIntSrc n a && okIntSrc nb b && okIntDst n d) illegal
    let (x, upd) ← srcNat c 1 n a []
    let (y, upd) ← srcNat c 2 nb b upd
    let (dst, upd) ← dstOpd c 3 n d upd
    let (z, sf) := f (9 * n) x y
    commitUpd c upd
    putDst c dst (natCells n z)
    return { trap := ← raiseFlags c sf }

/-- A compare or test: 0 or 1 into all bits of G`c` (R85). -/
def intCmp (c op : Nat) (ob : BitVec 6) (a b d : Spec) (p : Nat → Nat → Nat → Bool) :
    State → Host.Outcome State Fault Refusal :=
  instr { c := c, op := op, ob := ob.toNat, specs := [a, b, d] } do
    let n := widthCells ob
    need (lowZero ob && okIntSrc n a && okIntSrc n b && okReg d) illegal
    let (x, upd) ← srcNat c 1 n a []
    let (y, upd) ← srcNat c 2 n b upd
    commitUpd c upd
    wrG c d.reg.toNat (BitVec.ofNat 36 (flagNat (p (9 * n) x y)))
    return {}

/-- An exact signed result at a width: its low bits, and OV when it does not fit (R87, R89). -/
def exactS (w : Nat) (v : Int) : Nat × Nat := (wrap w v, flagBits [(fOV, ovSigned w v)])

/-! ## Arithmetic (R87 to R89) -/

/-- ADD. -/
def execAdd (c : CoreId) (ob : BitVec 6) (a b d : Spec) : State → Host.Outcome State Fault Refusal :=
  intBin c 0o040 ob true false a b d fun w x y => exactS w (signed w x + signed w y)

/-- SUB. -/
def execSub (c : CoreId) (ob : BitVec 6) (a b d : Spec) : State → Host.Outcome State Fault Refusal :=
  intBin c 0o041 ob true false a b d fun w x y => exactS w (signed w x - signed w y)

/-- A multiply: it runs beside the pipe (R91). -/
def intMul (c op : Nat) (ob : BitVec 6) (a b d : Spec) (f : Nat → Nat → Nat → Nat × Nat) :
    State → Host.Outcome State Fault Refusal :=
  instr { c := c, op := op, ob := ob.toNat, specs := [a, b, d] } do
    let n := widthCells ob
    need (lowZero ob && okIntSrc n a && okIntSrc n b && okIntDst n d) illegal
    let (x, upd) ← srcNat c 1 n a []
    let (y, upd) ← srcNat c 2 n b upd
    let (dst, upd) ← dstOpd c 3 n d upd
    let (z, sf) := f (9 * n) x y
    commitUpd c upd
    besideOr c (dstWrites (← getCore c) dst (natCells n z)) sf

/-- MUL. -/
def execMul (c : CoreId) (ob : BitVec 6) (a b d : Spec) : State → Host.Outcome State Fault Refusal :=
  intMul c 0o042 ob a b d fun w x y => exactS w (signed w x * signed w y)

/-- MULU. -/
def execMulu (c : CoreId) (ob : BitVec 6) (a b d : Spec) : State → Host.Outcome State Fault Refusal :=
  intMul c 0o043 ob a b d fun w x y => (x * y % 2 ^ w, flagBits [(fOV, ovUnsigned w (x * y))])

/-- Put the register writes of a list into effect on a copy of the core. -/
def Core.afterWrites (k : Core) (ws : List Wr) : Core :=
  ws.foldl (fun k w => match w with | .g b r v => k.setGAt b r v | _ => k) k

/-- A divide: quotient to `d`, then remainder to G`q` (R88); `f` answers quotient, remainder and flags. -/
def intDiv (c op : Nat) (ob : BitVec 6) (a b d : Spec) (f : Nat → Nat → Nat → Nat × Nat × Nat) :
    State → Host.Outcome State Fault Refusal :=
  instr { c := c, op := op, ob := ob.toNat, specs := [a, b, d] } do
    let n := widthCells ob
    let q := ob.toNat % 16
    need ((n != 8 || q % 2 == 0) && okIntSrc n a && okIntSrc n b && okIntDst n d) illegal
    let (x, upd) ← srcNat c 1 n a []
    let (y, upd) ← srcNat c 2 n b upd
    let (dst, upd) ← dstOpd c 3 n d upd
    let _ ← regCells c q n upd
    let (z, r, sf) := f (9 * n) x y
    commitUpd c upd
    let k ← getCore c
    let ws := dstWrites k dst (natCells n z)
    besideOr c (ws ++ dstWrites (k.afterWrites ws) (.g q n) (natCells n r)) sf

/-- Signed division: truncation toward zero, the remainder with the sign of the dividend (R87, R89). -/
def divS (w x y : Nat) : Nat × Nat × Nat :=
  let a := signed w x
  let b := signed w y
  if b = 0 then (2 ^ w - 1, x, 2 ^ fDZ)
  else
    let q := a.tdiv b
    (wrap w q, wrap w (a - b * q), flagBits [(fOV, ovSigned w q)])

/-- Unsigned division (R87, R89). -/
def divU (w x y : Nat) : Nat × Nat × Nat := if y = 0 then (2 ^ w - 1, x, 2 ^ fDZ) else (x / y, x % y, 0)

/-- DIV. -/
def execDiv (c : CoreId) (ob : BitVec 6) (a b d : Spec) : State → Host.Outcome State Fault Refusal :=
  intDiv c 0o044 ob a b d divS

/-- DIVU. -/
def execDivu (c : CoreId) (ob : BitVec 6) (a b d : Spec) : State → Host.Outcome State Fault Refusal :=
  intDiv c 0o045 ob a b d divU

/-- NEG. -/
def execNeg (c : CoreId) (ob : BitVec 6) (a d : Spec) : State → Host.Outcome State Fault Refusal :=
  intUn c 0o046 ob true a d fun w x => exactS w (-signed w x)

/-- ABS. -/
def execAbs (c : CoreId) (ob : BitVec 6) (a d : Spec) : State → Host.Outcome State Fault Refusal :=
  intUn c 0o047 ob true a d fun w x => exactS w ((signed w x).natAbs : Int)

/-! ## Completion beside the pipe (R91) -/

/-- The trap that an instruction beside the pipe takes, under the enables that it was issued with (R57, R80), and its PC. -/
def Beside.trap (b : Beside) : Option (Exc × Word) := (trapOf b.te.toNat b.sf.toNat).map fun e => (e, b.pc)

/-- The instruction `b` completes: `t` stay beside the pipe, its results are written and its flags raised. -/
def finish1 (c : Nat) (b : Beside) (t : List Beside) : M Unit := do
  modCore c fun k => { k with beside := t }
  applyWrs c b.writes
  modCore c fun k => k.raiseSf b.sf.toNat

/-- Write the results of everything beside the pipe, and raise its flags. -/
def finishAll (c : Nat) : List Beside → M Unit
  | [] => return ()
  | b :: t => do
    finish1 c b t
    finishAll c t

/-- Take traps in turn: each is entered from where the one before has left the core (log entry 28). -/
def takeTraps (c : Nat) : List (Exc × Word) → M Unit
  | [] => return ()
  | (e, pc) :: t => do
    takeExc c e pc (← getCore c).pc
    takeTraps c t

/-- The oldest instruction beside the pipe completes: results, flags, then its trap (R86, R91, R174). When it takes one, the
younger ones complete before the entry, and their traps follow, oldest first. -/
def finishOne (c : Nat) : M Unit := do
  let k ← getCore c
  match k.beside with
  | [] => return ()
  | b :: t =>
    finish1 c b t
    match b.trap with
    | none => return ()
    | some e =>
      finishAll c t
      takeTraps c (e :: t.filterMap Beside.trap)

/-- Run an action that completes work of core `c`, with no effect while the core is stopped or the action must wait. -/
def onCore (c : Nat) (m : M Unit) (d : Dev) : Dev :=
  if !d.active || (d.core c).checkstop || !(d.core c).started then d
  else match m d with
    | (.ok (), d') => d'
    | (.error _, _) => d

/-- BESIDE_PIPE_COMPLETE. -/
def execBesidePipeComplete (c : CoreId) : State → Host.Outcome State Fault Refusal := onDev (onCore c (finishOne c))

/-! ## Moves, logic and shifts (R92, R93) -/

/-- MOV. -/
def execMov (c : CoreId) (ob : BitVec 6) (a d : Spec) : State → Host.Outcome State Fault Refusal :=
  intUn c 0o050 ob true a d fun _ x => (x, 0)

/-- AND. -/
def execAnd (c : CoreId) (ob : BitVec 6) (a b d : Spec) : State → Host.Outcome State Fault Refusal :=
  intBin c 0o051 ob true false a b d fun _ x y => (x &&& y, 0)

/-- OR. -/
def execOr (c : CoreId) (ob : BitVec 6) (a b d : Spec) : State → Host.Outcome State Fault Refusal :=
  intBin c 0o052 ob true false a b d fun _ x y => (x ||| y, 0)

/-- XOR. -/
def execXor (c : CoreId) (ob : BitVec 6) (a b d : Spec) : State → Host.Outcome State Fault Refusal :=
  intBin c 0o053 ob true false a b d fun _ x y => (Nat.xor x y, 0)

/-- ANDN. -/
def execAndn (c : CoreId) (ob : BitVec 6) (a b d : Spec) : State → Host.Outcome State Fault Refusal :=
  intBin c 0o054 ob true false a b d fun w x y => (x &&& (2 ^ w - 1 - y), 0)

/-- NOT. -/
def execNot (c : CoreId) (ob : BitVec 6) (a d : Spec) : State → Host.Outcome State Fault Refusal :=
  intUn c 0o055 ob true a d fun w x => (2 ^ w - 1 - x, 0)

/-- The shift amount of a count word (R93). -/
def shiftOf (y : Nat) : Nat := y % 256

/-- SHL. -/
def execShl (c : CoreId) (ob : BitVec 6) (a b d : Spec) : State → Host.Outcome State Fault Refusal :=
  intBin c 0o056 ob true true a b d fun w x y => (x * 2 ^ shiftOf y % 2 ^ w, 0)

/-- SHR. -/
def execShr (c : CoreId) (ob : BitVec 6) (a b d : Spec) : State → Host.Outcome State Fault Refusal :=
  intBin c 0o057 ob true true a b d fun _ x y => (x / 2 ^ shiftOf y, 0)

/-- SHA. -/
def execSha (c : CoreId) (ob : BitVec 6) (a b d : Spec) : State → Host.Outcome State Fault Refusal :=
  intBin c 0o060 ob true true a b d fun w x y => (wrap w (signed w x / (2 ^ shiftOf y : Nat)), 0)

/-- Rotation left of `w` bits by `s`, below `w`. -/
def rotl (w x s : Nat) : Nat := x * 2 ^ s % 2 ^ w + x / 2 ^ (w - s)

/-- ROL. -/
def execRol (c : CoreId) (ob : BitVec 6) (a b d : Spec) : State → Host.Outcome State Fault Refusal :=
  intBin c 0o061 ob true true a b d fun w x y => (rotl w x (shiftOf y % w), 0)

/-- ROR. -/
def execRor (c : CoreId) (ob : BitVec 6) (a b d : Spec) : State → Host.Outcome State Fault Refusal :=
  intBin c 0o062 ob true true a b d fun w x y => (rotl w x ((w - shiftOf y % w) % w), 0)

/-! ## Bit fields, counts, permutation (R94 to R96) -/

/-- Position and used width of a field word, for an operand of `w` bits (R94). -/
def fieldOf (w f : Nat) : Nat × Nat :=
  let p := bitsOf f 14 8
  (p, if p < w then Nat.min (bitsOf f 6 0) (w - p) else 0)

/-- `v` with the `n` bits from bit `p` replaced by the low bits of `x`. -/
def insField (v p n x : Nat) : Nat := v / 2 ^ (p + n) * 2 ^ (p + n) + x % 2 ^ n * 2 ^ p + v % 2 ^ p

/-- INS. -/
def execIns (c : CoreId) (ob : BitVec 6) (a b d : Spec) : State → Host.Outcome State Fault Refusal :=
  instr { c := c, op := 0o063, ob := ob.toNat, specs := [a, b, d] } do
    let n := widthCells ob
    need (lowZero ob && okIntSrc n a && okIntSrc 4 b && okIntDst n d) illegal
    let (x, upd) ← srcNat c 1 n a []
    let (f, upd) ← srcNat c 2 4 b upd
    let (old, dst, upd) ← rmwOpd c 3 n d upd
    let (p, m) := fieldOf (9 * n) f
    commitUpd c upd
    putDst c dst (natCells n (insField (cellsNat old) p m x))
    return {}

/-- EXT. -/
def execExt (c : CoreId) (ob : BitVec 6) (a b d : Spec) : State → Host.Outcome State Fault Refusal :=
  intBin c 0o064 ob true true a b d fun w x f =>
    let (p, n) := fieldOf w f
    (if n = 0 then 0 else wrap w (signed n (x / 2 ^ p % 2 ^ n)), 0)

/-- EXTU. -/
def execExtu (c : CoreId) (ob : BitVec 6) (a b d : Spec) : State → Host.Outcome State Fault Refusal :=
  intBin c 0o065 ob true true a b d fun w x f =>
    let (p, n) := fieldOf w f
    (x / 2 ^ p % 2 ^ n, 0)

/-- Leading zero bits of `x` among `w`. -/
def clzOf (w x : Nat) : Nat := if x = 0 then w else w - 1 - x.log2

/-- Number of 1 bits among the low `w`. -/
def popOf : Nat → Nat → Nat
  | 0, _ => 0
  | w + 1, x => x % 2 + popOf w (x / 2)

/-- CLZ. -/
def execClz (c : CoreId) (ob : BitVec 6) (a d : Spec) : State → Host.Outcome State Fault Refusal :=
  intUn c 0o066 ob (decide (32 ≤ ob.toNat)) a d fun w x => (clzOf w x, 0)

/-- POPC. -/
def execPopc (c : CoreId) (ob : BitVec 6) (a d : Spec) : State → Host.Outcome State Fault Refusal :=
  intUn c 0o067 ob true a d fun w x => (popOf w x, 0)

/-- The eight cells of `x` under selector `s` (R96). -/
def permCells (x s : Nat) : List Cell :=
  let cs := natCells 8 x
  (upto 8).map fun k =>
    let cell := cs.getD (bitsOf s (35 - 3 * k) (33 - 3 * k)) 0
    if bitOf s (11 - k) then cell &&& 0xFF else cell

/-- PERM. -/
def execPerm (c : CoreId) (ob : BitVec 6) (a b d : Spec) : State → Host.Outcome State Fault Refusal :=
  intBin c 0o070 ob (decide (48 ≤ ob.toNat)) true a b d fun _ x s => (cellsNat (permCells x s), 0)

/-! ## Compares (R97) -/

/-- CEQ. -/
def execCeq (c : CoreId) (ob : BitVec 6) (a b d : Spec) : State → Host.Outcome State Fault Refusal :=
  intCmp c 0o071 ob a b d fun _ x y => x == y

/-- CNE. -/
def execCne (c : CoreId) (ob : BitVec 6) (a b d : Spec) : State → Host.Outcome State Fault Refusal :=
  intCmp c 0o072 ob a b d fun _ x y => x != y

/-- CLT. -/
def execClt (c : CoreId) (ob : BitVec 6) (a b d : Spec) : State → Host.Outcome State Fault Refusal :=
  intCmp c 0o073 ob a b d fun w x y => decide (signed w x < signed w y)

/-- CLE. -/
def execCle (c : CoreId) (ob : BitVec 6) (a b d : Spec) : State → Host.Outcome State Fault Refusal :=
  intCmp c 0o074 ob a b d fun w x y => decide (signed w x ≤ signed w y)

/-- CLTU. -/
def execCltu (c : CoreId) (ob : BitVec 6) (a b d : Spec) : State → Host.Outcome State Fault Refusal :=
  intCmp c 0o075 ob a b d fun _ x y => decide (x < y)

/-- CLEU. -/
def execCleu (c : CoreId) (ob : BitVec 6) (a b d : Spec) : State → Host.Outcome State Fault Refusal :=
  intCmp c 0o076 ob a b d fun _ x y => decide (x ≤ y)

/-- TST. -/
def execTst (c : CoreId) (ob : BitVec 6) (a b d : Spec) : State → Host.Outcome State Fault Refusal :=
  intCmp c 0o077 ob a b d fun _ x y => x &&& y != 0

end Sys2Proof.Machine
end

