-- ==== Sys2Proof/Machine/Float.lean ====
section
/-!
DEFINITION. Floating instructions (chapter 7, rows 0o16x to 0o20x): operands (R168), rounding selection (R169), arithmetic,
compares, conversions and copies.
-/

namespace Sys2Proof.Machine

/-- The rounding that bits 5:3 select (R169). -/
def roundSel (k : Core) (ob : BitVec 6) : Nat := if ob.toNat / 8 = 0 then k.frm else ob.toNat / 8 - 1

/-- Bits 5:3 select a rounding that exists (R76). -/
def roundOk (ob : BitVec 6) : Bool := decide (ob.toNat / 8 ≤ 5)

/-- Bits of a format that a register or memory operand carries (R39, R40). -/
def FpFmt.bits : FpFmt → Nat
  | .b64 => 64
  | .d128 => 128

/-- Read F`r`, waiting for a result still to be written. -/
def rdF (c r : Nat) : M Nat := do
  let k ← getCore c
  if k.fBusy r then waitM
  return (k.f.getD' r 0).toNat

/-- A floating source operand (R168): its encoding. -/
def fltSrc (c i : Nat) (f : FpFmt) (p : Spec) (upd : AMap Word) : M (Nat × AMap Word) := do
  if p.mode = 0 then return ((← rdF c p.reg.toNat) % 2 ^ f.bits, upd)
  else
    let (v, upd) ← srcNat c i f.cells p upd
    return (v % 2 ^ f.bits, upd)

/-- A floating destination (R168). -/
def fltDst (c i : Nat) (f : FpFmt) (p : Spec) (upd : AMap Word) : M (Dst × AMap Word) := do
  if p.mode = 0 then return (.f p.reg.toNat, upd)
  else
    let (loc, rep, upd) ← memOpd c i f.cells .write p upd
    return (.mem loc rep, upd)

/-- The writes that put an encoding into a floating destination (R167). -/
def fltWrites (k : Core) (f : FpFmt) (dst : Dst) (v : Nat) : List Wr :=
  dstWrites k dst (natCells (match dst with | .f _ => 16 | _ => f.cells) v)

/-- Sources of a floating instruction, from operand `i`. -/
def fltSrcs (c : Nat) (f : FpFmt) (i : Nat) (upd : AMap Word) : List Spec → M (List Fp × AMap Word)
  | [] => return ([], upd)
  | p :: t => do
    let (v, upd) ← fltSrc c i f p upd
    let (vs, upd) ← fltSrcs c f (i + 1) upd t
    return (f.dec v :: vs, upd)

/-- An arithmetic instruction of a format (R170, R174, R180). -/
def fltOp (c op : Nat) (ob : BitVec 6) (f : FpFmt) (ss : List Spec) (d : Spec) (g : Nat → List Fp → Nat × Nat) :
    State → Host.Outcome State Fault Refusal :=
  instr { c := c, op := op, ob := ob.toNat, specs := ss ++ [d] } do
    need (ob.toNat % 8 == 0 && roundOk ob && ss.all okFlt && okFlt d) illegal
    needFP c
    let (xs, upd) ← fltSrcs c f 1 [] ss
    let (dst, upd) ← fltDst c (ss.length + 1) f d upd
    let (v, fl) := g (roundSel (← getCore c) ob) xs
    commitUpd c upd
    besideOr c (fltWrites (← getCore c) f dst v) fl

/-- A binary operation on a list of two. -/
def two (g : Fp → Fp → Nat × Nat) (xs : List Fp) : Nat × Nat := g (xs.getD 0 (.fin false 0 0)) (xs.getD 1 (.fin false 0 0))

/-- An operation on a list of three. -/
def three (g : Fp → Fp → Fp → Nat × Nat) (xs : List Fp) : Nat × Nat :=
  g (xs.getD 0 (.fin false 0 0)) (xs.getD 1 (.fin false 0 0)) (xs.getD 2 (.fin false 0 0))

/-- FADD. -/
def execFadd (c : CoreId) (ob : BitVec 6) (a b d : Spec) : State → Host.Outcome State Fault Refusal :=
  fltOp c 0o160 ob .b64 [a, b] d fun rm => two (fpAdd .b64 rm)

/-- FSUB. -/
def execFsub (c : CoreId) (ob : BitVec 6) (a b d : Spec) : State → Host.Outcome State Fault Refusal :=
  fltOp c 0o161 ob .b64 [a, b] d fun rm => two (fpSub .b64 rm)

/-- FMUL. -/
def execFmul (c : CoreId) (ob : BitVec 6) (a b d : Spec) : State → Host.Outcome State Fault Refusal :=
  fltOp c 0o162 ob .b64 [a, b] d fun rm => two (fpMul .b64 rm)

/-- FDIV. -/
def execFdiv (c : CoreId) (ob : BitVec 6) (a b d : Spec) : State → Host.Outcome State Fault Refusal :=
  fltOp c 0o163 ob .b64 [a, b] d fun rm => two (fpDiv .b64 rm)

/-- FMA. -/
def execFma (c : CoreId) (ob : BitVec 6) (a b e d : Spec) : State → Host.Outcome State Fault Refusal :=
  fltOp c 0o164 ob .b64 [a, b, e] d fun rm => three (fpFma .b64 rm)

/-- FSQRT. -/
def execFsqrt (c : CoreId) (ob : BitVec 6) (a d : Spec) : State → Host.Outcome State Fault Refusal :=
  fltOp c 0o165 ob .b64 [a] d fun rm xs => fpSqrt .b64 rm (xs.getD 0 (.fin false 0 0))

/-- QADD. -/
def execQadd (c : CoreId) (ob : BitVec 6) (a b d : Spec) : State → Host.Outcome State Fault Refusal :=
  fltOp c 0o170 ob .d128 [a, b] d fun rm => two (fpAdd .d128 rm)

/-- QSUB. -/
def execQsub (c : CoreId) (ob : BitVec 6) (a b d : Spec) : State → Host.Outcome State Fault Refusal :=
  fltOp c 0o171 ob .d128 [a, b] d fun rm => two (fpSub .d128 rm)

/-- QMUL. -/
def execQmul (c : CoreId) (ob : BitVec 6) (a b d : Spec) : State → Host.Outcome State Fault Refusal :=
  fltOp c 0o172 ob .d128 [a, b] d fun rm => two (fpMul .d128 rm)

/-- QDIV. -/
def execQdiv (c : CoreId) (ob : BitVec 6) (a b d : Spec) : State → Host.Outcome State Fault Refusal :=
  fltOp c 0o173 ob .d128 [a, b] d fun rm => two (fpDiv .d128 rm)

/-- QFMA. -/
def execQfma (c : CoreId) (ob : BitVec 6) (a b e d : Spec) : State → Host.Outcome State Fault Refusal :=
  fltOp c 0o174 ob .d128 [a, b, e] d fun rm => three (fpFma .d128 rm)

/-- QSQRT. -/
def execQsqrt (c : CoreId) (ob : BitVec 6) (a d : Spec) : State → Host.Outcome State Fault Refusal :=
  fltOp c 0o175 ob .d128 [a] d fun rm xs => fpSqrt .d128 rm (xs.getD 0 (.fin false 0 0))

/-- QQUA. -/
def execQqua (c : CoreId) (ob : BitVec 6) (a b d : Spec) : State → Host.Outcome State Fault Refusal :=
  fltOp c 0o177 ob .d128 [a, b] d fun rm => two (fpQuantum rm)

/-- A compare (R177). -/
def fltCmp (c op : Nat) (ob : BitVec 6) (f : FpFmt) (a b d : Spec) : State → Host.Outcome State Fault Refusal :=
  instr { c := c, op := op, ob := ob.toNat, specs := [a, b, d] } do
    need (decide (ob.toNat < 7) && okFlt a && okFlt b && okReg d) illegal
    needFP c
    let (xs, upd) ← fltSrcs c f 1 [] [a, b]
    let (r, fl) := fpPred f ob.toNat (xs.getD 0 (.fin false 0 0)) (xs.getD 1 (.fin false 0 0))
    commitUpd c upd
    wrG c d.reg.toNat (BitVec.ofNat 36 (flagNat r))
    return { trap := ← raiseFlags c fl }

/-- FCMP. -/
def execFcmp (c : CoreId) (ob : BitVec 6) (a b d : Spec) : State → Host.Outcome State Fault Refusal :=
  fltCmp c 0o166 ob .b64 a b d

/-- QCMP: it takes 2 cycles, so it does not run beside the pipe (R180). -/
def execQcmp (c : CoreId) (ob : BitVec 6) (a b d : Spec) : State → Host.Outcome State Fault Refusal :=
  fltCmp c 0o176 ob .d128 a b d

/-- A conversion between floating formats (R178). -/
def cvtFF (x : Ins) (f g : FpFmt) (a d : Spec) (conv : Nat → Fp → Nat × Nat) (rm : Nat) : M Done := do
  need (okFlt a && okFlt d) illegal
  needFP x.c
  let (v, upd) ← fltSrc x.c 1 f a []
  let (dst, upd) ← fltDst x.c 2 g d upd
  let (r, fl) := conv rm (f.dec v)
  commitUpd x.c upd
  besideOr x.c (fltWrites (← getCore x.c) g dst r) fl

/-- A conversion to an integer of `n` cells (R178). -/
def cvtFI (x : Ins) (f : FpFmt) (n : Nat) (a d : Spec) (rm : Nat) : M Done := do
  need (okFlt a && okIntDst n d) illegal
  needFP x.c
  let (v, upd) ← fltSrc x.c 1 f a []
  let (dst, upd) ← dstOpd x.c 2 n d upd
  let (r, fl) := fpToInt f rm (9 * n) (f.dec v)
  commitUpd x.c upd
  besideOr x.c (dstWrites (← getCore x.c) dst (natCells n r)) fl

/-- A conversion from an integer of `n` cells (R178). -/
def cvtIF (x : Ins) (f : FpFmt) (n : Nat) (a d : Spec) (rm : Nat) : M Done := do
  need (okIntSrc n a && okFlt d) illegal
  needFP x.c
  let (v, upd) ← srcNat x.c 1 n a []
  let (dst, upd) ← fltDst x.c 2 f d upd
  let (r, fl) := fpOfInt f rm (signed (9 * n) v)
  commitUpd x.c upd
  besideOr x.c (fltWrites (← getCore x.c) f dst r) fl

/-- FCVT (R178). -/
def execFcvt (c : CoreId) (ob : BitVec 6) (a d : Spec) : State → Host.Outcome State Fault Refusal :=
  let x : Ins := { c := c, op := 0o167, ob := ob.toNat, specs := [a, d] }
  instr x do
    need (roundOk ob) illegal
    let rm := roundSel (← getCore c) ob
    match ob.toNat % 8 with
    | 0 => cvtFF x .b64 .d128 a d b64ToD128 rm
    | 1 => cvtFF x .d128 .b64 a d d128ToB64 rm
    | 2 => cvtFI x .b64 4 a d rm
    | 3 => cvtFI x .b64 8 a d rm
    | 4 => cvtIF x .b64 4 a d rm
    | 5 => cvtIF x .b64 8 a d rm
    | 6 => cvtFF x .b64 .b64 a d (fpIntegral .b64) rm
    | _ => raiseE illegal

/-- QCVT (R178). -/
def execQcvt (c : CoreId) (ob : BitVec 6) (a d : Spec) : State → Host.Outcome State Fault Refusal :=
  let x : Ins := { c := c, op := 0o200, ob := ob.toNat, specs := [a, d] }
  instr x do
    need (roundOk ob) illegal
    let rm := roundSel (← getCore c) ob
    match ob.toNat % 8 with
    | 0 => cvtFI x .d128 8 a d rm
    | 1 => cvtIF x .d128 8 a d rm
    | 2 => cvtFF x .d128 .d128 a d (fpIntegral .d128) rm
    | 3 => cvtFI x .d128 4 a d rm
    | 4 => cvtIF x .d128 4 a d rm
    | _ => raiseE illegal

/-- A copy in a format (R179): kinds 0 to 2. -/
def fltMov (x : Ins) (f : FpFmt) (kind : Nat) (a d : Spec) : M Done := do
  need (okFlt a && okFlt d) illegal
  needFP x.c
  let (v, upd) ← fltSrc x.c 1 f a []
  let (dst, upd) ← fltDst x.c 2 f d upd
  let s := f.bits - 1
  let r := match kind with
    | 0 => v
    | 1 => setBits v s s (1 - flagNat (bitOf v s))
    | _ => setBits v s s 0
  commitUpd x.c upd
  applyWrs x.c (fltWrites (← getCore x.c) f dst r)
  return {}

/-- FMOV (R179). -/
def execFmov (c : CoreId) (ob : BitVec 6) (a d : Spec) : State → Host.Outcome State Fault Refusal :=
  let x : Ins := { c := c, op := 0o201, ob := ob.toNat, specs := [a, d] }
  instr x do
    match ob.toNat with
    | 0 => fltMov x .b64 0 a d
    | 1 => fltMov x .b64 1 a d
    | 2 => fltMov x .b64 2 a d
    | 3 =>
      need (okIntSrc 8 a && okFlt d) illegal
      needFP c
      let (v, upd) ← srcNat c 1 8 a []
      let (dst, upd) ← fltDst c 2 .b64 d upd
      commitUpd c upd
      applyWrs c (fltWrites (← getCore c) .b64 dst (v % 2 ^ 64))
      return {}
    | 4 =>
      need (okFlt a && okIntDst 8 d) illegal
      needFP c
      let (v, upd) ← fltSrc c 1 .b64 a []
      let (dst, upd) ← dstOpd c 2 8 d upd
      commitUpd c upd
      putDst c dst (natCells 8 v)
      return {}
    | _ => raiseE illegal

/-- QMOV (R179). -/
def execQmov (c : CoreId) (ob : BitVec 6) (a d : Spec) : State → Host.Outcome State Fault Refusal :=
  let x : Ins := { c := c, op := 0o202, ob := ob.toNat, specs := [a, d] }
  instr x do
    need (decide (ob.toNat ≤ 2)) illegal
    fltMov x .d128 ob.toNat a d

end Sys2Proof.Machine
end

