-- ==== Sys2Proof/Machine/Decimal.lean ====
section
/-!
DEFINITION. Decimal instructions (chapter 5, rows 0o10x to 0o13x), packed and zoned, with their to-mark forms, and the
micro-trap points of the multiplies and divides (R124, R125).
-/

namespace Sys2Proof.Machine

/-- L1 (R66). -/
def decL1 (ob : BitVec 6) : Nat := ob.toNat + 1
/-- L2 (R66). -/
def decL2 (lp : Parcel) : Nat := bitsOf lp.toNat 13 8 + 1
/-- L3 (R66). -/
def decL3 (lp : Parcel) : Nat := bitsOf lp.toNat 7 2 + 1
/-- The variant (R66). -/
def decVar (lp : Parcel) : Nat := lp.toNat % 4

/-- An instruction with its length parcel. -/
def decIns (c op : Nat) (ob : BitVec 6) (lp : Parcel) (ss : List Spec) : Ins :=
  { c := c, op := op, ob := ob.toNat, lp := [lp], specs := ss }

/-- Invalid data (R113, R116): DD is set, registers of modes 4 and 5 are updated, nothing is written. -/
def decInvalid (c : Nat) (upd : AMap Word) : M Done := do
  commitUpd c upd
  return { trap := ← raiseFlags c (2 ^ fDD) }

/-- Write an exact result into a decimal operand, truncated when it does not fit (R114, R115). -/
def putExact (c : Nat) (z : Bool) (o : DecOp) (v : Int) : M Bool := do
  let (data, ov) := fieldResult z o.n v (← getCore c).dsm
  putField c o data
  return ov

/-- An instruction on `a` and `b` into `d` (R118). -/
def decBin (c op : Nat) (ob : BitVec 6) (lp : Parcel) (a b d : Spec) (z scan : Bool) (f : Int → Int → Int) :
    State → Host.Outcome State Fault Refusal :=
  instr (decIns c op ob lp [a, b, d]) do
    need (decVar lp == 0 && okDecSrc (decL1 ob) a && okDecSrc (decL2 lp) b && okDecDst (decL3 lp) d) illegal
    let (x, upd) ← decOpd c 1 (decL1 ob) scan .read a []
    let (y, upd) ← decOpd c 2 (decL2 lp) scan .read b upd
    let (o, upd) ← decOpd c 3 (decL3 lp) scan .write d upd
    match fieldVal z x.cells, fieldVal z y.cells with
    | some (m, s), some (n, t) =>
      commitUpd c upd
      let ov ← putExact c z o (f (signedMag m s) (signedMag n t))
      return { trap := ← raiseFlags c (flagBits [(fOV, ov)]) }
    | _, _ => decInvalid c upd

/-- An instruction on a field into a field (R118, R129): `za`, `zd` say which are zoned; `scanD` scans the destination, `marks`
writes its marks (R112). -/
def decUn (c op : Nat) (ob : BitVec 6) (lp : Parcel) (a d : Spec) (za zd scan scanD marks : Bool) :
    State → Host.Outcome State Fault Refusal :=
  instr (decIns c op ob lp [a, d]) do
    need (decVar lp == 0 && decL3 lp == 1 && okDecSrc (decL1 ob) a && okDecDst (decL2 lp) d) illegal
    let (x, upd) ← decOpd c 1 (decL1 ob) scan .read a []
    let (o, upd) ← decOpd c 2 (decL2 lp) scanD .write d upd
    match fieldVal za x.cells with
    | some (m, s) =>
      commitUpd c upd
      let (data, ov) := fieldResult zd o.n (signedMag m s) (← getCore c).dsm
      if marks then
        match o.dst with
        | some dst =>
          putDst c dst ((data.zip (256 :: List.replicate (o.n - 1) 0)).map fun p => BitVec.ofNat 9 (p.1 + p.2))
        | none => pure ()
      else putField c o data
      return { trap := ← raiseFlags c (flagBits [(fOV, ov)]) }
    | none => decInvalid c upd

/-- A compare into the pair G`c`, G`c`+1 (R119). -/
def decCmp (c op : Nat) (ob : BitVec 6) (lp : Parcel) (a b d : Spec) (z scan : Bool) :
    State → Host.Outcome State Fault Refusal :=
  instr (decIns c op ob lp [a, b, d]) do
    need (decVar lp == 0 && decL3 lp == 1 && okDecSrc (decL1 ob) a && okDecSrc (decL2 lp) b && okReg d &&
          d.reg.toNat % 2 == 0) illegal
    let (x, upd) ← decOpd c 1 (decL1 ob) scan .read a []
    let (y, upd) ← decOpd c 2 (decL2 lp) scan .read b upd
    match fieldVal z x.cells, fieldVal z y.cells with
    | some (m, s), some (n, t) =>
      commitUpd c upd
      wrG c d.reg.toNat (BitVec.ofNat 36 (flagNat (decide (signedMag m s < signedMag n t))))
      wrG c (d.reg.toNat + 1) (BitVec.ofNat 36 (flagNat (signedMag m s == signedMag n t)))
      return {}
    | _, _ => decInvalid c upd

/-- A test into G`c` (R120, R113). -/
def decTst (c op : Nat) (ob : BitVec 6) (lp : Parcel) (a d : Spec) (z scan : Bool) :
    State → Host.Outcome State Fault Refusal :=
  instr (decIns c op ob lp [a, d]) do
    need (lp == 0 && okDecSrc (decL1 ob) a && okReg d) illegal
    let (x, upd) ← decOpd c 1 (decL1 ob) scan .read a []
    let ok := (fieldVal z x.cells).isSome
    commitUpd c upd
    wrG c d.reg.toNat (BitVec.ofNat 36 (flagNat ok))
    return { trap := ← raiseFlags c (flagBits [(fDD, !ok)]) }

/-- A magnitude divided by 10^`m` and rounded under a variant (R128). -/
def decRound (var v m : Nat) : Nat :=
  let u := 10 ^ m
  let q := v / u
  let r := v % u
  match var with
  | 0 => q
  | 1 => if u ≤ 2 * r then q + 1 else q
  | _ => if u < 2 * r || (2 * r == u && q % 2 == 1) then q + 1 else q

/-- A shifted value (R127). -/
def decShift (var : Nat) (v : Int) (k : Int) : Int :=
  if 0 ≤ k then v * (10 ^ k.toNat : Nat) else signedMag (decRound var v.natAbs (-k).toNat) (decide (v < 0))

/-- A shift and round (R127, R128). -/
def decSrp (c op : Nat) (ob : BitVec 6) (lp : Parcel) (a b d : Spec) (z : Bool) :
    State → Host.Outcome State Fault Refusal :=
  instr (decIns c op ob lp [a, b, d]) do
    need (decide (decVar lp ≤ 2) && decL2 lp == 1 && okDecSrc (decL1 ob) a && okIntSrc 4 b && okDecDst (decL3 lp) d) illegal
    let (x, upd) ← decOpd c 1 (decL1 ob) false .read a []
    let (s, upd) ← srcNat c 2 4 b upd
    let (o, upd) ← decOpd c 3 (decL3 lp) false .write d upd
    match fieldVal z x.cells with
    | some (m, neg) =>
      commitUpd c upd
      let ov ← putExact c z o (decShift (decVar lp) (signedMag m neg) (signed 8 (s % 256)))
      return { trap := ← raiseFlags c (flagBits [(fOV, ov)]) }
    | none => decInvalid c upd

/-! ## Multiply and divide (R122 to R126) -/

/-- Significant digits of a field's value. -/
def sig (v : Nat) : Nat := sigDigits 128 v

/-- The operand digest of three operands (R125). -/
def digest3 (x y o : DecOp) : Word := Config.operandDigest (digestOf x ++ digestOf y ++ digestOf o)

/-- Write an intermediate value into an operand (R124). -/
def putInter (c : Nat) (z : Bool) (o : DecOp) (m : Nat) (neg : Bool) : M Unit := do
  putField c o (fieldData z o.n (m % 10 ^ fieldDigits z o.n) neg false)

/-- Write the partial remainder into `a`, which keeps its original sign (R124). -/
def putRemainder (c : Nat) (z : Bool) (x : DecOp) (m : Nat) : M Unit := do
  putField c x (fieldDataAs z x.n m (fieldSign z x.cells))

/-- The value that a resumed instruction finds in its destination, read where it stands, a host window too (R125, R381); invalid data
ends it with DD (log entry 25). -/
def resumed (c : Nat) (z : Bool) (o : DecOp) : M (Option (Nat × Bool)) := do
  match o.dst with
  | some (.mem loc rep) => return fieldVal z (← readLoc c rep loc)
  | _ => return fieldVal z (← oldCells c o)

/-- The steps of a multiply from digit `i` (R122, R124): partial product, digit lost, and whether the step count was reached or
an acceptance point stopped it. -/
def mulSteps (am bm lim : Nat) (due : Bool) : Nat → Nat → Nat → Bool → Nat × Nat × Bool
  | 0, i, p, lost => (i, p, lost)
  | fuel + 1, i, p, lost =>
    let v := p + am * (bm / 10 ^ i % 10) * 10 ^ i
    let lost' := lost || decide (lim ≤ v)
    if due then (i + 1, v % lim, lost') else mulSteps am bm lim due fuel (i + 1) (v % lim) lost'

/-- The steps of a divide from digit `i` of `q` (R123, R124): next digit, quotient, remainder. Digit 0 is the most significant, which
is developed first (log entry 119, DESIGN CHOICE). -/
def divSteps (bm q : Nat) (due : Bool) : Nat → Nat → Nat → Nat → Nat × Nat × Nat
  | 0, i, v, r => (i, v, r)
  | fuel + 1, i, v, r =>
    let unit := bm * 10 ^ (q - 1 - i)
    let dg := Nat.min 9 (r / unit)
    let v' := v + dg * 10 ^ (q - 1 - i)
    if due then (i + 1, v', r - dg * unit) else divSteps bm q due fuel (i + 1) v' (r - dg * unit)

/-- A multiply (R122, R124, R125). After the step of its last digit it completes; no micro-trap point follows (log entry 119, DESIGN
CHOICE). -/
def decMul (c op : Nat) (ob : BitVec 6) (lp : Parcel) (a b d : Spec) (z : Bool) :
    State → Host.Outcome State Fault Refusal :=
  instr (decIns c op ob lp [a, b, d]) do
    need (decVar lp == 0 && okDecSrc (decL1 ob) a && okDecSrc (decL2 lp) b && okDecDst (decL3 lp) d) illegal
    let u := (← getCore c).micro
    let (x, upd) ← decOpd c 1 (decL1 ob) false .read a []
    let (y, upd) ← decOpd c 2 (decL2 lp) false .read b upd
    let (o, upd) ← decOpd c 3 (decL3 lp) false .write d upd
    let dig := digest3 x y o
    match u with
    | some m => need (m.u3 == dig) { vec := 10, cause := 2 }
    | none => pure ()
    need (!(opsOverlap x y || opsOverlap x o || opsOverlap y o)) { vec := 9 }
    let part ← if u.isSome then resumed c z o else pure (some (0, false))
    match fieldVal z x.cells, fieldVal z y.cells, part with
    | some (am, an), some (bm, bn), some (p0, _) =>
      let due := (← get).pointDue c
      let d2 := match u with | some m => bitsOf m.u1.toNat 6 0 | none => sig bm
      let u1 := match u with | some m => m.u1 | none => BitVec.ofNat 36 (sig am * 128 + sig bm)
      let i0 := match u with | some m => m.u0.toNat | none => 0
      let lost0 := match u with | some m => bitOf m.u2.toNat 0 | none => false
      if due && u.isNone then
        putInter c z o 0 false
        microStop c op 0 0 u1 0 dig
      else
        let (i, p, lost) := mulSteps am bm (10 ^ fieldDigits z o.n) due (d2 - i0) i0 p0 lost0
        if i < d2 then
          putInter c z o p false
          microStop c op 1 (BitVec.ofNat 36 i) u1 (BitVec.ofNat 36 (flagNat lost)) dig
        else
          commitUpd c upd
          let neg := an != bn && (p != 0 || lost)
          let ws ← fieldWrites c o (fieldData z o.n p neg (← getCore c).dsm)
          modCore c fun k => { k with micro := none }
          besideOr c ws (flagBits [(fOV, lost)])
    | _, _, _ => decInvalid c upd

/-- A divide (R123 to R125). After the step of its last digit it completes, as a multiply does (log entry 119, DESIGN CHOICE). -/
def decDiv (c op : Nat) (ob : BitVec 6) (lp : Parcel) (a b d : Spec) (z : Bool) :
    State → Host.Outcome State Fault Refusal :=
  instr (decIns c op ob lp [a, b, d]) do
    need (decVar lp == 0 && okDecDst (decL1 ob) a && okDecSrc (decL2 lp) b && okDecDst (decL3 lp) d) illegal
    let u := (← getCore c).micro
    let (x, upd) ← decOpd c 1 (decL1 ob) false .rmw a []
    let (y, upd) ← decOpd c 2 (decL2 lp) false .read b upd
    let (o, upd) ← decOpd c 3 (decL3 lp) false .write d upd
    let dig := digest3 x y o
    match u with
    | some m => need (m.u3 == dig) { vec := 10, cause := 2 }
    | none => pure ()
    need (!(opsOverlap x y || opsOverlap x o || opsOverlap y o)) { vec := 9 }
    let part ← if u.isSome then resumed c z o else pure (some (0, false))
    match fieldVal z x.cells, fieldVal z y.cells, part with
    | some (am, an), some (bm, bn), some (v0, _) =>
      let fresh := u.isNone
      if fresh && bm == 0 then
        commitUpd c upd
        return { trap := ← raiseFlags c (2 ^ fDZ) }
      else if fresh && decide (fieldDigits z o.n < sig (am / bm)) then
        commitUpd c upd
        return { trap := ← raiseFlags c (2 ^ fOV) }
      else
        let due := (← get).pointDue c
        let q0 := sig am + 1 - sig bm
        let u1 := match u with | some m => m.u1 | none => BitVec.ofNat 36 (q0 * 128 + sig bm)
        let u2 := match u with
          | some m => m.u2
          | none => BitVec.ofNat 36 (flagNat (an != bn) + 2 * flagNat an)
        let q := bitsOf u1.toNat 13 7
        let i0 := match u with | some m => m.u0.toNat | none => 0
        if due && fresh then
          putInter c z o 0 false
          microStop c op 0 0 u1 u2 dig
        else
          let (i, v, r) := divSteps bm q due (q - i0) i0 v0 am
          if i < q then
            putInter c z o v false
            putRemainder c z x r
            microStop c op 1 (BitVec.ofNat 36 i) u1 u2 dig
          else
            commitUpd c upd
            let dsm := (← getCore c).dsm
            let (qd, _) := fieldResult z o.n (signedMag v (bitOf u2.toNat 0)) dsm
            let (rd, _) := fieldResult z x.n (signedMag r (bitOf u2.toNat 1)) dsm
            let ws ← fieldWrites c o qd
            let wr ← fieldWrites c x rd
            modCore c fun k => { k with micro := none }
            besideOr c (ws ++ wr) 0
    | _, _, _ => decInvalid c upd

/-! ## Packed instructions -/

/-- DADD. -/
def execDadd (c : CoreId) (ob : BitVec 6) (lp : Parcel) (a b d : Spec) : State → Host.Outcome State Fault Refusal :=
  decBin c 0o100 ob lp a b d false false (· + ·)

/-- DSUB. -/
def execDsub (c : CoreId) (ob : BitVec 6) (lp : Parcel) (a b d : Spec) : State → Host.Outcome State Fault Refusal :=
  decBin c 0o101 ob lp a b d false false (· - ·)

/-- DMUL. -/
def execDmul (c : CoreId) (ob : BitVec 6) (lp : Parcel) (a b d : Spec) : State → Host.Outcome State Fault Refusal :=
  decMul c 0o102 ob lp a b d false

/-- DDIV. -/
def execDdiv (c : CoreId) (ob : BitVec 6) (lp : Parcel) (a b d : Spec) : State → Host.Outcome State Fault Refusal :=
  decDiv c 0o103 ob lp a b d false

/-- DCMP. -/
def execDcmp (c : CoreId) (ob : BitVec 6) (lp : Parcel) (a b d : Spec) : State → Host.Outcome State Fault Refusal :=
  decCmp c 0o104 ob lp a b d false false

/-- DSRP. -/
def execDsrp (c : CoreId) (ob : BitVec 6) (lp : Parcel) (a b d : Spec) : State → Host.Outcome State Fault Refusal :=
  decSrp c 0o105 ob lp a b d false

/-- DZAD. -/
def execDzad (c : CoreId) (ob : BitVec 6) (lp : Parcel) (a d : Spec) : State → Host.Outcome State Fault Refusal :=
  decUn c 0o106 ob lp a d false false false false false

/-- DTST. -/
def execDtst (c : CoreId) (ob : BitVec 6) (lp : Parcel) (a d : Spec) : State → Host.Outcome State Fault Refusal :=
  decTst c 0o107 ob lp a d false false

/-- CVZP. -/
def execCvzp (c : CoreId) (ob : BitVec 6) (lp : Parcel) (a d : Spec) : State → Host.Outcome State Fault Refusal :=
  decUn c 0o110 ob lp a d true false false false false

/-- CVPZ. -/
def execCvpz (c : CoreId) (ob : BitVec 6) (lp : Parcel) (a d : Spec) : State → Host.Outcome State Fault Refusal :=
  decUn c 0o111 ob lp a d false true false false false

/-- A packed field as a binary integer of `n` cells (R131). -/
def decToInt (c op n : Nat) (ob : BitVec 6) (lp : Parcel) (a d : Spec) : State → Host.Outcome State Fault Refusal :=
  instr (decIns c op ob lp [a, d]) do
    need (lp == 0 && okDecSrc (decL1 ob) a && okIntDst n d) illegal
    let (x, upd) ← decOpd c 1 (decL1 ob) false .read a []
    let (dst, upd) ← dstOpd c 2 n d upd
    match fieldVal false x.cells with
    | some (m, s) =>
      let (v, sf) := exactS (9 * n) (signedMag m s)
      commitUpd c upd
      putDst c dst (natCells n v)
      return { trap := ← raiseFlags c sf }
    | none => decInvalid c upd

/-- CVDB. -/
def execCvdb (c : CoreId) (ob : BitVec 6) (lp : Parcel) (a d : Spec) : State → Host.Outcome State Fault Refusal :=
  decToInt c 0o112 4 ob lp a d

/-- CVDX. -/
def execCvdx (c : CoreId) (ob : BitVec 6) (lp : Parcel) (a d : Spec) : State → Host.Outcome State Fault Refusal :=
  decToInt c 0o113 8 ob lp a d

/-- A binary integer of `n` cells as a packed field (R132). -/
def decOfInt (c op n : Nat) (ob : BitVec 6) (lp : Parcel) (a d : Spec) : State → Host.Outcome State Fault Refusal :=
  instr (decIns c op ob lp [a, d]) do
    need (ob == 0 && decVar lp == 0 && decL3 lp == 1 && okIntSrc n a && okDecDst (decL2 lp) d) illegal
    let (v, upd) ← srcNat c 1 n a []
    let (o, upd) ← decOpd c 2 (decL2 lp) false .write d upd
    commitUpd c upd
    let ov ← putExact c false o (signed (9 * n) v)
    return { trap := ← raiseFlags c (flagBits [(fOV, ov)]) }

/-- CVBD. -/
def execCvbd (c : CoreId) (ob : BitVec 6) (lp : Parcel) (a d : Spec) : State → Host.Outcome State Fault Refusal :=
  decOfInt c 0o114 4 ob lp a d

/-- CVXD. -/
def execCvxd (c : CoreId) (ob : BitVec 6) (lp : Parcel) (a d : Spec) : State → Host.Outcome State Fault Refusal :=
  decOfInt c 0o115 8 ob lp a d

/-- A packed value as a decimal128 (R133): at most 34 digits as they are, else rounded, with the digits dropped as exponent. -/
def d128OfPacked (rm m : Nat) (neg : Bool) : Nat × Nat :=
  let n := sig m
  if n ≤ 34 then (d128Enc (.fin neg m 0), 0)
  else
    let (c, _) := roundAt 10 rm { neg := neg, m := m, e := 0 } ((n - 34 : Nat) : Int)
    let (c, k) := if c = 10 ^ 34 then (10 ^ 33, n - 33) else (c, n - 34)
    (d128Enc (.fin neg c k), inexactF)

/-- CVDQ (R133, R181). -/
def execCvdq (c : CoreId) (ob : BitVec 6) (lp : Parcel) (a d : Spec) : State → Host.Outcome State Fault Refusal :=
  instr (decIns c 0o116 ob lp [a, d]) do
    need (lp == 0 && okDecSrc (decL1 ob) a && okFlt d) illegal
    if d.mode = 0 then needFP c
    let (x, upd) ← decOpd c 1 (decL1 ob) false .read a []
    let (dst, upd) ← fltDst c 2 .d128 d upd
    match fieldVal false x.cells with
    | some (m, s) =>
      let k ← getCore c
      let (v, fl) := d128OfPacked k.frm m s
      commitUpd c upd
      applyWrs c (fltWrites (← getCore c) .d128 dst v)
      return { trap := ← raiseFlags c fl }
    | none => decInvalid c upd

/-- CVQD (R134, R181). -/
def execCvqd (c : CoreId) (ob : BitVec 6) (lp : Parcel) (a d : Spec) : State → Host.Outcome State Fault Refusal :=
  instr (decIns c 0o117 ob lp [a, d]) do
    need (ob == 0 && decVar lp == 0 && decL3 lp == 1 && okFlt a && okDecDst (decL2 lp) d) illegal
    if a.mode = 0 then needFP c
    let (v, upd) ← fltSrc c 1 .d128 a []
    let (o, upd) ← decOpd c 2 (decL2 lp) false .write d upd
    commitUpd c upd
    match d128Dec v with
    | .fin s cf e =>
      let (m, inex) := fpInt 10 (← getCore c).frm s cf e
      let ov ← putExact c false o (signedMag m s)
      return { trap := ← raiseFlags c (flagBits [(fOV, ov), (fFIX, inex)]) }
    | _ => return { trap := ← raiseFlags c invalidF }

/-- DADDM. -/
def execDaddm (c : CoreId) (ob : BitVec 6) (lp : Parcel) (a b d : Spec) : State → Host.Outcome State Fault Refusal :=
  decBin c 0o120 ob lp a b d false true (· + ·)

/-- DSUBM. -/
def execDsubm (c : CoreId) (ob : BitVec 6) (lp : Parcel) (a b d : Spec) : State → Host.Outcome State Fault Refusal :=
  decBin c 0o121 ob lp a b d false true (· - ·)

/-- DCMPM. -/
def execDcmpm (c : CoreId) (ob : BitVec 6) (lp : Parcel) (a b d : Spec) : State → Host.Outcome State Fault Refusal :=
  decCmp c 0o122 ob lp a b d false true

/-- DZADM. -/
def execDzadm (c : CoreId) (ob : BitVec 6) (lp : Parcel) (a d : Spec) : State → Host.Outcome State Fault Refusal :=
  decUn c 0o123 ob lp a d false false true true false

/-- DTSTM. -/
def execDtstm (c : CoreId) (ob : BitVec 6) (lp : Parcel) (a d : Spec) : State → Host.Outcome State Fault Refusal :=
  decTst c 0o124 ob lp a d false true

/-- CVZPM (R112). -/
def execCvzpm (c : CoreId) (ob : BitVec 6) (lp : Parcel) (a d : Spec) : State → Host.Outcome State Fault Refusal :=
  decUn c 0o125 ob lp a d true false true false true

/-- CVPZM (R112). -/
def execCvpzm (c : CoreId) (ob : BitVec 6) (lp : Parcel) (a d : Spec) : State → Host.Outcome State Fault Refusal :=
  decUn c 0o126 ob lp a d false true true false true

/-- DCLZ (R121). -/
def execDclz (c : CoreId) (ob : BitVec 6) (lp : Parcel) (a d : Spec) : State → Host.Outcome State Fault Refusal :=
  instr (decIns c 0o127 ob lp [a, d]) do
    need (lp == 0 && okDecSrc (decL1 ob) a && okReg d) illegal
    let (x, upd) ← decOpd c 1 (decL1 ob) false .read a []
    match fieldVal false x.cells with
    | some (m, _) =>
      commitUpd c upd
      wrG c d.reg.toNat (BitVec.ofNat 36 (2 * decL1 ob - 1 - sig m))
      return {}
    | none => decInvalid c upd

/-! ## Zoned instructions (R130) -/

/-- ZADD. -/
def execZadd (c : CoreId) (ob : BitVec 6) (lp : Parcel) (a b d : Spec) : State → Host.Outcome State Fault Refusal :=
  decBin c 0o130 ob lp a b d true false (· + ·)

/-- ZSUB. -/
def execZsub (c : CoreId) (ob : BitVec 6) (lp : Parcel) (a b d : Spec) : State → Host.Outcome State Fault Refusal :=
  decBin c 0o131 ob lp a b d true false (· - ·)

/-- ZMUL. -/
def execZmul (c : CoreId) (ob : BitVec 6) (lp : Parcel) (a b d : Spec) : State → Host.Outcome State Fault Refusal :=
  decMul c 0o132 ob lp a b d true

/-- ZDIV. -/
def execZdiv (c : CoreId) (ob : BitVec 6) (lp : Parcel) (a b d : Spec) : State → Host.Outcome State Fault Refusal :=
  decDiv c 0o133 ob lp a b d true

/-- ZCMP. -/
def execZcmp (c : CoreId) (ob : BitVec 6) (lp : Parcel) (a b d : Spec) : State → Host.Outcome State Fault Refusal :=
  decCmp c 0o134 ob lp a b d true false

/-- ZSRP. -/
def execZsrp (c : CoreId) (ob : BitVec 6) (lp : Parcel) (a b d : Spec) : State → Host.Outcome State Fault Refusal :=
  decSrp c 0o135 ob lp a b d true

/-- ZZAD. -/
def execZzad (c : CoreId) (ob : BitVec 6) (lp : Parcel) (a d : Spec) : State → Host.Outcome State Fault Refusal :=
  decUn c 0o136 ob lp a d true true false false false

/-- ZTST. -/
def execZtst (c : CoreId) (ob : BitVec 6) (lp : Parcel) (a d : Spec) : State → Host.Outcome State Fault Refusal :=
  decTst c 0o137 ob lp a d true false

end Sys2Proof.Machine
end

