-- ==== Sys2Proof/Machine/GeyserChain.lean ====
section
/-!
DEFINITION. Geyser stream descriptors: their fields (R263 to R265), the checks of a descriptor (R266 to R268), and the chain's
stages on element values (R267, R269).
-/

namespace Sys2Proof.Machine

/-! ## Fields -/

/-- Word `n` of a descriptor. -/
def dw (x : List Word) (n : Nat) : Nat := (x.getD n 0).toNat

/-- DCTL fields (R264). -/
def dLast (x : List Word) : Bool := bitOf (dw x 0) 35
def dKind (x : List Word) : Nat := bitsOf (dw x 0) 34 32
def dC (x : List Word) : Bool := bitOf (dw x 0) 31
def dM (x : List Word) : Bool := bitOf (dw x 0) 30
def dA (x : List Word) : Bool := bitOf (dw x 0) 29
def dK (x : List Word) : Bool := bitOf (dw x 0) 28
def dLmode (x : List Word) : Nat := bitsOf (dw x 0) 27 26
def dSmode (x : List Word) : Nat := bitsOf (dw x 0) 25 23
def dStop (x : List Word) : Bool := bitOf (dw x 0) 22
def dDsm (x : List Word) : Bool := bitOf (dw x 0) 21
def dTwin (x : List Word) : Bool := bitOf (dw x 0) 20
def dNote (x : List Word) : Bool := bitOf (dw x 0) 19
/-- TYPES fields. -/
def dXtype (x : List Word) : Nat := bitsOf (dw x 1) 35 32
def dYtype (x : List Word) : Nat := bitsOf (dw x 1) 31 28
def dItype (x : List Word) : Nat := bitsOf (dw x 1) 27 24
def dDtype (x : List Word) : Nat := bitsOf (dw x 1) 23 20
def dCfn (x : List Word) : Nat := bitsOf (dw x 1) 19 16
def dMfn (x : List Word) : Nat := bitsOf (dw x 1) 15 12
def dAfn (x : List Word) : Nat := bitsOf (dw x 1) 11 8
def dKfn (x : List Word) : Nat := bitsOf (dw x 1) 7 4
/-- Element count *N*. -/
def dN (x : List Word) : Nat := bitsOf (dw x 2) 32 0
/-- PARAM fields. -/
def dShift (x : List Word) : Int := signed 8 (bitsOf (dw x 25) 35 28)
def dRnd (x : List Word) : Nat := bitsOf (dw x 25) 27 26
def dRunlen (x : List Word) : Nat := bitsOf (dw x 25) 25 13 + 1
def dKeyw (x : List Word) : Nat := bitsOf (dw x 25) 12 10 + 1
def dKord (x : List Word) : Bool := bitOf (dw x 25) 9
def dRlen (x : List Word) : Nat := bitsOf (dw x 25) 5 0 + 1
/-- RUNL of a merge pass. -/
def dRunl (x : List Word) : Nat := bitsOf (dw x 21) 32 0

/-- Word numbers of the operand pairs (R263). -/
def wX : Nat := 3
def wY : Nat := 5
def wIX : Nat := 7
def wMK : Nat := 9
def wWK : Nat := 11
def wDS : Nat := 13
def wRS : Nat := 15

/-- EN, SEG, STRIDE and OFFSET of the pair at word `n`. -/
def pEn (x : List Word) (n : Nat) : Bool := bitOf (dw x n) 35
def pSeg (x : List Word) (n : Nat) : Nat := bitsOf (dw x n) 34 32
def pStride (x : List Word) (n : Nat) : Nat := bitsOf (dw x n) 6 0
def pOff (x : List Word) (n : Nat) : Nat := dw x (n + 1)

/-- Cells of an element type (R265). -/
def gCells (x : List Word) (ty : Nat) : Nat :=
  match ty with
  | 1 => 1
  | 2 => 4
  | 3 => 8
  | 4 => 4
  | 5 => 8
  | 6 => 16
  | 7 => dRlen x
  | _ => 0

/-- Whether a type is a P-type. -/
def isP (ty : Nat) : Bool := decide (4 ≤ ty) && decide (ty ≤ 6)

/-- Whether a type is CELL, WORD or DWORD. -/
def isBin (ty : Nat) : Bool := decide (1 ≤ ty) && decide (ty ≤ 3)

/-! ## What a descriptor uses (R267, R268) -/

/-- A KIND 0 chain uses Y. -/
def usesY (x : List Word) : Bool :=
  (dM x && (dMfn x == 1 || dMfn x == 3)) || (dA x && (dAfn x == 1 || dAfn x == 2)) || (dK x && (dKfn x == 3 || dKfn x == 4))

/-- A KIND 0 chain uses CB. -/
def usesCB (x : List Word) : Bool := dM x && (dMfn x == 2 || dMfn x == 4)

/-- A KIND 0 chain uses CA. -/
def usesCA (x : List Word) : Bool :=
  (dA x && dAfn x == 3) || (dK x && (dKfn x == 2 || dKfn x == 5 || dKfn x == 6)) || dSmode x == 3

/-- A KIND 0 chain uses MK. -/
def usesMK (x : List Word) : Bool := dK x && (dKfn x == 1 || dKfn x == 2)

/-- A chain needs IX. -/
def needsIX (x : List Word) : Bool := dLmode x == 1 || dSmode x == 1

/-- A REC type is named. -/
def usesRec (x : List Word) : Bool := dXtype x == 7 || dYtype x == 7 || dDtype x == 7

/-- A compare of records. -/
def usesKey (x : List Word) : Bool := dK x && decide (3 ≤ dKfn x) && decide (dKfn x ≤ 6) && usesRec x

/-- Words `a` to `b` are 0. -/
def zeroWords (x : List Word) (a b : Nat) : Bool := (fromN a (b + 1 - a)).all fun n => dw x n == 0

/-- A pair in a place that is used or not: reserved bits 0, and all 0 when unused. -/
def pairOk (x : List Word) (n : Nat) (used : Bool) : Bool :=
  if used then bitsOf (dw x n) 31 7 == 0 else zeroWords x n (n + 1)

/-- A constant of `s` cells at word `n`: the rest is 0 (R263). -/
def constOk (x : List Word) (n s : Nat) : Bool :=
  cellsNat ((wordsCells ((fromN n 4).map fun k => x.getD k 0)).drop s) == 0

/-! ## Types through the chain (R267) -/

/-- Type after C. -/
def typeC (cfn ty : Nat) : Option Nat :=
  match cfn, ty with
  | 1, 4 => some 5
  | 2, 5 => some 6
  | 3, 4 => some 6
  | 4, 4 => some 2
  | 4, 5 => some 3
  | 5, 2 => some 5
  | 5, 3 => some 6
  | 6, 1 => some 2
  | 7, 2 => some 1
  | _, _ => none

/-- Type after M, given the type of the second factor. -/
def typeM (mfn ty y : Nat) : Option Nat :=
  if mfn ≤ 2 then
    match ty, y with
    | 4, 4 => some 5
    | 5, 4 => some 6
    | 5, 5 => some 6
    | _, _ => none
  else if ty = 2 ∧ y = 2 then some 3 else none

/-- Type after A. -/
def typeA (afn ty y : Nat) : Option Nat :=
  match afn with
  | 1 | 2 => if ty ≠ 7 ∧ (y = ty ∨ (isP ty ∧ isP y ∧ y < ty)) then some ty else none
  | 3 => if ty ≠ 7 then some ty else none
  | 4 => if isP ty then some ty else none
  | 5 => if isP ty then some 6 else if ty = 2 ∨ ty = 3 then some 3 else none
  | _ => none

/-- Type after K; nothing passes K after an accumulation. -/
def typeK (kfn ty y : Nat) (acc : Bool) : Option Nat :=
  if acc then none
  else match kfn with
    | 1 | 2 => some ty
    | 3 | 4 => if y = ty ∨ (isP ty ∧ isP y) then some 1 else none
    | 5 | 6 => some 1
    | _ => none

/-- The type that the last stage before S produces; none for a combination that the chain does not permit. -/
def chainType (x : List Word) : Option Nat := do
  let t ← some (dXtype x)
  let t ← if dC x then typeC (dCfn x) t else some t
  let t ← if dM x then typeM (dMfn x) t (dYtype x) else some t
  let acc := dA x && dAfn x == 5
  let t ← if dA x then typeA (dAfn x) t (dYtype x) else some t
  if dK x then typeK (dKfn x) t (dYtype x) acc else some t

/-- The type that stage K, or S, receives: what CA is a constant of. -/
def typeBeforeK (x : List Word) : Nat :=
  (do
    let t ← some (dXtype x)
    let t ← if dC x then typeC (dCfn x) t else some t
    let t ← if dM x then typeM (dMfn x) t (dYtype x) else some t
    if dA x then typeA (dAfn x) t (dYtype x) else some t).getD 0

/-! ## Descriptor checks (R266) -/

/-- Cause 1 for a KIND 0 descriptor: reserved values and unused fields. -/
def bad1Stream (x : List Word) : Bool :=
  let ix := pEn x wIX
  !(decide (dLmode x ≤ 1) && decide (dSmode x ≤ 4) && !dTwin x) ||
  !(if dC x then decide (1 ≤ dCfn x) && decide (dCfn x ≤ 7) else dCfn x == 0) ||
  !(if dM x then decide (1 ≤ dMfn x) && decide (dMfn x ≤ 4) else dMfn x == 0) ||
  !(if dA x then decide (1 ≤ dAfn x) && decide (dAfn x ≤ 5) else dAfn x == 0) ||
  !(if dK x then decide (1 ≤ dKfn x) && decide (dKfn x ≤ 7) else dKfn x == 0) ||
  (!(usesY x || usesCB x) && dYtype x != 0) || (!ix && dItype x != 0) || (dDsm x && !isP (dDtype x)) ||
  !(pairOk x wX true && pairOk x wY (usesY x) && pairOk x wIX ix && pairOk x wMK (usesMK x) && pairOk x wWK false &&
    pairOk x wDS true && pairOk x wRS (pEn x wRS)) ||
  !(if usesCA x then constOk x 17 (gCells x (typeBeforeK x)) else zeroWords x 17 20) ||
  !(if usesCB x then constOk x 21 (gCells x (dYtype x)) else zeroWords x 21 24) ||
  (!(dA x && dAfn x == 4) && bitsOf (dw x 25) 35 26 != 0) || dRnd x == 3 || bitsOf (dw x 25) 25 13 != 0 ||
  (!usesKey x && bitsOf (dw x 25) 12 9 != 0) || (!usesRec x && bitsOf (dw x 25) 5 0 != 0)

/-- Cause 1 for a KIND 1 or 2 descriptor. -/
def bad1Sort (x : List Word) : Bool :=
  let run := dKind x == 1
  let ix := run && dLmode x == 1
  bitsOf (dw x 0) 31 28 != 0 || dSmode x != 0 || dStop x || dDsm x || dTwin x ||
  !(if run then decide (dLmode x ≤ 1) else dLmode x == 0) ||
  dYtype x != 0 || bitsOf (dw x 1) 19 4 != 0 || (!ix && dItype x != 0) ||
  !(pairOk x wX true && pairOk x wY false && pairOk x wIX ix && pairOk x wMK false && pairOk x wWK run &&
    pairOk x wDS true && pairOk x wRS false) ||
  !zeroWords x 17 20 || !(if run then zeroWords x 21 24 else bitsOf (dw x 21) 35 33 == 0 && zeroWords x 22 24) ||
  bitsOf (dw x 25) 35 26 != 0 || (run && decide (4095 < bitsOf (dw x 25) 25 13)) || (!run && bitsOf (dw x 25) 25 13 != 0)

/-- Cause 1 for a KIND 3 descriptor: it uses no operand. -/
def bad1Fence (x : List Word) : Bool := bitsOf (dw x 0) 31 21 != 0 || !zeroWords x 1 1 || !zeroWords x 3 25

/-- Cause 1: a reserved field, value or type, or an unused field that is not 0. -/
def bad1 (x : List Word) : Bool :=
  decide (3 < dKind x) || bitsOf (dw x 0) 18 0 != 0 || bitsOf (dw x 1) 3 0 != 0 || bitsOf (dw x 2) 35 33 != 0 ||
  bitsOf (dw x 25) 8 6 != 0 || !zeroWords x 26 31 ||
  decide (7 < dXtype x) || decide (7 < dYtype x) || decide (7 < dItype x) || decide (7 < dDtype x) ||
  (if dKind x = 0 then bad1Stream x else if dKind x = 3 then bad1Fence x else bad1Sort x)

/-- IX, when used, holds WORD or DWORD values (R265). -/
def ixOk (x : List Word) : Bool := !pEn x wIX || dItype x == 2 || dItype x == 3

/-- Cause 2: a combination that R267 or R268 does not permit. -/
def bad2 (x : List Word) : Bool :=
  match dKind x with
  | 0 =>
    let t := chainType x
    !ixOk x || !(pEn x wX && pEn x wDS) || dXtype x == 0 || t != some (dDtype x) || dDtype x == 0 ||
    (dSmode x == 2 && !([5, 6, 2, 3].contains (dDtype x))) || (dSmode x == 3 && !(dDtype x == 5 || dDtype x == 6)) ||
    ((dSmode x == 4) != (dA x && dAfn x == 5)) || (needsIX x && !pEn x wIX) ||
    ((dSmode x == 0 || dSmode x == 4) && pEn x wIX && dLmode x != 1) ||
    (usesMK x && !pEn x wMK) || (usesY x && !(pEn x wY && dYtype x != 0)) || (usesCB x && dYtype x == 0)
  | 1 => !ixOk x || !(pEn x wX && pEn x wDS && pEn x wWK) || (dLmode x == 1 && !pEn x wIX)
  | 2 => !(pEn x wX && pEn x wDS)
  | _ => dw x 2 != 0

/-- Base of a segment register. -/
def SegReg.base' (s : SegReg) : Nat := match s.desc with | some x => x.base.toNat | none => 0

/-- A P-type operand whose linear base or stride is not aligned. -/
def misaligned (segs : AMap SegReg) (x : List Word) (n ty : Nat) : Bool :=
  let s := gCells x ty
  pEn x n && isP ty && (((segs.getD' (pSeg x n) {}).base' + pOff x n) % s != 0 || pStride x n % s != 0)

/-- Cause 3. -/
def bad3 (segs : AMap SegReg) (x : List Word) : Bool :=
  misaligned segs x wX (dXtype x) || misaligned segs x wY (dYtype x) || misaligned segs x wDS (dDtype x)

/-- Cause 6: sort parameters. -/
def bad6 (x : List Word) : Bool :=
  (dKind x == 1 || dKind x == 2) &&
  (decide (dRlen x < 4 * dKeyw x) || dXtype x != 7 || dDtype x != 7 || (dKind x == 2 && dRunl x == 0))

/-- The first descriptor fault in the order of R266; `lin` is the descriptor's linear address. -/
def descFault (segs : AMap SegReg) (lin : Nat) (x : List Word) : Option Nat :=
  if bad1 x then some 1
  else if bad2 x then some 2
  else if bad3 segs x then some 3
  else if 2 ^ 32 < dN x then some 4
  else if lin % 128 ≠ 0 then some 5
  else if bad6 x then some 6
  else none

/-! ## Element values (R267, R269) -/

/-- The value of an element. -/
inductive GVal where
  | dec (v : Int)
  | bin (v : Int)
  | record (cs : List Cell)
  /-- An invalid decimal element. -/
  | bad
  deriving DecidableEq, Repr

/-- The value of an element's cells. -/
def gVal (ty : Nat) (cs : List Cell) : GVal :=
  if isP ty then (match packedVal cs with | some (m, s) => .dec (signedMag m s) | none => .bad)
  else if isBin ty then .bin (signed (9 * cs.length) (cellsNat cs))
  else .record cs

/-- Whether a number fits a type (R269, R36). -/
def gFits (ty : Nat) (v : Int) : Bool :=
  match ty with
  | 4 => decide (v.natAbs < 10 ^ 7)
  | 5 => decide (v.natAbs < 10 ^ 15)
  | 6 => decide (v.natAbs < 10 ^ 31)
  | 1 => !ovSigned 9 v
  | 2 => !ovSigned 36 v
  | 3 => !ovSigned 72 v
  | _ => true

/-- A number of a type, or status 1 when it does not fit. -/
def gNum (ty : Nat) (v : Int) : Except Nat GVal :=
  if gFits ty v then .ok (if isP ty then .dec v else .bin v) else .error 1

/-- A number, or status 2 for an invalid element. -/
def gInt : GVal → Except Nat Int
  | .dec v => .ok v
  | .bin v => .ok v
  | .record _ => .ok 0
  | .bad => .error 2

/-- A constant of type `ty` at word `n`. CA and CB hold 16 cells; the further cells of a longer REC constant, of which the manual says
nothing, are 0 (log entry 126, DESIGN CHOICE). -/
def gConst (x : List Word) (n ty : Nat) : GVal :=
  gVal ty ((wordsCells ((fromN n 4).map fun k => x.getD k 0) ++ List.replicate 48 0).take (gCells x ty))

/-- A record's key (R277). -/
def recKey (x : List Word) (cs : List Cell) : Nat :=
  (cs.take (4 * dKeyw x)).foldl (fun a c => a * 512 + (if dKord x then c.toNat % 256 else c.toNat)) 0

/-- Stage A on numbers. -/
def stageA (x : List Word) (ty : Nat) (v : Int) (y : GVal) : Except Nat GVal :=
  match dAfn x with
  | 1 => do gNum ty (v + (← gInt y))
  | 2 => do gNum ty (v - (← gInt y))
  | 3 => do gNum ty (v + (← gInt (gConst x 17 ty)))
  | 4 => gNum ty (decShift (dRnd x) v (dShift x))
  | _ => .ok (if isP ty then .dec v else .bin v)

/-- A compare (R267): the cell 1 or 0. -/
def stageCmp (x : List Word) (eq : Bool) (a b : GVal) : Except Nat GVal :=
  match a, b with
  | .record p, .record q =>
    .ok (.bin (flagNat (if eq then recKey x p == recKey x q else decide (recKey x p < recKey x q))))
  | _, _ => do
    let u ← gInt a
    let v ← gInt b
    .ok (.bin (flagNat (if eq then u == v else decide (u < v))))

/-- The stages C, M, A on an element, or its status. -/
def stagesCMA (x : List Word) (v y : GVal) : Except Nat GVal := do
  let t0 := dXtype x
  match v with
  | .record cs => return .record cs
  | _ =>
    let n ← gInt v
    let t1 := if dC x then (typeC (dCfn x) t0).getD 0 else t0
    let v1 ← gNum t1 n
    let n1 ← gInt v1
    let t2 := if dM x then (typeM (dMfn x) t1 (dYtype x)).getD 0 else t1
    let v2 ← if dM x then (do
        let m ← gInt (if dMfn x % 2 = 1 then y else gConst x 21 (dYtype x))
        gNum t2 (n1 * m)) else pure v1
    let n2 ← gInt v2
    if dA x then stageA x t2 n2 y else return v2

/-- Stage K's compares. -/
def stageK (x : List Word) (v y : GVal) : Except Nat GVal :=
  if !dK x then .ok v
  else match dKfn x with
    | 3 => stageCmp x false v y
    | 4 => stageCmp x true v y
    | 5 => stageCmp x false v (gConst x 17 (typeBeforeK x))
    | 6 => stageCmp x true v (gConst x 17 (typeBeforeK x))
    | _ => .ok v

/-- The cells of a value, written over `old` (R269): decimals keep marks and take the sign mode. -/
def gStore (dsm : Bool) (old : List Cell) : GVal → List Cell
  | .dec v => keepMarks old (fieldResult false old.length v dsm).1
  | .bin v => natCells old.length (wrap (9 * old.length) v)
  | .record cs => cs
  | .bad => old

end Sys2Proof.Machine
end

