-- ==== Sys2Proof/Machine/Geyser.lean ====
section
/-!
DEFINITION. The Geyser stream engines (chapter 10): SGO and contexts (R255 to R261), accesses under a snapshot (R259, R282),
element commit (R280), pauses, stops and errors (R283 to R288), run formation and merge passes (R276 to R278), and the end of
descriptors and programs (R275, R261).
-/

namespace Sys2Proof.Machine

/-! ## Contexts -/

/-- Context `x` of island `i`'s engine. -/
def Dev.ctx (d : Dev) (i x : Nat) : Option GeyCtx := (d.isl i).ctxs.find x

/-- Replace a context. -/
def Dev.setCtx (d : Dev) (i x : Nat) (g : GeyCtx) : Dev := d.updIsl i fun s => { s with ctxs := s.ctxs.put x g }

/-- Change a context. -/
def Dev.updCtx (d : Dev) (i x : Nat) (f : GeyCtx → GeyCtx) : Dev :=
  match d.ctx i x with
  | some g => d.setCtx i x (f g)
  | none => d

/-- Free a context. -/
def Dev.freeCtx (d : Dev) (i x : Nat) : Dev :=
  d.updIsl i fun s => { s with ctxs := s.ctxs.del x, order := s.order.filter (· != x),
                               running := if s.running = some x then none else s.running }

/-- Word `n` of the engine's copy of the SCB (R256). -/
def GeyCtx.word (g : GeyCtx) (n : Nat) : Nat := (g.w.getD' n 0).toNat

/-- Write a word of the engine's copy. -/
def GeyCtx.setWord (g : GeyCtx) (n v : Nat) : GeyCtx := { g with w := g.w.put n (BitVec.ofNat 36 v) }

/-- Add to a word of the engine's copy, modulo 2³⁶. -/
def GeyCtx.addWord (g : GeyCtx) (n v : Nat) : GeyCtx := g.setWord n ((g.word n + v) % 2 ^ 36)

/-- NEXT. -/
def GeyCtx.next (g : GeyCtx) : Nat := g.word 2

/-- Whether island `i`'s engine works: the device runs, neither island nor engine is fenced, and no lasting fault of the engine waits
for its fence (R455). -/
def Dev.geyLive (d : Dev) (i : Nat) : Bool :=
  d.active && !d.islandDown i && !d.bit (offGYCTL i) 0 && !d.bit (offISLCLK i) 9 &&
  !(d.hub.lasting.any fun u => match u.1 with | .geyser k => k.val == i | _ => false)

/-- Raise engine interrupt source `j` (R291). -/
def Dev.geyRaise (d : Dev) (i j : Nat) : Dev := d.raise (384 + 8 * i + j)

/-- Elements between switch points of a stream or merge pass (R260). -/
def sliceMax : Nat := 65536

/-- Count `n` elements of the running context toward its next switch point, and in GYELEM (R260, R290). -/
def Dev.elements (d : Dev) (i n : Nat) : Dev :=
  (d.updIsl i fun s => { s with slice := (if sliceMax ≤ s.slice then 0 else s.slice) + n }).setFld (offGYELEM i) 63 0
    ((d.rd (offGYELEM i) + n) % 2 ^ 64)

/-- Whether stores of island `i`'s engine to register windows have not yet reached their registers. -/
def Dev.geyStores (d : Dev) (i : Nat) : Bool := d.regNet.any fun r => r.geyser && r.n == i

/-- What samples have counted, as `old` had it: an access that waits is repeated, and is counted once (R353). -/
def Dev.heatAs (d old : Dev) : Dev :=
  if d.sampling then { d with cal := old.cal }.setFld offCLSTAT 31 24 (old.fld offCLSTAT 31 24) else d

/-! ## Accesses (R259, R282) -/

/-- The root that a translation of a snapshot uses: none when it is the root in effect. -/
def Dev.geyRoot (d : Dev) (g : GeyCtx) : Option Nat :=
  if d.rd (offRoot1 g.world false) = g.droot.toNat then none else some g.droot.toNat

/-- The checks of each cell after its translation: bank ownership (R282), `wk` for a work area, then poison of a cell read. -/
def geyCells (i : Nat) (acc : Access) (wk : Bool) (rep : Rep) : List (Nat × Nat × PLoc) → M Unit
  | [] => return ()
  | (j, lin, p) :: t => do
    let d ← get
    match d.region p.addr with
    | .bank b =>
      if b ≠ i then raiseE (rep.exc 12 2 j lin)
      if d.bankHeld p.addr then waitM
      if accWrites acc then
        match d.ownCheck p.addr 2 with
        | .ok => pure ()
        | .waits => waitM
        | .refused => raiseE (rep.exc 12 1 j lin)
    | _ => if wk then raiseE (rep.exc 12 3 j lin)
    if accReads acc && !accSent acc && d.poisoned p then raiseE (rep.exc 41 0 j lin)
    geyCells i acc wk rep t

/-- Translate the pages of an access of a context: each cell's number in the operand, its linear address and its place. -/
def geyPages (i : Nat) (g : GeyCtx) (acc : Access) (segKey : Nat) (rep : Rep) (n : Nat) :
    List (Nat × Nat × Nat) → M (List (Nat × Nat × PLoc))
  | [] => return []
  | (i0, lin, m) :: t => do
    let d ← get
    let q : TrReq := { world := g.world, sup := g.sup, page := lin / 4096 % 2 ^ 36, acc := acc, segKey := segKey,
                       pkr := g.pkr.toNat, root := d.geyRoot g, off := lin % 4096, n := n }
    let (d, r) := d.translate i none q
    set d
    match r with
    | .error ⟨0, _, _⟩ => waitM
    | .error f => raiseE { rep.exc 5 f.cause i0 lin with stage := f.stage, wlev := f.lev }
    | .ok e =>
      let a := e.frame * 4096 + lin % 4096
      let se := e.se1 || e.se2 || d.windowed a
      let rest ← geyPages i g acc segKey rep n t
      return ((upto m).map fun j => (i0 + j, lin + j, { addr := a + j, pol := e.pol, se := se })) ++ rest

/-- Translate every page of an access of a context, then check the ownership of banks and the poison of what is read (R282). -/
def geyChunk (i : Nat) (g : GeyCtx) (acc : Access) (wk : Bool) (segKey : Nat) (rep : Rep) (n : Nat) (pages : List (Nat × Nat × Nat)) :
    M (List PLoc) := do
  let cs ← geyPages i g acc segKey rep n pages
  let ps := cs.map (·.2.2)
  if !accSent acc then modify fun d => d.readLines ps
  geyCells i acc wk rep cs
  return ps

/-- An access of `n` cells at offset `off` of segment `seg` of a snapshot. -/
def geyAccess (i : Nat) (g : GeyCtx) (acc : Access) (wk : Bool) (rep : Rep) (n : Nat) : M MemLoc := do
  let x ← segCheck (g.segs.getD' rep.seg {}) acc rep n
  let ps ← geyChunk i g acc wk x.key.toNat rep n (pageChunks (n + 1) 0 (x.base.toNat + rep.off) n)
  return { cells := ps, jr := x.jr, segtag := x.segtag, lin := x.base.toNat + rep.off }

/-- A cell as a stream reads it: a source cell that the descriptor has overwritten is read before or after that write (R274). -/
def Dev.geyCell (d : Dev) (g : GeyCtx) (p : PLoc) : Cell :=
  match g.overlay.find p.key with
  | some c => if Config.overlapAfter d.free p.addr then d.cell p else c
  | none => d.cell p

/-- A read of a context that leaves the device (R381, R449). -/
def geyExt (i x : Nat) (g : GeyCtx) (a n : Nat) (rep : Rep) (j lin : Nat) (ok : Bool) (launch : Dev → Dev) : M (List Cell) := do
  match g.ext.find? fun e => e.addr == a && e.n == n with
  | some e =>
    match e.data with
    | some cs => if e.poisoned then raiseE (rep.exc 41 0 j lin) else return cs
    | none => throw Stop.hold
  | none =>
    if !ok then raiseE (rep.exc 41 0 j lin)
    modify fun d => launch (d.updCtx i x fun g => { g with ext := g.ext ++ [{ addr := a, n := n }] })
    throw Stop.hold

/-- Read the cells of one page of a context's operand; `exact` reads the current cells. -/
def geyReadRun (i x : Nat) (g : GeyCtx) (exact : Bool) (rep : Rep) (j lin : Nat) (ps : List PLoc) : M (List Cell) := do
  match ps with
  | [] => return []
  | p :: _ =>
    let d ← get
    match d.region p.addr with
    | .ledWin | .cusWin =>
      if d.geyStores i then waitM
      let v := if p.addr < cusWinBase then View.lwin else View.cwin
      let off := p.addr - (if p.addr < cusWinBase then ledWinBase else cusWinBase)
      let (y, d) := d.readReg v (off / 8 * 8) (8 * (off % 8) + 8 * ps.length - 1) (8 * (off % 8))
      set d
      return natCells ps.length (if ps.length = 4 then y / 2 ^ (8 * (off % 8)) % 2 ^ 32 else y)
    | .host => geyExt i x g p.addr ps.length rep j lin d.hostReady fun d => d.send (.hostRead (p.addr - hostWinBase) ps.length)
    | .far w => geyExt i x g p.addr ps.length rep j lin true fun d =>
        d.datagram (d.farPeer w) (.request (.read (Fin.ofNat 96 (8 * i)) (BitVec.ofNat 38 p.addr) ps.length))
    | _ =>
      if d.postQueued ps then waitM
      return if exact then d.cells ps else ps.map (d.geyCell g)

/-- Read the pages of a checked operand of a context, from cell `j` on. -/
def geyReads (i x : Nat) (g : GeyCtx) (exact : Bool) (rep : Rep) (j lin : Nat) : List (List PLoc) → M (List Cell)
  | [] => return []
  | r :: t => do
    let a ← geyReadRun i x g exact rep j lin r
    let b ← geyReads i x g exact rep (j + r.length) (lin + r.length) t
    return a ++ b

/-- The pages of a checked operand. -/
def MemLoc.pages (l : MemLoc) : List (List PLoc) := (runsBy 4096 (l.cells.map fun p => (p, 0))).map fun r => r.map (·.1)

/-- Read a checked operand of a context. -/
def geyRead (i x : Nat) (g : GeyCtx) (exact : Bool) (rep : Rep) (loc : MemLoc) : M (List Cell) :=
  geyReads i x g exact rep 0 loc.lin loc.pages

/-- A store has written cells of one line: a poisoned line all of whose cells the stores of one descriptor have written in succession is
written whole, and loses POISON (R298, log entry 125). -/
def Dev.coverRun (d : Dev) (i x : Nat) (ps : List PLoc) : Dev :=
  match ps, d.ctx i x with
  | p :: _, some g =>
    if !d.poisoned p then d
    else
      let l := p.addr / 128
      let m := ps.foldl (fun m q => m ||| BitVec.ofNat 128 (2 ^ (q.addr % 128))) (if g.coverLine = l then g.cover else 0)
      if m = BitVec.allOnes 128 then (d.updInfo p fun n => { n with poison := false }).setCtx i x { g with cover := 0 }
      else d.setCtx i x { g with coverLine := l, cover := m }
  | _, _ => d

/-- Write one page of a context's operand; `field` where only bits 7:0 are written, which the cells already show for memory of this
device (R28, R269). -/
def geyWriteRun (i x : Nat) (jr : Bool) (segtag : BitVec 16) (field : Bool) (run : List (PLoc × Cell)) : M Unit := do
  match run with
  | [] => return ()
  | (p, _) :: _ =>
    let ps := run.map (·.1)
    let cs := run.map (·.2)
    let d ← get
    match d.region p.addr with
    | .localMem | .bank _ =>
      if (jr && !d.journalReady) || d.postQueued ps then waitM
      let d := d.updCtx i x fun g => { g with overlay := ps.foldl (fun m p => m.put p.key (d.cell p)) g.overlay }
      let d := d.writeLoc { cells := ps, jr := jr, segtag := segtag } cs i none
      set ((lineRuns ps).foldl (fun d r => d.coverRun i x r) d)
    | .far w =>
      let a := BitVec.ofNat 38 p.addr
      set (d.datagram (d.farPeer w) (.request (if field then .field a cs else .write a cs)))
    | .host =>
      set (if d.hostReady then d.send (.hostWrite (p.addr - hostWinBase) (cs.map cellByte))
           else d.logEvent 0x16 13 0 3 (p.addr - hostWinBase) 0)
    | .ledWin | .cusWin =>
      let v := if p.addr < cusWinBase then View.lwin else View.cwin
      let off := p.addr - (if p.addr < cusWinBase then ledWinBase else cusWinBase)
      set (d.regStore { geyser := true, n := i, v := v, off := off, size := cs.length, value := BitVec.ofNat 64 (cellsNat cs) })
    | .none => return ()

/-- Write the pages of a context's operand. -/
def geyWriteRuns (i x : Nat) (jr : Bool) (segtag : BitVec 16) (field : Bool) : List (List (PLoc × Cell)) → M Unit
  | [] => return ()
  | r :: t => do
    geyWriteRun i x jr segtag field r
    geyWriteRuns i x jr segtag field t

/-- Write cells at a checked operand of a context. -/
def geyWrite (i x : Nat) (loc : MemLoc) (cs : List Cell) (field : Bool := false) : M Unit :=
  geyWriteRuns i x loc.jr loc.segtag field (runsBy 4096 (loc.cells.zip cs))

/-- Store a value at a checked operand of a context (R269). -/
def geyStore (i x : Nat) (loc : MemLoc) (dsm : Bool) (v : GVal) : M Unit := do
  let old := (← get).cells loc.cells
  geyWrite i x loc (gStore dsm old v) (match v with | .dec _ => true | _ => false)

/-! ## The SCB and events (R256, R261) -/

/-- FKIND and the words 4 to 7 of an event that an access raised (R256, R342). -/
def faultWords (e : Exc) : Nat × Nat × Nat × Nat :=
  let fkind := if e.vec = 4 then 1 else if e.vec = 5 then 2 else if e.vec = 41 then 6 else 3
  let cause := if e.vec = 41 then 1 else e.cause
  (e.opnd * 2 ^ 32 + fkind * 2 ^ 28 + cause * 2 ^ 24 + e.stage * 2 ^ 22 + e.wlev * 2 ^ 19,
   e.lin / 2 ^ 36 % 2 ^ 12, e.lin % 2 ^ 36, e.info1 % 2 ^ 36)

/-- Set words 4 to 7. -/
def GeyCtx.setFault (g : GeyCtx) (a b c f : Nat) : GeyCtx := (((g.setWord 4 a).setWord 5 b).setWord 6 c).setWord 7 f

/-- Word 0 of an SCB with another STATE; its reserved bits 7:0 are written 0. -/
def scbWord0 (old st : Nat) : Nat := setBits (old / 256 * 256) 29 26 st

/-- Write the SCB with STATE `st` at the linear address that names it. -/
def scbWrite (i x st : Nat) (g : GeyCtx) : M Unit := do
  let rep : Rep := { opnd := 9 }
  let ps ← geyChunk i g .rmw false g.scbKey.toNat rep 64 (pageChunks 65 0 g.scbLin 64)
  let old ← geyRead i x g true rep { cells := ps.take 4, lin := g.scbLin }
  let ws := natCells 4 (scbWord0 (cellsNat old) st) ++ (fromN 1 15).flatMap fun n => natCells 4 (g.word n)
  geyWrite i x { cells := ps, jr := g.scbJr, segtag := g.scbTag } ws

/-- The queue's descriptor whose program has ended (R398) is finished. -/
def Dev.streamDone (d : Dev) (q index st : Nat) (g : GeyCtx) : Dev :=
  match (d.queues.getD' q {}).descs.find? fun e => e.index == index && e.st == .streaming with
  | some e => d.finish q e (if st = 5 then 0x00 else if st = 6 then 0x0B else 0x0C) g.next (g.word 4 / 2 ^ 24 % 256)
  | none => d

/-- The completion of a host-started program at STATE 5, 6 or 7 (R262). -/
def GeyCtx.streamEnd (g : GeyCtx) (d : Dev) (st : Nat) : Dev :=
  match g.queue with
  | some (q, n) => if 5 ≤ st then d.streamDone q n st g else d
  | none => d

/-- Raise the Geyser completion event for a context's owner (R261, R225). -/
def Dev.geyEvent (d : Dev) (i : Nat) (g : GeyCtx) : Dev :=
  let s := (d.core g.core).slot g.slot
  if !s.valid || s.st == .free then (d.logEvent 0x1C 3 i 0 0 (g.slot * 256)).geyRaise i 1
  else d.schedEvent g.core g.slot 1 d.now

/-- Write the SCB with STATE `st`, then raise the event; a failed write raises source 2 and is owed (R261). The second part says
whether this is done: not while the write waits, for which it may have sent a read. -/
def Dev.geyReport (d : Dev) (i x st : Nat) : Dev × Bool :=
  match d.ctx i x with
  | none => (d, true)
  | some g =>
    match (scbWrite i x st g : M Unit) d with
    | (.ok (), d') => ((d'.updCtx i x fun g => { g with scbOwed := false, ext := [] }).geyEvent i g, true)
    | (.error (.exc _), d') => ((d'.updCtx i x fun g => { g with scbOwed := true, ext := [] }).geyRaise i 2, true)
    | (.error .hold, d') => (d', false)
    | (.error .wait, _) => (d, false)

/-- Bring a context to STATE `st` (3 to 7): report, free it when it has ended, and let the next context run. -/
def Dev.geyFinish (d : Dev) (i x st : Nat) : Dev :=
  match d.ctx i x with
  | none => d
  | some g =>
    match d.geyReport i x st with
    | (d, false) => d
    | (d, true) =>
      let d := if st = 7 then d.geyRaise i 0 else d
      let d := g.streamEnd d st
      let owed := match d.ctx i x with | some g => g.scbOwed | none => false
      let d := if (st = 5 || st = 6) && !owed then d.freeCtx i x
               else d.updCtx i x fun g => { g with st := BitVec.ofNat 4 st, ending := none, desc := none, cancel := false }
      d.updIsl i fun s => { s with running := if s.running = some x then none else s.running, slice := 0 }

/-- Begin a pause, stop, cancel or error at element `k` (R283, R284, R287, R288). -/
def GeyCtx.ends (g : GeyCtx) (st fel next : Nat) : GeyCtx :=
  { ((g.setWord 3 fel).setWord 2 next) with ending := some (BitVec.ofNat 4 st), ext := [] }

/-- What a stopped action of the running context leaves: it waits, or the context pauses or errs at element `fel`, to resume at
`next`. -/
def Dev.geyRun (d : Dev) (i x fel next : Nat) (act : M Unit) : Dev :=
  match act d with
  | (.ok (), d') => d'
  | (.error .wait, _) => d
  | (.error .hold, d') => d'.heatAs d
  | (.error (.exc e), d') =>
    let (a, b, c, f) := faultWords e
    d'.updCtx i x fun g => (g.setFault a b c f).ends (if e.vec = 41 then 7 else 3) fel next

/-- Change a context, as an action. -/
def modCtx (i x : Nat) (f : GeyCtx → GeyCtx) : M Unit := modify fun d => d.updCtx i x f

/-! ## SGO (R258) -/

/-- The number of a context. -/
def findCtx (s : Island) (world : Bool) (lin : Nat) : Option Nat :=
  (s.ctxs.find? fun p => p.2.world == world && p.2.scbLin == lin).map (·.1)

/-- A context number that is free. -/
def freeNumber (s : Island) : Option Nat := (upto 16).find? fun n => (s.ctxs.find n).isNone

/-- What an SGO does (R258): STATE written, word 4 written (none: kept), and whether words 2 to 15 are set to 0. -/
structure SgoResult where
  st : Nat
  w4 : Option Nat
  clear : Bool := false
  deriving DecidableEq, Repr

/-- Refused, with FKIND 7 and a cause. -/
def sgoRefused (cause : Nat) : SgoResult := { st := 8, w4 := some (7 * 2 ^ 28 + cause * 2 ^ 24) }

/-- Start, resume or cancel on island `i`'s engine for the context that `g` describes (R258). -/
def Dev.sgo (d : Dev) (i cmd : Nat) (g : GeyCtx) : Dev × SgoResult :=
  let s := d.isl i
  match cmd, findCtx s g.world g.scbLin with
  | 0, some _ => (d, sgoRefused 1)
  | 0, none =>
    match freeNumber s with
    | some n =>
      if d.bit (offGYCTL i) 1 || d.bit (offGYCTL i) 0 then (d, sgoRefused 2)
      else (d.updIsl i fun s => { s with ctxs := s.ctxs.put n g, order := s.order ++ [n] }, { st := 1, w4 := some 0, clear := true })
    | none => (d, sgoRefused 2)
  | 1, some n =>
    match s.ctxs.find n with
    | some h =>
      if h.st = 3 ∨ h.st = 4 then
        let h := { h with segs := g.segs, pkr := g.pkr, sup := g.sup, croot := g.croot, droot := g.droot, slot := g.slot, core := g.core, pseg := g.pseg,
                          det := g.det, st := 1, desc := none, ending := none }
        (d.updIsl i fun s => { s with ctxs := s.ctxs.put n (h.setWord 4 0), order := s.order ++ [n] }, { st := 1, w4 := some 0 })
      else (d, sgoRefused 3)
    | none => (d, sgoRefused 3)
  | 1, none => (d, sgoRefused 3)
  | 2, some n =>
    if s.running = some n then (d.updCtx i n fun h => { h with cancel := true }, { st := 1, w4 := none })
    else
      let d := match s.ctxs.find n with
        | some h => h.streamEnd d 6
        | none => d
      (d.freeCtx i n, { st := 6, w4 := none })
  | 2, none => (d, sgoRefused 3)
  | _, _ => (d, sgoRefused 4)

/-- Word 0 of the SCB after an SGO (R256). -/
def sgoWord0 (w0 : Nat) (st slot core : Nat) (world : Bool) (i : Nat) : Nat :=
  w0 / 2 ^ 30 * 2 ^ 30 + st * 2 ^ 26 + slot * 2 ^ 20 + core * 2 ^ 13 + flagNat world * 2 ^ 12 + i * 2 ^ 8

/-- Write an SCB that is owed at the SGO's own checked operand, before it is acted on (R261). -/
def Dev.payOwed (d : Dev) (i : Nat) (world : Bool) (lin : Nat) (cells : List PLoc) : Dev :=
  match findCtx (d.isl i) world lin with
  | none => d
  | some n =>
    match d.ctx i n with
    | some h =>
      if h.scbOwed then
        let old := cellsNat (d.cells (cells.take 4))
        let ws := natCells 4 (scbWord0 old h.st.toNat) ++ (fromN 1 15).flatMap fun n => natCells 4 (h.word n)
        let d := d.writeLoc { cells := cells, jr := h.scbJr, segtag := h.scbTag } ws i none
        if h.st = 5 ∨ h.st = 6 then d.freeCtx i n else d.updCtx i n fun h => { h with scbOwed := false }
      else d
    | none => d

/-- SGO, whatever its CMD. -/
def sgoBody (x : Ins) (a : Spec) : M Done := do
  need (x.ob == 0 && okMem a) illegal
  let k ← getCore x.c
  need (k.plev == 0) illegal
  let (loc, rep, upd) ← memOpd x.c 1 64 .rmw a []
  storesVisible x.c
  let d ← get
  if (loc.jr && !d.journalReady) || d.postQueued loc.cells then waitM
  let k := d.core x.c
  let i := x.c / 8
  let seg := k.segAt k.bankNo rep.seg
  let lin := (seg.base' + rep.off) % 2 ^ 48
  set (d.payOwed i k.world lin loc.cells)
  let cs ← readLoc x.c rep loc
  let w0 := cellsNat (cs.take 4)
  let d ← get
  let slot := k.runSlot.getD 0
  let g : GeyCtx := {
    world := k.world, scbLin := lin, scbKey := (match seg.desc with | some s => s.key | none => 0), scbJr := loc.jr,
    scbTag := loc.segtag, pseg := bitsOf w0 32 30, segs := k.bank.s, pkr := (k.wr k.world).pkr, sup := k.sup,
    croot := BitVec.ofNat 64 (d.rd (offRoot1 k.world true)), droot := BitVec.ofNat 64 (d.rd (offRoot1 k.world false)), slot := slot,
    core := x.c, st := 1,
    w := [(1, cellsWord ((cs.drop 4).take 4))], det := k.det }
  let (d, r) := d.sgo i (bitsOf w0 35 33) g
  set d
  commitUpd x.c upd
  let w0' := natCells 4 (sgoWord0 w0 r.st slot x.c k.world i)
  let w4' := match r.w4 with | some v => natCells 4 v | none => (cs.drop 16).take 4
  let out := if r.clear then w0' ++ (cs.drop 4).take 4 ++ List.replicate 56 0
             else w0' ++ (cs.drop 4).take 12 ++ w4' ++ cs.drop 20
  if r.clear then storeLoc x.c loc out
  else
    storeLoc x.c { loc with cells := loc.cells.take 4 } w0'
    if r.w4.isSome then storeLoc x.c { loc with cells := (loc.cells.drop 16).take 4 } w4'
  drainAll x.c
  return {}

/-- SGO with CMD 0. -/
def execSgoStart (c : CoreId) (ob : BitVec 6) (a : Spec) : State → Host.Outcome State Fault Refusal :=
  let x : Ins := { c := c, op := 0o034, ob := ob.toNat, specs := [a] }
  instr x (sgoBody x a)

/-- SGO with CMD 1. -/
def execSgoResume (c : CoreId) (ob : BitVec 6) (a : Spec) : State → Host.Outcome State Fault Refusal :=
  let x : Ins := { c := c, op := 0o034, ob := ob.toNat, specs := [a] }
  instr x (sgoBody x a)

/-- SGO with CMD 2. -/
def execSgoCancel (c : CoreId) (ob : BitVec 6) (a : Spec) : State → Host.Outcome State Fault Refusal :=
  let x : Ins := { c := c, op := 0o034, ob := ob.toNat, specs := [a] }
  instr x (sgoBody x a)

/-! ## Descriptors -/

/-- Lift an engine effect on the running context; nothing happens while the engine does not work or no context runs. -/
def onCtx (i : Nat) (f : Dev → Nat → GeyCtx → Dev) : State → Host.Outcome State Fault Refusal :=
  onDev fun d =>
    if !d.geyLive i then d
    else match (d.isl i).running with
      | none => d
      | some x => match d.ctx i x with
        | some g => f d x g
        | none => d

/-- Offset and segment of the current descriptor (R256). -/
def descRep (g : GeyCtx) : Rep := { opnd := 8, seg := g.pseg, off := g.word 1 }

/-- Fetch and check the current descriptor (R263, R266). -/
def fetchDesc (i x : Nat) (g : GeyCtx) : M Unit := do
  let rep := descRep g
  let loc ← geyAccess i g .read false rep 128
  let ws := cellsWords (← geyRead i x g true rep loc)
  match descFault g.segs ((g.segs.getD' g.pseg {}).base' + rep.off) ws with
  | none => modCtx i x fun g => { g with desc := some ws, ext := [] }
  | some c => modCtx i x fun g => (g.setFault (8 * 2 ^ 32 + 4 * 2 ^ 28 + c * 2 ^ 24) 0 0 0).ends 3 g.next g.next

/-- A cancel takes effect at an element boundary (R284). -/
def GeyCtx.cancelled (g : GeyCtx) : GeyCtx := (g.setFault 0 0 0 0).ends 6 g.next g.next

/-- DESCRIPTOR_CHECK: the next queued context runs if none does; the running context's next descriptor is fetched and checked, once
every store of the engine is visible (R275). -/
def execDescriptorCheck (i : IslandId) : State → Host.Outcome State Fault Refusal :=
  onDev fun d =>
    if !d.geyLive i then d
    else
      let d := match (d.isl i).running, (d.isl i).order with
        | none, n :: t => d.updIsl i fun s => { s with running := some n, order := t, slice := 0, edge := false }
        | _, _ => d
      match (d.isl i).running with
      | none => d
      | some x => match d.ctx i x with
        | none => d
        | some g =>
          if g.ending.isSome || g.desc.isSome then d
          else if g.cancel then d.setCtx i x g.cancelled
          else if d.geyStores i then d
          else (d.updIsl i fun s => { s with edge := false }).geyRun i x g.next g.next (fetchDesc i x g)

/-! ## Elements of a stream (R271, R280, R282) -/

/-- The offset of position `e` of the operand pair at word `n`, of element size `s` (R271). -/
def elemOff (x : List Word) (n s e : Nat) : Nat := pOff x n + e * (if pStride x n = 0 then s else pStride x n)

/-- Access position `e` of an operand: its location and report. An access to local device memory is an event for Caldera's samples
(R353). -/
def elemAccess (i : Nat) (g : GeyCtx) (x : List Word) (opnd n s e : Nat) (acc : Access) : M (MemLoc × Rep) := do
  let rep : Rep := { opnd := opnd, seg := pSeg x n, off := elemOff x n s e }
  let loc ← geyAccess i g acc (n == wWK) rep s
  match loc.cells with
  | p :: _ => if !accSent acc && p.isLocal then modify fun d => d.heatEvent (geyserReq i) p.addr g.world i 0
  | [] => pure ()
  return (loc, rep)

/-- Read position `e` of an operand. -/
def elemRead (i c : Nat) (g : GeyCtx) (x : List Word) (opnd n s e : Nat) : M (List Cell) := do
  let (loc, rep) ← elemAccess i g x opnd n s e .read
  geyRead i c g false rep loc

/-- A free value as an element status (R289): for a post whose word is not aligned, of which the manual states
none; it is one of the posting unit's outcomes (R273). -/
def freeStatus (d : Dev) : Nat := (Config.freeWord d.free).toNat % 4

/-- Count a status (R289). -/
def GeyCtx.count (g : GeyCtx) (st : Nat) : GeyCtx :=
  if st = 1 then g.addWord 8 1 else if st = 2 then g.addWord 9 1 else if st = 3 then g.addWord 10 1 else g

/-- Write an RS cell (R289). -/
def putStatus (i c : Nat) (rs : Option MemLoc) (st : Nat) : M Unit :=
  match rs with
  | some loc => geyWrite i c loc [BitVec.ofNat 9 st]
  | none => return ()

/-- The accumulator in CHAIN (R286): all words 0 is the value 0. -/
def accOf (x : List Word) (g : GeyCtx) : GVal :=
  let cs := wordsCells ((fromN 12 4).map fun n => g.w.getD' n 0)
  if cellsNat cs = 0 then (if dDtype x = 6 then .dec 0 else .bin 0) else gVal (dDtype x) (cs.take (gCells x (dDtype x)))

/-- Write the accumulator into CHAIN. -/
def GeyCtx.setAcc (g : GeyCtx) (cs : List Cell) : GeyCtx :=
  ((fourWords cs).zip (fromN 12 4)).foldl (fun g p => g.setWord p.2 p.1.toNat) g

/-- Add an element to the accumulator (R269): its status. -/
def accumulate (x : List Word) (g : GeyCtx) (v : GVal) : GeyCtx × Nat :=
  let r : Except Nat GVal := do
    let a ← gInt (accOf x g)
    gNum (dDtype x) (a + (← gInt v))
  match r with
  | .ok s => (g.setAcc (gStore (dDsm x) (List.replicate (gCells x (dDtype x)) 0) s), 0)
  | .error st => (g, st)

/-- Whether a chain alters its elements before a post. -/
def altered (x : List Word) : Bool := dC x || dM x || dA x || (dK x && dKfn x == 2)

/-- Send a post (R273): its number. -/
def geySend (i c : Nat) (g : GeyCtx) (x : List Word) (loc : MemLoc) (cs : List Cell) (rs : Option MemLoc) : M Unit := do
  let d ← get
  if d.fenced then waitM
  let ty := match dDtype x with | 5 => 0 | 6 => 1 | 2 => 2 | _ => 3
  let op := if dSmode x = 3 then 1 else if ty ≤ 1 then 0 else 4
  let floor := if op = 1 then (wordsCells ((fromN 17 4).map fun k => x.getD k 0)).take (gCells x (dDtype x)) else []
  let p : Posting := { id := d.nextPost, who := .geyser i c g.next, op := BitVec.ofNat 4 op, ty := BitVec.ofNat 2 ty,
                       dsm := dDsm x, x := cs, y := floor, loc := loc.cells.headD { addr := 0 }, jr := loc.jr, segtag := loc.segtag, world := g.world }
  set (({ d with nextPost := d.nextPost + 1 }.launch p).updCtx i c fun g =>
    { g with posts := g.posts ++ [({ id := p.id, rs := rs, desc := g.descNo } : GeyPost)] })

/-- Advance past an element that has committed: positions, counts, and a stop when STOP is 1 and its status is 1 or 2 (R287). -/
def committed (i c : Nat) (x : List Word) (st : Nat) (took passed wrote : Bool) : M Unit := do
  modCtx i c fun g =>
    let k := g.next
    let g := (g.setWord 2 (k + 1)).count st
    let g := if wrote then g.addWord 11 1 else g
    let g := { g with xpos := if took then g.xpos + 1 else g.xpos, dpos := if passed then g.dpos + 1 else g.dpos, ext := [] }
    if dStop x && (st == 1 || st == 2) then (g.setFault (5 * 2 ^ 28) 0 0 0).ends 4 k (k + 1) else g
  modify fun d => (d.elements i 1).bumpFree

/-- One element of a KIND 0 stream (R271, R280, R282): operands in order, stages, then the store, post or accumulation with its RS
cell. L reads nothing ahead of it (R281, log entry 128). Under expand the mask cell says whether X is taken; a fault of the mask cell is
raised after those of IX, X and Y, as if X were taken; X and, under LMODE 1, its index are read at X's own position, the index of the
destination and Y at the element's (log entry 129). -/
def streamElem (i c : Nat) (g : GeyCtx) (x : List Word) : M Unit := do
  let e := g.next
  let expand := dK x && dKfn x == 2
  let compress := dK x && dKfn x == 1
  let post := dSmode x == 2 || dSmode x == 3
  let reduce := dSmode x == 4
  let scatter := pEn x wIX && (dSmode x == 1 || post)
  let xe := if expand then g.xpos else e
  let mask ← if expand then attempt (elemRead i c g x 4 wMK 1 e) else pure (.ok [1])
  let pass0 := match mask with | .ok m => bitOf (cellsNat m) 0 | .error _ => true
  let index (k : Nat) : M Nat := do return cellsNat (← elemRead i c g x 3 wIX (gCells x (dItype x)) k)
  let ixX ← if pass0 && dLmode x == 1 then index xe else pure xe
  let ixD ← if !scatter then pure e else if pass0 && dLmode x == 1 && xe == e then pure ixX else index e
  let xc ← if pass0 then elemRead i c g x 1 wX (gCells x (dXtype x)) ixX else pure []
  let yc ← if usesY x && pass0 then elemRead i c g x 2 wY (gCells x (dYtype x)) e else pure []
  match mask with
  | .error f => raiseE f
  | .ok _ => pure ()
  let pass ← if compress then (do
      let m ← elemRead i c g x 4 wMK 1 e
      return bitOf (cellsNat m) 0) else pure true
  let sd := gCells x (dDtype x)
  let de := if scatter then ixD else if compress then g.dpos else e
  let dst ← if reduce || !pass then pure none else (do
      let (loc, _) ← elemAccess i g x 6 wDS sd de (if post then .posting else .write)
      return some loc)
  let rs ← if pEn x wRS then (do
      let (loc, _) ← elemAccess i g x 7 wRS 1 e .write
      return some loc) else pure none
  if !pass then
    putStatus i c rs 4
    committed i c x 4 true false false
  else
    let v : Except Nat GVal :=
      if pass0 then (do
        let v ← stagesCMA x (gVal (dXtype x) xc) (gVal (dYtype x) yc)
        stageK x v (gVal (dYtype x) yc))
      else .ok (gConst x 17 (typeBeforeK x))
    match dst with
    | none =>
      match v with
      | .ok v =>
        let (g', st) := accumulate x g v
        putStatus i c rs st
        modCtx i c fun h => { h with w := g'.w }
        committed i c x st pass0 false false
      | .error st =>
        putStatus i c rs st
        committed i c x st pass0 false false
    | some loc =>
      if post then
        let raw := if altered x then (match v with | .ok w => some (gStore (dDsm x) (List.replicate sd 0) w) | .error _ => none)
                   else some xc
        match raw, v with
        | some cs, _ =>
          if (loc.cells.headD { addr := 0 }).addr % sd ≠ 0 then
            let st := freeStatus (← get)
            putStatus i c rs st
            committed i c x st pass0 true false
          else
            geySend i c g x loc cs rs
            committed i c x 0 pass0 true false
        | none, .error st =>
          putStatus i c rs st
          committed i c x st pass0 true false
        | none, .ok _ => return ()
      else
        match v with
        | .ok .bad =>
          putStatus i c rs 2
          committed i c x 2 pass0 true false
        | .ok w =>
          geyStore i c loc (dDsm x) w
          putStatus i c rs 0
          committed i c x 0 pass0 true true
        | .error st =>
          putStatus i c rs st
          committed i c x st pass0 true false

/-- ELEMENT_COMMIT: the next element of the running KIND 0 stream commits. With STOP 1, a post waits for the one before it. -/
def execElementCommit (i : IslandId) : State → Host.Outcome State Fault Refusal :=
  onCtx i fun d c g =>
    match g.desc with
    | none => d
    | some x =>
      if g.ending.isSome || dKind x != 0 then d
      else if g.cancel then d.setCtx i c g.cancelled
      else if dN x ≤ g.next then d
      else if dStop x && (dSmode x == 2 || dSmode x == 3) && !g.posts.isEmpty then d
      else d.geyRun i c g.next g.next (streamElem i c g x)

/-! ## Acknowledgements of posts (R273) -/

/-- A post's acknowledgement reaches its context: RS cell, counters, OUTN, stop or error. A stop gives way to a cancel, a pause or an error
that the context has met; a context in error keeps its words (R284, R288). The manual does not say what FEL and NEXT of a context are that
a refused post puts in error: they are the current NEXT (log entry 127, DESIGN CHOICE). None while its RS cell must wait. -/
def Dev.geyAck (d : Dev) (i c : Nat) (a : Ack) : Option Dev :=
  match d.ctx i c with
  | none => some d
  | some g =>
    match g.posts.find? (·.id == a.id) with
    | none => some d
    | some p =>
      let st := a.status.toNat
      match (putStatus i c (if st ≤ 3 then p.rs else none) st : M Unit) d with
      | (.ok (), d) =>
        some (d.updCtx i c fun g =>
          let g := { g with posts := g.posts.filter (·.id != a.id), lastSeq := Nat.max g.lastSeq (a.seq.getD 0) }
          let g := g.count st
          let g := if st = 0 && p.desc = g.descNo then g.addWord 11 1 else g
          let stop := match g.desc with | some x => dStop x && (st == 1 || st == 2) && p.desc == g.descNo | none => false
          if g.st = 7 || g.ending == some 7 then g
          else if st = 6 then (g.setFault (6 * 2 ^ 28 + 2 ^ 24) 0 0 0).ends 7 g.next g.next
          else if stop && (g.ending.isNone || g.ending == some 5) then (g.setFault (5 * 2 ^ 28) 0 0 0).ends 4 (g.next - 1) g.next else g)
      | _ => none

/-! ## Sorting (R276 to R278) -/

/-- Read `n` records of X from record `e` on, with the checks of each in order. -/
def readRecords (i c : Nat) (g : GeyCtx) (x : List Word) : Nat → Nat → M (List (List Cell))
  | 0, _ => return []
  | n + 1, e => do
    modCtx i c fun g => g.setWord 3 e
    let ix ← if dLmode x = 1 then (do
        return cellsNat (← elemRead i c g x 3 wIX (gCells x (dItype x)) e)) else pure e
    let r ← elemRead i c g x 1 wX (dRlen x) ix
    let rest ← readRecords i c g x n (e + 1)
    return r :: rest

/-- Check the places of `n` records of an operand from position `e` on. -/
def placeRecords (i c : Nat) (g : GeyCtx) (x : List Word) (opnd w base : Nat) : Nat → Nat → M (List MemLoc)
  | 0, _ => return []
  | n + 1, e => do
    modCtx i c fun g => g.setWord 3 (base + e)
    let (l, _) ← elemAccess i g x opnd w (dRlen x) e .write
    let rest ← placeRecords i c g x opnd w base n (e + 1)
    return l :: rest

/-- Write records at places. -/
def putRecords (i c : Nat) : List (MemLoc × List Cell) → M Unit
  | [] => return ()
  | (l, r) :: t => do
    geyWrite i c l r
    putRecords i c t

/-- Insert a record behind those of equal or lesser key. -/
def insertRec (x : List Word) (r : List Cell) : List (List Cell) → List (List Cell)
  | [] => [r]
  | a :: t => if recKey x r < recKey x a then r :: a :: t else a :: insertRec x r t

/-- A stable ascending sort (R277). -/
def sortRecs (x : List Word) (l : List (List Cell)) : List (List Cell) := l.foldl (fun s r => insertRec x r s) []

/-- Form one run (R276): sorted into the first half of WK, in input order into the second, and to DS. -/
def formRun (i c : Nat) (g : GeyCtx) (x : List Word) : M Unit := do
  let e := g.next
  let n := Nat.min (dRunlen x) (dN x - e)
  let recs ← readRecords i c g x n e
  let half := Nat.min (dN x) (dRunlen x)
  let w1 ← placeRecords i c g x 5 wWK e n 0
  let w2 ← placeRecords i c g x 5 wWK e n half
  let ds ← placeRecords i c g x 6 wDS 0 n e
  let sorted := sortRecs x recs
  putRecords i c (w1.zip sorted)
  putRecords i c (w2.zip recs)
  putRecords i c (ds.zip sorted)
  modCtx i c fun g => { ((g.setWord 2 (e + n)).setWord 3 0).addWord 11 n with ext := [] }
  modify fun d => d.elements i n

/-- RUN_FORMATION: the running KIND 1 descriptor forms its next run. -/
def execRunFormation (i : IslandId) : State → Host.Outcome State Fault Refusal :=
  onCtx i fun d c g =>
    match g.desc with
    | none => d
    | some x =>
      if g.ending.isSome || dKind x != 1 then d
      else if g.cancel then d.setCtx i c g.cancelled
      else if dN x ≤ g.next then d
      else
        match (formRun i c g x : M Unit) d with
        | (.error (.exc e), d') =>
          let fel := match d'.ctx i c with | some h => h.word 3 | none => g.next
          d'.geyRun i c fel g.next (throw (.exc e))
        | _ => d.geyRun i c g.next g.next (formRun i c g x)

/-- One record of a merge (R278): from the pair of runs that holds output position NEXT, the lesser key, first run first. -/
def mergeOne (i c : Nat) (x : List Word) : M Bool := do
  match (← get).ctx i c with
  | none => return true
  | some g =>
    let k := g.next
    let r := dRunl x
    let b := k / (2 * r) * (2 * r)
    let n1 := Nat.min r (dN x - b)
    let n2 := Nat.min r (dN x - b - n1)
    let p := g.word 12
    let q := g.word 13
    let a ← if p < n1 then (do return some (← elemRead i c g x 1 wX (dRlen x) (b + p))) else pure none
    let z ← if q < n2 then (do return some (← elemRead i c g x 1 wX (dRlen x) (b + n1 + q))) else pure none
    let first := match a, z with
      | some u, some v => decide (recKey x u ≤ recKey x v)
      | some _, none => true
      | _, _ => false
    let rec' := (if first then a else z).getD []
    let (loc, _) ← elemAccess i g x 6 wDS (dRlen x) k .write
    geyWrite i c loc rec'
    let fin := p + q + 1 == n1 + n2
    modCtx i c fun g =>
      { (((g.setWord 2 (k + 1)).setWord 12 (if fin then 0 else if first then p + 1 else p)).setWord 13
          (if fin then 0 else if first then q else q + 1)).addWord 11 1 with ext := [] }
    modify fun d => d.elements i 1
    return fin || decide (sliceMax ≤ ((← get).isl i).slice)

/-- Merge records until the pair ends, a switch point is reached, or one stops: then the records before it are complete. -/
def Dev.mergePair (d : Dev) (i c : Nat) (x : List Word) : Nat → Dev
  | 0 => d
  | n + 1 =>
    match (mergeOne i c x : M Bool) d with
    | (.ok true, d') => d'
    | (.ok false, d') => d'.mergePair i c x n
    | (.error .wait, _) => d
    | (.error .hold, d') => d'.heatAs d
    | (.error (.exc e), d') =>
      let k := match d'.ctx i c with | some g => g.next | none => 0
      d'.geyRun i c k k (throw (.exc e))

/-- MERGE_PASS: the running KIND 2 descriptor merges the next pair of runs. -/
def execMergePass (i : IslandId) : State → Host.Outcome State Fault Refusal :=
  onCtx i fun d c g =>
    match g.desc with
    | none => d
    | some x =>
      if g.ending.isSome || dKind x != 2 then d
      else if g.cancel then d.setCtx i c g.cancelled
      else if dN x ≤ g.next then d
      else d.mergePair i c x (2 * dRunl x)

/-! ## Ends and switches (R275, R260, R261) -/

/-- Write the accumulator of a reducing descriptor to DS as one element (R286). -/
def putAcc (i c : Nat) (g : GeyCtx) (x : List Word) : M Unit := do
  if dKind x = 0 && dSmode x = 4 then
    let (loc, _) ← elemAccess i g x 6 wDS (gCells x (dDtype x)) 0 .write
    geyStore i c loc (dDsm x) (accOf x g)
    modCtx i c fun g => g.addWord 11 1

/-- The next descriptor, or the end of the program. -/
def GeyCtx.stepDesc (g : GeyCtx) (x : List Word) : GeyCtx :=
  if dLast x then { g with ending := some 5 }
  else
    let g := ((((g.addWord 1 128).setWord 2 0).setWord 11 0).setAcc [])
    { g with desc := none, xpos := 0, dpos := 0, overlay := [], descNo := g.descNo + 1, ext := [], accDone := false, cover := 0 }

/-- End the current descriptor: its accumulator, its NOTE event with STATE 2, then the next (R275, R261). -/
def Dev.endDesc (d : Dev) (i c : Nat) (g : GeyCtx) (x : List Word) : Dev :=
  let next (d : Dev) : Dev := (d.updCtx i c (·.stepDesc x)).updIsl i fun s => { s with slice := 0, edge := !dLast x }
  let note (d : Dev) : Dev :=
    if dNote x then (match d.geyReport i c 2 with | (d, true) => next d | (d, false) => d) else next d
  if g.accDone then note d
  else
    match (putAcc i c g x : M Unit) d with
    | (.ok (), d') => note (d'.updCtx i c fun g => { g with accDone := true, ext := [] })
    | (.error (.exc e), d') => d'.geyRun i c g.next g.next (throw (.exc e))
    | (.error .hold, d') => d'.heatAs d
    | (.error .wait, _) => d

/-- DESCRIPTOR_END: the running descriptor, all its elements committed, ends; with STOP 1 its posts are acknowledged first (R287). -/
def execDescriptorEnd (i : IslandId) : State → Host.Outcome State Fault Refusal :=
  onCtx i fun d c g =>
    match g.desc with
    | none => d
    | some x =>
      if g.ending.isSome || dKind x == 3 || decide (g.next < dN x) then d
      else if g.cancel && !g.accDone then d.setCtx i c g.cancelled
      else if dStop x && (dSmode x == 2 || dSmode x == 3) && !g.posts.isEmpty then d
      else d.endDesc i c g x

/-- GEYSER_FENCE: a KIND 3 descriptor completes when every earlier post is acknowledged, and by the twin when TWIN is 1 (R275, R429). -/
def execGeyserFence (i : IslandId) : State → Host.Outcome State Fault Refusal :=
  onCtx i fun d c g =>
    match g.desc with
    | none => d
    | some x =>
      if g.ending.isSome || dKind x != 3 then d
      else if g.cancel then d.setCtx i c g.cancelled
      else if !g.posts.isEmpty || (dTwin x && !d.twinHas g.lastSeq) then d
      else d.endDesc i c g x

/-- PROGRAM_END: the running context that pauses, stops, ends, is cancelled or errs reports it once its stores are visible and its posts
acknowledged; an error does not wait (R261). A cancel accepted by then leaves STATE 6, but for an error (R284). -/
def execProgramEnd (i : IslandId) : State → Host.Outcome State Fault Refusal :=
  onCtx i fun d c g =>
    match g.ending with
    | none => d
    | some st =>
      if st == 7 then d.geyFinish i c 7
      else if !g.posts.isEmpty || d.geyStores i then d
      else if g.cancel && st != 6 then (d.setCtx i c g.cancelled).geyFinish i c 6
      else d.geyFinish i c st.toNat

/-- Whether the running context is at a switch point (R260). -/
def switchPoint (s : Island) (g : GeyCtx) : Bool :=
  s.edge ||
  match g.desc with
  | none => false
  | some x => (dKind x == 1 && decide (0 < s.slice)) || ((dKind x == 0 || dKind x == 2) && s.slice == sliceMax)

/-- CONTEXT_SWITCH: the engine turns to the next queued context (R260). -/
def execContextSwitch (i : IslandId) : State → Host.Outcome State Fault Refusal :=
  onCtx i fun d c g =>
    let s := d.isl i
    match s.order with
    | [] => d
    | n :: t =>
      if g.ending.isSome || g.det || !switchPoint s g then d
      else d.updIsl i fun s => { s with running := some n, order := t ++ [c], slice := 0, edge := false }

end Sys2Proof.Machine
end

