-- ==== Sys2Proof/Machine/Units.lean ====
section
/-!
DEFINITION. Posting units and memory controllers (R309 to R312, R297 to R300, R466), island-bank handovers (R321 to R323) and field
repairs (R326).
-/

namespace Sys2Proof.Machine

/-! ## Posting units -/

/-- Whether the fault hub has fenced posting unit `u` (R466). -/
def Dev.puFenced (d : Dev) (u : Nat) : Bool := d.bit (offPUSTAT u) 63

/-- The unit that serves the pseudo-channel of unit `u`: itself, or its partner once it is fenced and what it held has been reissued,
so that postings to one balance keep their order (R21, R315, R466); none before, and when both are fenced. -/
def Dev.servingPu (d : Dev) (u : Nat) : Option Nat :=
  let x := d.pus.getD' u {}
  if !d.puFenced u then some u
  else if !d.puFenced (Nat.xor u 1) && x.queue.isEmpty && x.applied.isEmpty && x.cut.isEmpty then some (Nat.xor u 1)
  else none

/-- Entries of a posting unit (R309). -/
def puEntries : Nat := 64

/-- POSTING_ARRIVAL: the oldest posting on its way to unit `p` enters its queue; it waits for a free entry (R309). Postings of
different requesters arrive in the order in which they were issued: the manual gives no order among them (log entry 122, DESIGN
CHOICE). -/
def execPostingArrival (p : PuId) : State → Host.Outcome State Fault Refusal :=
  onDev fun d =>
    let u := d.pus.getD' p {}
    match d.postNet.find? fun q => d.servingPu (puOf q.loc.addr q.loc.pol) == some p.val with
    | some q =>
      if d.active && decide (u.queue.length < puEntries) then
        { d with postNet := d.postNet.erase q, pus := d.pus.put p { u with queue := u.queue ++ [q] } }
      else d
    | none => d

/-- Deliver the acknowledgement of an applied posting to its requester (R312, R273, R449); none while the requester must wait. -/
def Dev.deliverAck (d : Dev) (a : Applied) : Option Dev :=
  let k := ackOf a
  match a.p.who with
  | .core _ => some { d with ackNet := d.ackNet ++ [k] }
  | .geyser i x _ => d.geyAck i x k
  | .peer p rnum =>
    let d := if a.status = 6 then d.logEvent 0x1B 11 14 1 a.p.loc.addr 0 else d
    some (d.datagram p (.postAck rnum.toNat a.status a.old))
  | .hub => some d

/-- Acknowledge the applied postings of unit `u` that have no record: they wait for nothing but the line write (R23, R311). -/
def Dev.ackPlain (d : Dev) (u : Nat) : Dev :=
  ((d.pus.getD' u {}).applied.filter (·.seq.isNone)).foldl (fun d a =>
    let x := d.pus.getD' u {}
    ({ d with pus := d.pus.put u { x with applied := x.applied.erase a } }.deliverAck a).getD d) d

/-- GROUP_SERVICE: a unit whose lasting fault waits for its fence leaves the service that the fault cut. -/
def execGroupService (p : PuId) : State → Host.Outcome State Fault Refusal :=
  onDev fun d =>
    if !d.active then d
    else if d.puStopped p && !d.puFenced p then d.cutGroup p
    else (d.serveGroup p).ackPlain p

/-- Acknowledge the oldest applied posting of unit `u` once Sinter has its record (R311). -/
def Dev.ackUnit (d : Dev) (u : Nat) : Dev :=
  let x := d.pus.getD' u {}
  match x.applied with
  | [] => d
  | a :: t => if d.mayAck a then ({ d with pus := d.pus.put u { x with applied := t } }.deliverAck a).getD d else d

/-- POSTING_ACKNOWLEDGE. -/
def execPostingAcknowledge (p : PuId) : State → Host.Outcome State Fault Refusal :=
  onDev fun d => if d.active && !d.puStopped p then d.ackUnit p else d

/-- Acknowledge what island `i`'s bank atomic unit has done, in order, as far as Sinter has the records (R325). -/
def Dev.ackBank (d : Dev) (i : Nat) : Nat → Dev
  | 0 => d
  | n + 1 =>
    match (d.isl i).atomDone with
    | [] => d
    | a :: t =>
      if d.mayAck a then
        match (d.updIsl i fun x => { x with atomDone := t }).deliverAck a with
        | some d' => d'.ackBank i n
        | none => d
      else d

/-- BANK_ATOMIC: the island's unit performs its next operation, and acknowledges what it may. -/
def execBankAtomic (i : IslandId) : State → Host.Outcome State Fault Refusal :=
  onDev fun d =>
    if d.active && !d.islandDown i then
      let d := d.ackBank i (d.isl i).atomDone.length
      let d := d.serveAtomic i
      d.ackBank i (d.isl i).atomDone.length
    else d

/-! ## Scrubbing and refresh -/

/-- Physical line stored in slot `s` of posting unit `u` (R294, R295, R539). -/
def Dev.lineAt (d : Dev) (u s : Nat) : Option Nat :=
  let pol := d.polOf (32768 * s)
  ((upto 256).find? fun k => puOf ((256 * s + k) * 128) pol == u).map fun k => 256 * s + k

/-- SCRUB_READ: the line in slot `slot` is read, with what its line code shows; it waits behind postings queued for the line. -/
def execScrubRead (p : PuId) (slot : Nat) (upset : Upset) : State → Host.Outcome State Fault Refusal :=
  onDev fun d =>
    match d.lineAt p slot with
    | none => d
    | some l =>
      let a := d.phys (128 * l)
      if d.active && d.bit (offMCSCRUB (p / 32)) 32 && decide (a.addr < d.localTop) && !d.postQueued [a] then
        let d := { d with upsets := if upset = Upset.clean then d.upsets.del (a.key / 128) else d.upsets.put (a.key / 128) upset,
                          scrubAt := d.scrubAt.put p (slot + 1) }
        d.lineRead a
      else d

/-- REFRESH: refreshes lose and reorder nothing (R300). -/
def execRefresh (_ : StackId) (_ : Bool) : State → Host.Outcome State Fault Refusal := onDev fun d => d

/-! ## Bank handovers (R323) -/

/-- Whether a store-buffer cell lies in bank `b` of island `i`. -/
def inBankCell (i b block j : Nat) : Bool :=
  decide (2 ^ 43 + i * 2 ^ 21 ≤ block * 16 + j) && decide (block * 16 + j < 2 ^ 43 + (i + 1) * 2 ^ 21) && bankNo (block * 16 + j) == b

/-- Whether writes that passed their ownership check before a handover of bank `b` are still queued: stores of the island's cores,
and postings with the bank atomic unit. -/
def Dev.bankWritesLeft (d : Dev) (i b : Nat) : Bool :=
  (d.cores.any fun k => k.1 / 8 == i && k.2.sbuf.any fun e => e.cells.any fun c => inBankCell i b e.block c.1) ||
  (d.isl i).atomics.any fun p => p.locs.any fun q => bankNo q.addr == b

/-- A write of OWNER without FORCE: the handover waits in order (R323). -/
def Dev.handover (d : Dev) (i b : Nat) (owner : BitVec 3) : Dev :=
  (d.updIsl i fun x => { x with hand := x.hand ++ [{ bank := b, owner := owner }] }).setBit (offBANKOWN i b) 6 true

/-- Remove the stores to bank `b` from a store buffer, with their number. -/
def dropBank (i b : Nat) (sb : List SbEntry) : List SbEntry × Nat :=
  let hit (e : SbEntry) : Bool := e.cells.any fun c => inBankCell i b e.block c.1
  (((sb.map fun e => { e with cells := e.cells.filter fun c => !inBankCell i b e.block c.1 }).filter fun e => !e.cells.isEmpty),
   (sb.filter hit).length)

/-- A bank takes a new OWNER; the owner that it had when it goes to Sinter is saved (R440). -/
def Dev.setOwner (d : Dev) (i b : Nat) (owner : BitVec 3) : Dev :=
  let old := d.fld (offBANKOWN i b) 2 0
  let d := if owner = 4 ∧ old ≠ 4 then d.updIsl i fun x => { x with saved := x.saved.put b (BitVec.ofNat 3 old) } else d
  d.setFld (offBANKOWN i b) 2 0 owner.toNat

/-- A forced handover (R323): OWNER at once, nothing waits, and queued stores of every requester but the new owner are discarded and
counted. Operations already with the bank atomic unit complete. -/
def Dev.force (d : Dev) (i b : Nat) (owner : BitVec 3) : Dev :=
  let off := offBANKOWN i b
  let keeps := owner == 1 && d.bit off 6
  let n := if keeps then 0 else
    (d.cores.filter fun k => k.1 / 8 == i).foldl (fun a k => a + (dropBank i b k.2.sbuf).2) 0
  let d := if keeps then d else
    { d with cores := d.cores.map fun k => if k.1 / 8 = i then (k.1, { k.2 with sbuf := (dropBank i b k.2.sbuf).1 }) else k }
  let d := d.updIsl i fun x => { x with hand := x.hand.filter (·.bank != b) }
  ((d.setOwner i b owner).setBit off 6 ((d.isl i).heldBanks.contains b)).setFld off 15 8 (satNat n 255)

/-- HANDOVER_COMPLETE: OWNER changes once the old owner's checked writes are done. -/
def execHandoverComplete (i : IslandId) (b : BankId) : State → Host.Outcome State Fault Refusal :=
  onDev fun d =>
    match (d.isl i).hand.find? (·.bank == b.val) with
    | none => d
    | some h =>
      if d.bankWritesLeft i b || (d.isl i).heldBanks.contains b.val then d
      else
        let d := d.updIsl i fun x => { x with hand := x.hand.erase h }
        let more := (d.isl i).hand.any (·.bank == b.val)
        (d.setOwner i b h.owner).setBit (offBANKOWN i b) 6 more

/-! ## Field repairs (R326) -/

/-- Field repairs active on a die: islands 0 to 5 lie on die 0, 6 to 11 on die 1. -/
def Dev.repairsOn (d : Dev) (die : Nat) : Nat :=
  ((upto 6).flatMap fun i => (upto 16).map fun b => (6 * die + i, b)).foldl
    (fun a p => a + flagNat (d.bit (offBANKREP p.1 p.2) 15) + flagNat (d.bit (offBANKREP p.1 p.2) 23)) 0

/-- Words of a bank (R319). -/
def bankWords : Nat := 32768

/-- Put bit `bit` of word `w` of bank `b` to `v`. -/
def Dev.setBankBit (d : Dev) (i b w bit : Nat) (v : Bool) : Dev :=
  let p : PLoc := { addr := 2 ^ 43 + i * 2 ^ 21 + (w * 16 + b) * 4 + (3 - bit / 9) }
  d.poke p (BitVec.ofNat 9 (setBits (d.cell p).toNat (bit % 9) (bit % 9) (flagNat v)))

/-- Put the parity bit of cell `k` of word `w` of bank `b` to `v`. -/
def Dev.setBankParity (d : Dev) (i b w k : Nat) (v : Bool) : Dev :=
  let p : PLoc := { addr := 2 ^ 43 + i * 2 ^ 21 + (w * 16 + b) * 4 + k }
  { d with parity := if v = oddParity (d.cell p) then d.parity.del p.key else d.parity.put p.key v }

/-- A column that reads as its new spare held it: undefined, until the words are rewritten; columns 3:0 hold the parity bits of cells
0 to 3. -/
def Dev.freeColumn (d : Dev) (i b col : Nat) : Dev :=
  if col < 4 then
    ((upto bankWords).foldl (fun d w => d.setBankParity i b w col (bitOf (Config.freeCell (d.free + w)).toNat 0)) d).bumpFree
  else ((upto bankWords).foldl (fun d w => d.setBankBit i b w (col - 4) (bitOf (Config.freeCell (d.free + w)).toNat 0)) d).bumpFree

/-- Custody firmware records the field repairs of a bank in the boot flash (R475; log entry 139). -/
def Dev.recordRepair (d : Dev) (i b : Nat) : Dev :=
  let off := offBANKREP i b
  { d with cust := { d.cust with fieldLog := d.cust.fieldLog.put off (BitVec.ofNat 64 (d.rd off)) } }

/-- A write of BANKREP: `nv` replaces the register's value `old`. Columns that a repair newly replaces read as their spares. -/
def Dev.bankrep (d : Dev) (i b : Nat) (nv w off : Nat) : Dev :=
  let off' := offBANKREP i b
  let old := d.rd off'
  let d' := d.wr off' nv
  let bad := decide (16 < d'.repairsOn (i / 6)) || decide (39 < bitsOf nv 13 8) || decide (39 < bitsOf nv 21 16)
  if bad then d.logIgnored off w
  else
    let fresh (v hi lo : Nat) : Bool := bitOf nv v && (!bitOf old v || bitsOf old hi lo != bitsOf nv hi lo)
    let d' := if fresh 15 13 8 then d'.freeColumn i b (bitsOf nv 13 8) else d'
    (if fresh 23 21 16 then d'.freeColumn i b (bitsOf nv 21 16) else d').recordRepair i b

end Sys2Proof.Machine
end

