-- ==== Sys2Proof/Machine/Caldera.lean ====
section
/-!
DEFINITION. Caldera (chapter 13): samples and the heat table (R353 to R357), decisions (R358, R359, R365), the page move (R360 to
R363, R369, R371), task steering and slot moves (R366, R367), freezes (R372), and the band-policy array (R539).
-/

namespace Sys2Proof.Machine

/-- One of a list of possibilities between which the manual does not choose: a free choice. -/
def Dev.pick {α : Type} (d : Dev) (l : List α) : Option α := l[(Config.freeWord d.free).toNat % l.length]?

/-! ## Tables (R356, R357) -/

/-- Address of word `k` of the heat record of frame `f`. -/
def Dev.heatAddr (d : Dev) (f k : Nat) : Nat := d.fld offCLHTB 31 0 * 4096 + 16 * f + 4 * k

/-- Word `k` of the heat record of frame `f`. -/
def Dev.heat (d : Dev) (f k : Nat) : Nat := d.physWord (d.heatAddr f k)

/-- Source code of Caldera's own writes in HEAT: it reaches memory as port B does (R355, R320). -/
def calderaSrc : Nat := 12

/-- Write word `k` of a heat record. -/
def Dev.setHeat (d : Dev) (f k v : Nat) : Dev := d.setPhysWord (d.heatAddr f k) v calderaSrc

/-- Address of the band word of band `b`. -/
def Dev.bandAddr (d : Dev) (b : Nat) : Nat := d.fld offCLHTB 31 0 * 4096 + 16 * d.frames + 4 * b

/-- The band word of band `b`. -/
def Dev.band (d : Dev) (b : Nat) : Nat := d.physWord (d.bandAddr b)

/-- Set or clear the FREE bit of frame `f`. -/
def Dev.setFree (d : Dev) (f : Nat) (v : Bool) : Dev :=
  d.setPhysWord (d.bandAddr (f / 8)) (setBits (d.band (f / 8)) (f % 8) (f % 8) (flagNat v)) calderaSrc

/-- Position `j2` of frame `f` in its band: its stack under the stack policy, its die above bit 2 under near (R295). -/
def posOf (f : Nat) : Nat := Nat.xor (f % 8) (foldBits 3 8 (f / 8)) % 8

/-- Positions of die `x`, as a mask. -/
def dieMask (x : Nat) : Nat := if x = 0 then 0x0F else 0xF0

/-! ## Samples (R353) -/

/-- Count a sample in the record of its frame and in the window's counts. -/
def Dev.countSample (d : Dev) (s : Sample) : Dev :=
  let w := d.heat s.frame 0
  let (hi, lo) := if s.src < 6 then (35, 24) else if s.src < 12 then (23, 12) else (11, 0)
  let d := d.setHeat s.frame 0 (setBits w hi lo (satNat (bitsOf w hi lo + 1) 4095))
  let k := 16 * s.frame + s.src
  let c := { d.cal with win := d.cal.win.put k (d.cal.win.getD' k 0 + 1) }
  let p := 32 * s.frame + s.peer
  { d with cal := if s.src = 12 then { c with peers := c.peers.put p (c.peers.getD' p 0 + 1) } else c }

/-- Take the oldest sample of the queue. -/
def Dev.takeSample (d : Dev) : Dev :=
  match d.cal.samples with
  | [] => d
  | s :: t => { d with cal := { d.cal with samples := t } }.countSample s

/-- Take `n` samples. -/
def Dev.takeSamples (d : Dev) : Nat → Dev
  | 0 => d
  | n + 1 => d.takeSample.takeSamples n

/-- HEAT_SAMPLE: a sample of a requester that the commands do not show arrives. -/
def execHeatSample (frame : BitVec 32) (world : Bool) (src : Fin 13) (peer : Fin 32) : State → Host.Outcome State Fault Refusal :=
  onDev fun d =>
    if d.active && d.sampling then d.sampleIn { frame := frame.toNat, world := world, src := src, peer := peer } else d

/-! ## Hints (R364, R365) -/

/-- Word `k` of the hint entry of slot `s` of core `n`. -/
def Dev.hint (d : Dev) (n s k : Nat) : Nat := d.physWord (d.fld offCLHNTB 31 0 * 4096 + 16 * (64 * n + s) + 4 * k)

/-- Whether a hint entry holds a reserved value, or a value where it must be 0. -/
def Dev.hintBad (d : Dev) (n s : Nat) : Bool :=
  decide (5 ≤ bitsOf (d.hint n s 0) 33 31) || bitsOf (d.hint n s 0) 30 0 != 0 || bitsOf (d.hint n s 2) 35 12 != 0 || d.hint n s 3 != 0

/-- Whether a hint entry is valid and used. -/
def Dev.hintOk (d : Dev) (n s : Nat) : Bool := d.bit offCLHNTB 63 && bitOf (d.hint n s 0) 35 && !d.hintBad n s

/-- Every core and slot, in order. -/
def allSlots : List (Nat × Nat) := (upto 96).flatMap fun n => (upto 64).map fun s => (n, s)

/-- The first valid entry whose affinity range holds intermediate page `b`: its core and PAT. -/
def Dev.hintFor (d : Dev) (b : Nat) : Option (Nat × Nat) :=
  (allSlots.find? fun p => d.hintOk p.1 p.2 && decide (d.hint p.1 p.2 1 ≤ b) &&
    decide (b < d.hint p.1 p.2 1 + bitsOf (d.hint p.1 p.2 2) 11 0)).map fun p => (p.1, bitsOf (d.hint p.1 p.2 0) 33 31)

/-! ## The band-policy array (R539) -/

/-- Cells of a band in storage. -/
def bandCells : Nat := 32768

/-- The memory controllers take a new policy for band `b` and write its lines with zeros (R539). -/
def Dev.setBandPol (d : Dev) (b pol : Nat) : Dev :=
  if d.bandPol.getD' b 0 = pol then d
  else
    let inB (k n : Nat) : Bool := k / n == b
    { d with bandPol := if pol = 0 then d.bandPol.del b else d.bandPol.put b pol,
             mem := d.mem.filter fun p => !(inB p.1 bandCells && decide (p.1 < 2 ^ 38)),
             info := d.info.filter fun p => !inB p.1 256,
             upsets := d.upsets.filter fun p => !inB p.1 256 }

/-! ## Decisions (R358) -/

/-- Whether a pin covers intermediate page `b` of a world, with SCOPE `scope` or less (R372). -/
def Dev.pinned (d : Dev) (world : Bool) (b : Nat) (poolMove : Bool) : Bool :=
  (upto 32).any fun n =>
    let v := d.rd (offCLPIN n)
    bitOf v 63 && bitOf v 62 == world && (poolMove || !bitOf v 61) && decide (bitsOf v 42 16 ≤ b / 512) &&
    decide (b / 512 < bitsOf v 42 16 + bitsOf v 15 0)

/-- Whether a world is frozen (R372). -/
def Dev.frozen (d : Dev) (world : Bool) : Bool := d.bit offCLFRZ (flagNat world)

/-- Whether island `i` holds a core in deterministic mode (R368). -/
def Dev.detIsland (d : Dev) (i : Nat) : Bool := (upto 8).any fun j => (d.core (8 * i + j)).det

/-- Whether a deterministic island holds a frame: its TOPI names one, or one sampled it in this or the previous window (R368). -/
def Dev.detHolds (d : Dev) (f topi : Nat) : Bool :=
  (decide (topi < 12) && d.detIsland topi) ||
  (upto 12).any fun i => d.detIsland i && (decide (0 < d.cal.win.getD' (16 * f + i) 0) || decide (0 < d.cal.prevWin.getD' (16 * f + i) 0))

/-- Stacks that hold, or are to take, a frame of the other copy of a world's stage-2 tables (R359). -/
def Dev.otherCopy (d : Dev) (world copyB : Bool) : List Nat :=
  ((upto d.frames).filter fun f =>
    let w := d.heat f 2
    [0, 1, 2].contains (bitsOf w 35 34) && bitsOf w 32 31 == 3 && bitOf w 33 == world && bitOf w 30 != copyB).map posOf ++
  (d.cal.moves.filter fun m => m.2.kind == 3 && m.2.world == world && m.2.copyB != copyB).map fun m => posOf m.2.target

/-- The pool peer that sent most samples for frame `f`, if one did. -/
def Dev.topPeer (d : Dev) (f : Nat) : Option Nat :=
  let n (p : Nat) : Nat := d.cal.peers.getD' (32 * f + p) 0
  let best := (upto 32).foldl (fun best p => if n best < n p then p else best) 0
  if n best = 0 then none else some best

/-- The island with most samples for frame `f` in this window; 15 for none (R356). -/
def Dev.topIsland (d : Dev) (f : Nat) : Nat :=
  let best := (upto 12).foldl (fun best i => if d.cal.win.getD' (16 * f + best) 0 < d.cal.win.getD' (16 * f + i) 0 then i else best) 0
  if d.cal.win.getD' (16 * f + best) 0 = 0 then 15 else best

/-- The move that R358 chooses for managed frame `f` with halved counts and the given COLDW. -/
def Dev.choose (d : Dev) (f h0 h1 hp topi coldw : Nat) : Option Move :=
  let w2 := d.heat f 2
  let world := bitOf w2 33
  let kind := bitsOf w2 32 31
  let back := d.heat f 3
  let t := h0 + h1 + hp
  let aff := d.fld offCLTHR 19 16
  let tcold := d.fld offCLTHR 47 32
  let pol := bitsOf (d.band (f / 8)) 9 8
  let mv (pol mask : Nat) : Move :=
    { source := f, pol := pol, mask := mask, world := world, kind := kind, copyB := bitOf w2 30, back := back,
      pidx := bitsOf (d.heat f 1) 27 19 }
  let mine := kind != 3 && d.pinned world back false
  let hint := if world || kind == 3 then none else d.hintFor back
  let hot := decide (d.fld offCLTHR 15 0 ≤ t)
  let ncold := if hint.any (·.2 == 4) then 1 else d.fld offCLTHR 51 48
  let near (x : Nat) : Option Move :=
    if kind = 3 ∨ (pol = 1 ∧ posOf f / 4 = x) then none else some (mv 1 (dieMask x))
  if mine || d.frozen world || d.detHolds f topi || d.lockMode then none
  else if hot && hint.any (fun h => h.2 == 1 || h.2 == 3) && d.bit offCLCTL 1 then near ((hint.map (·.1)).getD 0 / 48)
  else if hot && hint.any (fun h => h.2 == 2) && d.bit offCLCTL 1 then
    (if pol = 0 ∨ kind = 3 then none else some (mv 0 0xFF))
  else if hot && decide (h0 ≤ hp) && decide (h1 ≤ hp) && decide (aff * t ≤ 16 * hp) && d.bit offCLCTL 2 then
    (if kind ≥ 2 ∨ d.pinned world back true then none else (d.topPeer f).map fun p => { mv 0 0 with pool := some p })
  else if !d.bit offCLCTL 1 then none
  else if hot && decide (aff * t ≤ 16 * h0) then near 0
  else if hot && decide (aff * t ≤ 16 * h1) then near 1
  else if hot && pol != 0 then (if kind = 3 then none else some (mv 0 0xFF))
  else if decide (ncold ≤ coldw) && tcold != 0 && d.fld offCLTHR 63 56 != 0 then
    let stks := d.fld offCLTHR 63 56
    if pol = 2 ∧ bitOf stks (posOf f) then none
    else some (mv 2 stks)
  else none

/-- The end of a window for frame `f` (R354, R356, R358): counts halved, TOPI and COLDW, and the move chosen. -/
def Dev.windowFrame (d : Dev) (f : Nat) : Dev × List Move :=
  let d := d.lineRead (d.phys (d.heatAddr f 0))
  let w0 := d.heat f 0
  let h0 := bitsOf w0 35 24 / 2
  let h1 := bitsOf w0 23 12 / 2
  let hp := bitsOf w0 11 0 / 2
  let w1 := d.heat f 1
  let topi := d.topIsland f
  let tcold := d.fld offCLTHR 47 32
  let coldw := if h0 + h1 + hp < tcold then satNat (bitsOf w1 31 28 + 1) 15 else 0
  let d := d.setHeat f 0 (h0 * 2 ^ 24 + h1 * 2 ^ 12 + hp)
  let d := d.setHeat f 1 (setBits (setBits w1 35 32 topi) 31 28 coldw)
  (d, if bitsOf (d.heat f 2) 35 34 = 0 && !d.isStandby then (d.choose f h0 h1 hp topi coldw).toList else [])

/-- Every frame in ascending order. -/
def Dev.windowFrames (d : Dev) : List Nat → Dev × List Move
  | [] => (d, [])
  | f :: t =>
    let (d, m) := d.windowFrame f
    let (d, r) := d.windowFrames t
    (d, m ++ r)

/-! ## Task steering and slot moves (R366, R367) -/

/-- A slot of core `n` that is free. -/
def Core.slotFree (k : Core) (s : Nat) : Bool := !(k.slot s).valid || (k.slot s).st == .free

/-- Move slot `s` of core `a` to slot `t` of core `b`, with its queues and comparators, the forwarding entry and the CLMOVE record. -/
def Dev.moveSlot (d : Dev) (a s b t : Nat) : Dev :=
  let x := (d.core a).slot s
  let y : Slot := { valid := true, world := x.world, prio := x.prio, st := x.st, pc := x.pc, tstat := x.tstat, evpend := x.evpend,
                    evmask := x.evmask, tcb := x.tcb, evSeq := x.evSeq }
  let d := d.updCore b fun k => if x.st = .ready then (k.setSlot t y).turnReady t else k.setSlot t y
  let d := (upto 272).foldl (fun d q =>
    if d.bit (offQBIND q) 63 && d.fld (offQBIND q) 54 48 == a && d.fld (offQBIND q) 45 40 == s then
      (d.setFld (offQBIND q) 54 48 b).setFld (offQBIND q) 45 40 t else d) d
  let d := (upto 16).foldl (fun d n =>
    if d.fld (offFCMPC n) 23 17 == a && d.fld (offFCMPC n) 16 11 == s then
      (d.setFld (offFCMPC n) 23 17 b).setFld (offFCMPC n) 16 11 t else d) d
  let d := d.updCore a fun k => { k.setSlot s {} with fwd := k.fwd ++ [{ slot := s, core := b, newSlot := t, time := d.now }] }
  let r := 2 ^ 63 + d.window % 2 ^ 24 * 2 ^ 32 + a * 2 ^ 19 + s * 2 ^ 13 + b * 2 ^ 6 + t
  let d := if d.cal.clmove.length < 256 then { d with cal := { d.cal with clmove := d.cal.clmove ++ [BitVec.ofNat 64 r] } }
           else d.logIgnored offCLMOVE r
  (d.raise 864).wakeIdle b

/-- Whether Caldera may move slot `s` of core `a` (R367); for recovery, postings and forwarding entries do not count. -/
def Dev.movable (d : Dev) (a s : Nat) (recovery : Bool) : Bool :=
  let k := d.core a
  let x := k.slot s
  x.valid && (recovery || !x.world) && (x.st == .blocked || x.st == .ready) && !x.res && d.xown a != s &&
  (recovery || (x.posts == 0 && decide (k.fwd.length < 8))) &&
  !(d.islands.any fun i => i.2.ctxs.any fun g => g.2.core == a && g.2.slot == s)

/-- Cores of a list with a free slot and a task bank of the world, out of deterministic mode, with the fewest ready slots. -/
def Dev.bestCore (d : Dev) (world : Bool) (cs : List Nat) : Option Nat :=
  let ok := cs.filter fun b =>
    let k := d.core b
    !k.fenced && !k.checkstop && !k.det && ((upto 64).any fun t => k.slotFree t) && (upto 4).any fun n => d.taskBankWorld b n == world
  ok.foldl (fun best b => match best with
    | none => some b
    | some x => if (d.core b).ready.length < (d.core x).ready.length then some b else some x) none

/-- Move slot `s` of core `a` to core `b`, into one of its free slots. -/
def Dev.moveTo (d : Dev) (a s b : Nat) : Dev :=
  match d.pick ((upto 64).filter fun t => (d.core b).slotFree t) with
  | some t => (d.moveSlot a s b t).bumpFree
  | none => d

/-- Physical address of the stage-2 leaf for intermediate page `ip` of a world in copy A or B (R330, R337), read without side
effects. -/
def Dev.leafAddr (d : Dev) (copyB world : Bool) (ip : Nat) : Option Nat :=
  let root := d.rd (if world then (if copyB then offTRC2B else offTRC2A) else (if copyB then offTRL2B else offTRL2A))
  if bitOf root 63 then go 3 (bitsOf root 31 0) else none
where
  /-- Levels left above the leaf. -/
  go : Nat → Nat → Option Nat
    | 0, f => some (f * 4096 + 8 * levelIndex ip 4)
    | n + 1, f =>
      let a := f * 4096 + 8 * levelIndex ip (3 - n)
      if bitOf (d.physWord a) 35 then go n (bitsOf (if copyB then d.physWord (a + 4) else d.physWord a) 31 0) else none

/-- Frame and policy of the valid leaf for an intermediate page, from copy A, else from copy B. -/
def Dev.leafOf (d : Dev) (world : Bool) (ip : Nat) : Option (Nat × Nat) :=
  match (d.leafAddr false world ip).or (d.leafAddr true world ip) with
  | none => none
  | some a => if bitOf (d.physWord a) 35 then some (bitsOf (d.physWord (a + 4)) 31 0, bitsOf (d.physWord a) 27 26) else none

/-- Pages of an affinity range that steering reads: all of up to 64, else 64 spread evenly. -/
def steerPages (abase alen : Nat) : List Nat :=
  if alen ≤ 64 then fromN abase alen else (upto 64).map fun k => abase + k * alen / 64

/-- Cores of the target of a slot's affinity range (R366). -/
def Dev.steerTarget (d : Dev) (abase alen : Nat) : Option (List Nat) :=
  let ps := steerPages abase alen
  let leaves := ps.filterMap fun p => d.leafOf false p
  let most (n : Nat) : Bool := decide (ps.length < 2 * n)
  let onIsl (i : Nat) : Nat := (leaves.filter fun l => d.region (l.1 * 4096) == .bank i).length
  let dieOf (l : Nat × Nat) : Option Nat :=
    if d.region (l.1 * 4096) == .localMem && (l.2 == 1 || l.2 == 2) then some (posOf l.1 / 4) else none
  let onDie (x : Nat) : Nat := (leaves.filter fun l => dieOf l == some x).length
  match (upto 12).find? fun i => most (onIsl i) with
  | some i => some (fromN (8 * i) 8)
  | none => if most (onDie 0) then some (upto 48) else if most (onDie 1) then some (fromN 48 48) else none

/-- Steer one slot: none when it does not move. -/
def Dev.steerSlot (d : Dev) (a s : Nat) : Option Dev :=
  if !(d.hintOk a s && bitOf (d.hint a s 0) 34 && bitsOf (d.hint a s 2) 11 0 != 0) || !d.movable a s false ||
     decide (96 < d.cal.clmove.length) then none
  else
    match d.steerTarget (d.hint a s 1) (bitsOf (d.hint a s 2) 11 0) with
    | none => none
    | some cs => if cs.contains a then none else (d.bestCore false cs).map fun b => d.moveTo a s b

/-- Steer at most one slot of core `a`. -/
def Dev.steerCore (d : Dev) (a : Nat) : List Nat → Dev
  | [] => d
  | s :: t => match d.steerSlot a s with
    | some d' => d'
    | none => d.steerCore a t

/-- Steering at a window end. -/
def Dev.steer (d : Dev) : Dev :=
  if d.bit offCLCTL 3 && !d.bit offCLFRZ 2 && !d.lockMode && !d.isStandby then
    (upto 96).foldl (fun d a => if (d.core a).det then d else d.steerCore a (upto 64)) d
  else d

/-- Whether frame `n` has lines on storage that the fault hub has fenced (R457): it is put to no new use. -/
def Dev.spoiled (d : Dev) (n : Nat) : Bool :=
  d.hub.fenced.any fun u => match u with | .lines _ fs => fs.any fun f => f.toNat == n | _ => false

/-- Free frames that a move may take (R358, R359). -/
def Dev.targets (d : Dev) (m : Move) : List Nat :=
  let no := if m.kind = 3 then d.otherCopy m.world m.copyB else []
  (upto d.frames).filter fun n => bitsOf (d.band (n / 8)) 9 8 == m.pol && bitOf (d.band (n / 8)) (n % 8) && bitOf m.mask (posOf n) &&
    !no.contains (posOf n) && !d.spoiled n

/-- Bands that may take the policy of a move: every frame free, and another policy that Caldera uses (R357). -/
def Dev.spareBands (d : Dev) (m : Move) : List Nat :=
  (upto (d.frames / 8)).filter fun b => bitsOf (d.band b) 7 0 == 255 && bitsOf (d.band b) 9 8 != 3 && bitsOf (d.band b) 9 8 != m.pol

/-- A chosen move finds no frame of its policy: Caldera may give the policy to a band whose frames are all free (R357, R539). Whether it
does, and to which, the manual leaves open: a free choice (log entry 57). -/
def Dev.reband (d : Dev) (m : Move) : Dev :=
  if m.pool.isSome || !(d.targets m).isEmpty || (Config.freeWord (d.free + 1)).toNat % 2 = 0 then d
  else match d.pick (d.spareBands m) with
    | some b => ((d.setPhysWord (d.bandAddr b) (setBits (d.band b) 9 8 m.pol) calderaSrc).setBandPol b m.pol).bumpFree.bumpFree
    | none => d

/-- A count of a peer's samples in the next window: halved, and never forgotten while the page stays (R354, R371). -/
def agedPeers (m : AMap Nat) : AMap Nat := m.map fun p => (p.1, Nat.max 1 (p.2 / 2))

/-- Length of a window in ns (R354). -/
def Dev.windowLen (d : Dev) : Nat := 64000 * 2 ^ d.fld offCLCTL 10 8

/-- End of the window after the one that last ended. -/
def Dev.windowDue (d : Dev) : Nat := (d.cal.winAt / d.windowLen + 1) * d.windowLen

/-- WINDOW_END (R354, R358, R364, R366): the next window whose end has come ends. Counts are halved, and moves chosen, while the heat
table is present. -/
def execWindowEnd : State → Host.Outcome State Fault Refusal :=
  onDev fun d =>
    if !d.active || decide (d.now < d.windowDue) then d
    else
      let d := d.takeSamples d.cal.samples.length
      let d := { d with cal := { d.cal with winAt := d.windowDue } }
      let d := if d.bit offCLHNTB 63 then
          d.addSat offCLSTAT 23 20 (allSlots.filter fun p => d.hintBad p.1 p.2).length
        else d
      let (d, ms) := if d.bit offCLHTB 63 then d.windowFrames (upto d.frames) else (d, [])
      let d := ms.foldl Dev.reband d
      let d := { d with cal := { d.cal with waiting := ms } }
      let d := d.steer
      { d with cal := { d.cal with prevWin := d.cal.win, win := [], peers := agedPeers d.cal.peers } }

/-- FORWARDING_LAPSE (R367). -/
def execForwardingLapse (c : CoreId) : State → Host.Outcome State Fault Refusal :=
  onDev fun d => d.updCore c fun k => { k with fwd := k.fwd.filter fun f => decide (d.now ≤ f.time + d.fwdTime) }

/-- MOVE_BUDGET_TICK (R358): a new millisecond renews the budget. -/
def execMoveBudgetTick : State → Host.Outcome State Fault Refusal :=
  onDev fun d =>
    if d.now / 1000000 = d.cal.lastMs then d
    else { d with cal := { d.cal with lastMs := d.now / 1000000, begun := 0, poolBegun := 0 } }

/-! ## The page move (R360) -/

/-- The root register of a copy of a world's stage-2 tables. -/
def rootOf (world copyB : Bool) : Nat := if world then (if copyB then offTRC2B else offTRC2A) else (if copyB then offTRL2B else offTRL2A)

/-- BACK of a KIND 3 record: all ones stands for the root register (R356). -/
def backRoot (back : Nat) : Bool := back % 2 ^ 32 == 2 ^ 32 - 1

/-- The frame of the other copy of the stage-2 table in frame `f` (R337): its parent's entry, or the root register, names both. -/
def Dev.twinTable (d : Dev) (world copyB : Bool) (f : Nat) : Option Nat :=
  let back := d.heat f 3
  let r := d.rd (rootOf world !copyB)
  if backRoot back then (if bitOf r 63 then some (bitsOf r 31 0) else none)
  else
    let a := back % 2 ^ 32 * 4096 + 8 * bitsOf (d.heat f 1) 27 19
    if bitOf (d.physWord a) 35 then some (bitsOf (if copyB then d.physWord a else d.physWord (a + 4)) 31 0) else none

/-- Addresses of what names the source of a move: the leaf in copies A and B; for KIND 3 the entry in both copies of the parent table
(R337), none for a frame that the root register names. -/
def Dev.namer (d : Dev) (m : Move) : List Nat :=
  if m.kind = 3 then
    (if backRoot m.back then []
     else
       let parent := m.back % 2 ^ 32
       (parent :: (d.twinTable m.world m.copyB parent).toList).map fun f => f * 4096 + 8 * m.pidx)
  else (d.leafAddr false m.world m.back).toList ++ (d.leafAddr true m.world m.back).toList

/-- What the leaves, parent entries or root register hold now: their words without A and D. -/
def Dev.namerWords (d : Dev) (m : Move) : List (Nat × Nat) :=
  if m.kind = 3 ∧ backRoot m.back then [(d.rd (rootOf m.world m.copyB), 0)]
  else (d.namer m).map fun a => (setBits (d.physWord a) 30 29 0, d.physWord (a + 4))

/-- Whether every leaf, parent entry or root that should name the source does. -/
def Dev.names (d : Dev) (m : Move) : Bool :=
  let ws := d.namerWords m
  !ws.isEmpty && ws.all fun w =>
    if m.kind = 3 ∧ backRoot m.back then bitOf w.1 63 && bitsOf w.1 31 0 == m.source
    else bitOf w.1 35 && bitsOf (if m.kind = 3 && !m.copyB then w.1 else w.2) 31 0 == m.source

/-- The far window through which pool peer `p` is reached. -/
def Dev.windowTo (d : Dev) (p : Nat) : Option Nat := (fromN 1 31).find? fun w => d.bit (offPLWIN w) 63 && d.farPeer w == p

/-- Steps 1 and 2 for move `m` in place `k`, to frame `n`; a pool move asks its peer for the frame first, and stays at step 1 (R371). -/
def Dev.beginMove (d : Dev) (k : Nat) (m : Move) (n : Option Nat) : Dev :=
  let m := { m with target := n.getD 0, step := if n.isSome then 2 else 1, begun := d.now, held := d.namerWords m }
  let d := d.setHeat m.source 2 (setBits (d.heat m.source 2) 35 34 2)
  let d := match n, m.pool with
    | some n, _ => d.setFree n false
    | none, some p => d.datagram p (.pageAsk m.source)
    | none, none => d
  { d with cal := { d.cal with moves := d.cal.moves.put k m, begun := d.cal.begun + 1,
                               poolBegun := d.cal.poolBegun + flagNat m.pool.isSome } }.bumpFree

/-- Whether a chosen move may still begin: what barred it at the window end may have come since (R358, R368, R369, R371, R372). -/
def Dev.mayMove (d : Dev) (m : Move) : Bool :=
  !d.detHolds m.source (bitsOf (d.heat m.source 1) 35 32) && !d.lockMode && !d.isStandby &&
  !(m.kind != 3 && d.pinned m.world m.back m.pool.isSome) && d.bit offCLCTL (if m.pool.isSome then 2 else 1) &&
  bitsOf (d.heat m.source 2) 35 34 == 0 && d.names m

/-- Whether a move waits for the ring: its notice is a record, which goes to a standby (R369, R451; log entry 59). -/
def Dev.noticeWaits (d : Dev) : Bool :=
  [1, 3].contains (d.fld offSNCFG 1 0) && [1, 2].contains (d.fld offSNSTAT 31 28) && !d.isStandby && !d.journalReady

/-- Moves of Caldera's own in flight: recoveries have places from 8 on. -/
def Dev.inFlight (d : Dev) : Nat := (d.cal.moves.filter fun m => decide (m.1 < 8)).length

/-- PAGE_MOVE_START: the first waiting move that a freeze does not forbid begins, within CONC and the budget; one that is barred since,
whose leaf no longer names its frame, or that has no target, is skipped. -/
def execPageMoveStart : State → Host.Outcome State Fault Refusal :=
  onDev fun d =>
    match d.cal.waiting.find? (fun m => !d.frozen m.world), (upto 8).find? fun k => (d.cal.moves.find k).isNone with
    | some m, some k =>
      if !d.active || decide (d.fld offCLBUD 12 10 < d.inFlight) || decide (d.fld offCLBUD 9 0 ≤ d.cal.begun) || d.noticeWaits ||
         (m.pool.isSome && decide (d.fld offCLBUD 23 16 ≤ d.cal.poolBegun)) then d
      else
        let d := { d with cal := { d.cal with waiting := d.cal.waiting.erase m } }
        if !d.mayMove m then d
        else match m.pool with
          | some p => if (d.windowTo p).isSome then d.beginMove k m none else d
          | none => match d.pick (d.targets m) with
            | some n => d.beginMove k m (some n)
            | none => d
    | _, _ => d

/-- Copy line `l` of frame `s` to frame `t` with its metadata, poison included (R360, R361). -/
def Dev.copyLine (d : Dev) (s t l : Nat) : Dev :=
  let p := d.phys (s * 4096 + 128 * l)
  let d := d.lineRead p
  let src := d.physN (s * 4096 + 128 * l) 128
  let dst := d.physN (t * 4096 + 128 * l) 128
  let q := d.phys (t * 4096 + 128 * l)
  let cs := d.cells src
  let i := d.lineInfo p
  (({ d with upsets := d.upsets.del (q.key / 128) }.pokes dst cs).setInfo q i).dropL1 (q.addr / 128) none

/-- The lines of a frame in the order of step 3: those written in the current window last (R355). -/
def Dev.copyOrder (d : Dev) (f : Nat) : List Nat :=
  let now (l : Nat) : Bool := (d.lineInfo (d.phys (f * 4096 + 128 * l))).heat.toNat / 4096 == d.window % 16
  ((upto 32).filter fun l => !now l) ++ (upto 32).filter now

/-- Copy a frame, or carry its lines with their metadata over the pool transport (R371). -/
def Dev.copyFrame (d : Dev) (m : Move) : Dev :=
  (d.copyOrder m.source).foldl (fun d l =>
    match m.pool with
    | none => d.copyLine m.source m.target l
    | some p =>
      let a := d.phys (m.source * 4096 + 128 * l)
      let d := d.lineRead a
      d.datagram p (.request (.line (BitVec.ofNat 38 (m.target * 4096 + 128 * l)) (d.cells (d.physN (m.source * 4096 + 128 * l) 128))
        (d.lineInfo a)))) d

/-- Put a frame and policy into the leaf at `a`, keeping A and D as read (R360). -/
def Dev.setLeaf (d : Dev) (a f pol : Nat) : Dev :=
  let d := d.setPhysWord (a + 4) (setBits (d.physWord (a + 4)) 31 0 f) calderaSrc
  d.setPhysWord a (setBits (d.physWord a) 27 26 pol) calderaSrc

/-- Step 4: rewrite FRAME and POL in every leaf, or the frame in every parent entry or the root register, that names the source, and
move its lock-registry entries (R360, R337). -/
def Dev.rewrite (d : Dev) (m : Move) : Dev :=
  let d :=
    if m.kind = 3 ∧ backRoot m.back then d.setFld (rootOf m.world m.copyB) 31 0 m.target
    else (d.namer m).foldl (fun d a =>
      if m.kind = 3 then
        let w := if m.copyB then a + 4 else a
        d.setPhysWord w (setBits (d.physWord w) 31 0 m.target) calderaSrc
      else d.setLeaf a m.target m.pol) d
  if m.pool.isSome then d
  else { d with locks := d.locks.map fun l => if l.1 / 4096 = m.source then (m.target * 4096 + l.1 % 4096, l.2) else l }

/-- The MOVE record of a page move (R424). -/
def moveRecord (d : Dev) (m : Move) (seq : Nat) : Record :=
  { kind := 3, seq := BitVec.ofNat 64 seq, epoch := BitVec.ofNat 32 d.epoch, src := 269,
    body := [BitVec.ofNat 36 m.source, BitVec.ofNat 36 m.target, BitVec.ofNat 36 m.pol, BitVec.ofNat 36 m.back] ++ List.replicate 7 0 }

/-- Whether a page move makes a record: in mirror and self-twin modes, on the device that chooses moves (R369, R420). -/
def Dev.movesRecorded (d : Dev) : Bool := [1, 3].contains (d.fld offSNCFG 1 0) && !d.isStandby && d.journalReady

/-- Pool peers that map the page of a pool move: its new home, and those that sent samples for its frame (R371). -/
def Dev.mappers (d : Dev) (m : Move) : List Nat :=
  match m.pool with
  | none => []
  | some h => (upto 32).filter fun q => q == h || decide (0 < d.cal.peers.getD' (32 * m.source + q) 0)

/-- The words of a frame's heat record. -/
def Dev.record (d : Dev) (f : Nat) : List Nat := (upto 4).map (d.heat f)

/-- Launch every invalidation of a list. -/
def Dev.broadcasts (d : Dev) (vs : List Inval) : Dev := vs.foldl Dev.broadcast d

/-- Steps 3 to 5; the devices that map the page of a pool move rewrite their leaves and invalidate too (R371). -/
def Dev.moveOver (d : Dev) (k : Nat) (m : Move) : Dev :=
  let d := d.copyFrame m
  let m := { m with step := 5, copied := upto 32, peers := d.mappers m }
  let d := { d with cal := { d.cal with moves := d.cal.moves.put k m } }
  let d := d.rewrite m
  let d := if d.movesRecorded then d.numberRecord (moveRecord d m) else d
  let d := m.peers.foldl (fun d q =>
    d.datagram q (.pageMoved m.world m.back m.source (m.target % 2 ^ 26) (Fin.ofNat 32 (m.pool.getD 0)) (d.record m.source))) d
  d.broadcasts m.invals

/-- Whether the posting unit or memory controller of a frame placed by `pol` has failed (R362, R468). -/
def Dev.frameFailed (d : Dev) (f pol : Nat) : Bool :=
  (upto 32).any fun l => let u := puOf (f * 4096 + 128 * l) pol; d.puFenced u || d.hub.deadPc.contains u

/-- Whether a move must be abandoned (R362). -/
def Dev.mustAbandon (d : Dev) (m : Move) : Bool :=
  decide (m.begun + 12000 < d.now) || d.frozen m.world || d.namerWords m != m.held ||
  d.frameFailed m.source (d.polOf (m.source * 4096)) || (m.pool.isNone && d.frameFailed m.target m.pol)

/-- Take a move out of flight before step 4: its record is managed again, and its target goes back. -/
def Dev.dropMove (d : Dev) (k : Nat) (m : Move) : Dev :=
  let d := { d with cal := { d.cal with moves := d.cal.moves.del k } }
  let d := match m.pool with
    | none => d.setFree m.target true
    | some p => if 2 ≤ m.step then d.datagram p (.pageDrop (m.target % 2 ^ 26)) else d
  d.setHeat m.source 2 (setBits (d.heat m.source 2) 35 34 0)

/-- Abandon a move before step 4 (R362). -/
def Dev.abandon (d : Dev) (k : Nat) (m : Move) : Dev := (d.dropMove k m).addSat offCLSTAT 39 32 1

/-- PAGE_MOVE_COPY_DONE. -/
def execPageMoveCopyDone (k : Fin 8) : State → Host.Outcome State Fault Refusal :=
  onDev fun d =>
    match d.cal.moves.find k.val with
    | some m =>
      if !d.active || 4 ≤ m.step then d
      else if d.mustAbandon m then d.abandon k m
      else if m.step < 2 then d
      else d.moveOver k m
    | none => d

/-- MOVE_ABANDON. -/
def execMoveAbandon (k : Fin 8) : State → Host.Outcome State Fault Refusal :=
  onDev fun d =>
    match d.cal.moves.find k.val with
    | some m => if decide (m.step < 4) && d.mustAbandon m then d.abandon k m else d
    | none => d

/-- Step 6: the record moves to the target and the source becomes free. -/
def Dev.endMove (d : Dev) (k : Nat) (m : Move) : Dev :=
  let d := { d with cal := { d.cal with moves := d.cal.moves.del k, peers := d.cal.peers.filter fun p => p.1 / 32 != m.source } }
  let w2 := setBits (d.heat m.source 2) 35 34 0
  let d := if m.pool.isNone then
      (((d.setHeat m.target 0 (d.heat m.source 0)).setHeat m.target 1 (d.heat m.source 1)).setHeat m.target 2 w2).setHeat m.target 3
        (d.heat m.source 3)
    else d
  let d := (((d.setHeat m.source 0 0).setHeat m.source 1 0).setHeat m.source 2 (3 * 2 ^ 34)).setHeat m.source 3 0
  let d := d.setFree m.source true
  d.setFld offCLSTAT 63 40 ((d.fld offCLSTAT 63 40 + 1) % 2 ^ 24)

/-- PAGE_MOVE_FINISH: the invalidation is acknowledged, by every device that maps the page, and no access is on its way to the source. -/
def execPageMoveFinish (k : Fin 8) : State → Host.Outcome State Fault Refusal :=
  onDev fun d =>
    match d.cal.moves.find k.val with
    | some m =>
      if m.step < 4 || d.invalidating m || d.frameBusy m.source || !m.peers.isEmpty then d else d.endMove k m
    | none => d

/-- The move that a standby performs for a MOVE record (R369): its own heat record of the source says what names the frame. None while
eight moves are in flight. -/
def Dev.standbyMove (d : Dev) (s n pol back : Nat) : Option Dev :=
  let w2 := d.heat s 2
  let m : Move := { source := s, target := n, pol := pol, mask := 0, world := bitOf w2 33, kind := bitsOf w2 32 31, copyB := bitOf w2 30,
                    pidx := bitsOf (d.heat s 1) 27 19, back := back, begun := d.now }
  ((upto 8).find? fun k => (d.cal.moves.find k).isNone).map fun k =>
    ((d.setHeat s 2 (setBits w2 35 34 2)).setFree n false).moveOver k m

/-! ## Moves across a pool (R371) -/

/-- A home asks for a frame: one that is free, exported and of a band that Caldera uses, a free choice; none while CLCTL.POOL is 0. Its
record is excluded until the page comes. -/
def Dev.pageAsk (d : Dev) (peer s : Nat) : Dev :=
  let base := d.fld offPLEXP 31 0
  let limit := d.fld offPLEXP 63 32
  let free := (upto d.frames).filter fun n =>
    decide (base ≤ n) && decide (n ≤ limit) && bitsOf (d.band (n / 8)) 9 8 != 3 && bitOf (d.band (n / 8)) (n % 8) && !d.spoiled n
  match if d.bit offCLCTL 2 && d.bit offCLHTB 63 then d.pick free else none with
  | some n => (((d.setFree n false).setHeat n 2 (2 ^ 34)).datagram peer (.pageGive s (some n))).bumpFree
  | none => d.datagram peer (.pageGive s none)

/-- A frame that was given is not needed. -/
def Dev.pageDrop (d : Dev) (n : Nat) : Dev := (d.setHeat n 2 (3 * 2 ^ 34)).setFree n true

/-- The peer's answer: step 2 with its frame, or the move is skipped; a frame that no move awaits goes back. -/
def Dev.pageGive (d : Dev) (peer s : Nat) (target : Option Nat) : Dev :=
  let mv := d.cal.moves.find? fun m => m.2.source == s && m.2.pool == some peer && m.2.step == 1
  match mv, target, d.windowTo peer with
  | some (k, m), some n, some w =>
    { d with cal := { d.cal with moves := d.cal.moves.put k { m with target := w * 2 ^ 26 + n, step := 2 } } }
  | some (k, m), _, _ => d.dropMove k m
  | none, some n, _ => d.datagram peer (.pageDrop n)
  | none, none, _ => d

/-- A home tells that a page has moved: the leaves here that name its old frame take the new one, or stop being valid when no window
reaches it (log entry 124); at the new home the record moves too. The translations are removed, and the home is told when they are. -/
def Dev.pageMoved (d : Dev) (home : Nat) (world : Bool) (back s n new : Nat) (rec : List Nat) : Dev :=
  let here := d.fld offPLCFG 62 58 == new
  let old := (d.windowTo home).map fun w => w * 2 ^ 26 + s
  let dest : Option (Nat × Nat) :=
    if here then some (n, bitsOf (d.band (n / 8)) 9 8) else (d.windowTo new).map fun w => (w * 2 ^ 26 + n, 0)
  let leaves := ((d.leafAddr false world back).toList ++ (d.leafAddr true world back).toList).filter fun a =>
    bitOf (d.physWord a) 35 && some (bitsOf (d.physWord (a + 4)) 31 0) == old
  let d := leaves.foldl (fun d a => match dest with
    | some (f, pol) => d.setLeaf a f pol
    | none => d.setPhysWord a (setBits (d.physWord a) 35 35 0) calderaSrc) d
  let d := if here then
      (((d.setHeat n 0 (rec.getD 0 0)).setHeat n 1 (rec.getD 1 0)).setHeat n 2
        (setBits (rec.getD 2 0) 35 34 (flagNat leaves.isEmpty))).setHeat n 3 (rec.getD 3 0)
    else d
  let v : Inval := { core := none, kind := 0, world := world, space := 2, s2 := true, key := 0, page := back }
  { d.broadcast v with cal := { d.cal with removals := d.cal.removals ++ [(home, s, v)] } }

/-- A device has removed its translations of a page that moved. -/
def Dev.pageDone (d : Dev) (peer s : Nat) : Dev :=
  { d with cal := { d.cal with moves := d.cal.moves.map fun m =>
      if m.2.source = s then (m.1, { m.2 with peers := m.2.peers.erase peer }) else m } }

/-- Tell the homes whose removals every island has applied. -/
def Dev.reportRemovals (d : Dev) : Dev :=
  let done := d.cal.removals.filter fun r => !d.islands.any fun i => i.2.inv.contains r.2.2
  done.foldl (fun d r => d.datagram r.1 (.pageDone r.2.1))
    { d with cal := { d.cal with removals := d.cal.removals.filter fun r => !done.contains r } }

/-! ## Registers with effects of their own (R372, R373, R539) -/

/-- After CLFRZ has taken its value: moves of frozen worlds at steps 1 to 3 are abandoned (R372). -/
def Dev.clfrzWritten (d : Dev) : Dev :=
  d.cal.moves.foldl (fun d p => if decide (p.2.step < 4) && d.frozen p.2.world then d.abandon p.1 p.2 else d) d

/-- CLHTB.V written 1: the array takes every band's policy from the band table; a band that Caldera never uses keeps its entry. -/
def Dev.loadBands (d : Dev) : Dev :=
  let pols := (upto (d.frames / 8)).map fun b => (b, bitsOf (d.band b) 9 8)
  pols.foldl (fun d p => if p.2 = 3 then d else d.setBandPol p.1 p.2) d

end Sys2Proof.Machine
end

