-- ==== Sys2Proof/Machine/Convert.lean ====
section
/-!
DEFINITION. The format conversion engine (chapter 15): profiles and templates (R403 to R407), and the conversion of one record in
either direction (R408 to R413).
-/

namespace Sys2Proof.Machine

/-- A field entry (R414). -/
structure CvField where
  kind : Nat
  opt : Nat
  pair : Nat
  mark : Bool
  hoff : Nat
  hlen : Nat
  coff : Nat
  clen : Nat
  deriving DecidableEq, Repr

/-- The field entry that a CVFLD value gives. -/
def cvField (v : Nat) : CvField :=
  { kind := bitsOf v 63 60, opt := bitsOf v 59 56, pair := bitsOf v 55 53, mark := bitOf v 52, hoff := bitsOf v 47 36,
    hlen := bitsOf v 35 24, coff := bitsOf v 23 12, clen := bitsOf v 11 0 }

/-- A profile with its template (R414); the character tables follow as a function of table and entry. -/
structure CvProf where
  valid : Bool
  marks : Bool
  mchk : Bool
  dsm : Bool
  crec : Nat
  hrec : Nat
  fields : List CvField
  inRange : Bool
  deriving DecidableEq, Repr

/-- Profile `n` as its registers give it. -/
def Dev.profile (d : Dev) (n : Nat) : CvProf :=
  let v := d.rd (offCVPROF n)
  let first := bitsOf v 55 46
  let nf := bitsOf v 45 40
  { valid := bitOf v 63, marks := bitOf v 62, mchk := bitOf v 61, dsm := bitOf v 60, crec := bitsOf v 27 16, hrec := bitsOf v 11 0,
    fields := (fromN first (nf + 1)).map fun f => cvField (d.rd (offCVFLD f)), inRange := decide (first + nf ≤ 1023) }

/-- Entry `x` of table `t` (R414). -/
def Dev.cvTable (d : Dev) (t x : Nat) : Nat := bitsOf (d.rd (offCVTBL t (x / 8))) (8 * (x % 8) + 7) (8 * (x % 8))

/-- Digit bytes of the host form of KIND 3 and 4 (R408). -/
def CvField.digits (f : CvField) : Nat := if f.opt % 4 = 1 ∨ f.opt % 4 = 2 then f.hlen - 1 else f.hlen

/-- Lengths that a kind allows (R407), and MARK of KIND 5 to 7 (R405). -/
def CvField.ok (f : CvField) : Bool :=
  let short (n : Nat) : Bool := decide (1 ≤ n) && decide (n ≤ 64)
  let sep : Bool := f.opt % 4 == 1 || f.opt % 4 == 2
  match f.kind with
  | 0 | 1 => f.hlen == f.clen
  | 2 => f.hlen == f.clen && short f.clen
  | 3 => short f.clen && f.hlen == f.clen + flagNat sep
  | 4 => short f.clen && decide (1 + flagNat sep ≤ f.hlen) && decide (f.digits ≤ 2 * f.clen - 1)
  | 5 => [1, 2, 4, 8].contains f.hlen && [1, 2, 4, 8].contains f.clen && !f.mark
  | 6 => f.hlen == 8 && f.clen == 8 && !f.mark
  | 7 => f.hlen == 16 && f.clen == 16 && !f.mark
  | 8 => decide (1 ≤ f.hlen) && decide (1 ≤ f.clen)
  | _ => false

/-- Whether two runs of `n` from `a` and `m` from `b` meet. -/
def runsMeet (a n b m : Nat) : Bool := decide (a < b + m) && decide (b < a + n) && decide (0 < n) && decide (0 < m)

/-- Whether a profile passes the checks of R405; `out` for READ. -/
def CvProf.ok (p : CvProf) (out : Bool) : Bool :=
  p.valid && p.inRange && p.crec != 0 && p.hrec != 0 &&
  (p.fields.all fun f => f.ok && decide (f.hoff + f.hlen ≤ p.hrec) && decide (f.coff + f.clen ≤ p.crec)) &&
  noPair p.fields
where
  /-- No field meets a later one. -/
  noPair : List CvField → Bool
    | [] => true
    | f :: t => (t.all fun g => !runsMeet f.coff f.clen g.coff g.clen && !(out && runsMeet f.hoff f.hlen g.hoff g.hlen)) && noPair t

/-- A cell that input conversion writes: place in the cell record, value, whether all nine bits are data, and else the mark that
MARKS writes. -/
structure CvCell where
  off : Nat
  val : Nat
  full : Bool
  mark : Option Bool
  deriving DecidableEq, Repr

/-- A conversion failure (R413): cause and byte. -/
structure CvErr where
  cause : Nat
  byte : Nat
  deriving DecidableEq, Repr

/-- Digits and sign of zoned host digits (R408, R409): the value's digits, most significant first, and whether it is minus. `lead`:
every byte so far was a blank that reads as 0. -/
def hostDigits (hz : Nat) (sf0 : Bool) (base : Nat) : Nat → Bool → List Byte → Except CvErr (List Nat × Bool)
  | _, _, [] => .ok ([], false)
  | i, lead, [b] =>
    let x := b.toNat
    if sf0 then
      match signNibble (x / 16) with
      | some s => if x % 16 ≤ 9 then .ok ([x % 16], s) else .error ⟨2, Nat.min (base + i) 63⟩
      | none => .error ⟨2, Nat.min (base + i) 63⟩
    else if lead && x == 0x20 then .ok ([0], false)
    else if x / 16 = hz ∧ x % 16 ≤ 9 then .ok ([x % 16], false)
    else .error ⟨2, Nat.min (base + i) 63⟩
  | i, lead, b :: t =>
    let x := b.toNat
    if lead && x == 0x20 then
      match hostDigits hz sf0 base (i + 1) lead t with
      | .ok (ds, s) => .ok (0 :: ds, s)
      | .error e => .error e
    else if x / 16 = hz ∧ x % 16 ≤ 9 then
      match hostDigits hz sf0 base (i + 1) false t with
      | .ok (ds, s) => .ok (x % 16 :: ds, s)
      | .error e => .error e
    else .error ⟨2, Nat.min (base + i) 63⟩

/-- A separate sign byte: whether it is minus. -/
def signByte (b : Byte) : Option Bool :=
  if b = 0x2B ∨ b = 0x20 then some false else if b = 0x2D then some true else none

/-- Zone of a digit byte (R408). -/
def CvField.zone (f : CvField) : Nat := if bitOf f.opt 2 then 0xF else 0x3

/-- Magnitude and sign of a KIND 3 or 4 host field. -/
def hostDecimal (f : CvField) (bs : List Byte) : Except CvErr (Nat × Bool) :=
  let lsp := f.kind == 4 && bitOf f.opt 3
  let num (ds : List Nat) : Nat := ds.foldl (fun a x => a * 10 + x) 0
  match f.opt % 4 with
  | 1 =>
    match hostDigits f.zone false 0 0 lsp (bs.take f.digits) with
    | .error e => .error e
    | .ok (ds, _) => match signByte (bs.getD f.digits 0) with
      | some s => .ok (num ds, s)
      | none => .error ⟨7, Nat.min f.digits 63⟩
  | 2 =>
    match signByte (bs.getD 0 0) with
    | none => .error ⟨7, 0⟩
    | some s => match hostDigits f.zone false 1 0 lsp (bs.drop 1) with
      | .error e => .error e
      | .ok (ds, _) => .ok (num ds, s)
  | sf =>
    match hostDigits f.zone (sf == 0) 0 0 lsp bs with
    | .error e => .error e
    | .ok (ds, s) => .ok (num ds, s)

/-- The first nibble of a packed field that is invalid: its cell, and whether it is the sign (R32). -/
def packedBad (cs : List Cell) : Option CvErr :=
  let ns := nibbles cs
  match (upto (ns.length - 1)).find? fun k => decide (9 < ns.getD k 0) with
  | some k => some ⟨2, Nat.min (k / 2) 63⟩
  | none => if (signNibble (ns.getLastD 0)).isNone then some ⟨3, Nat.min (cs.length - 1) 63⟩ else none

/-- The first invalid part of a zoned field. -/
def zonedBad (cs : List Cell) : Option CvErr :=
  match (upto cs.length).find? fun k => decide (9 < cellData (cs.getD k 0) % 16) with
  | some k => some ⟨2, Nat.min k 63⟩
  | none => if (signNibble (cellData (cs.getLastD 0) / 16)).isNone then some ⟨3, Nat.min (cs.length - 1) 63⟩ else none

/-- Bytes in the order that BE gives, as a number (R411). -/
def cvNat (be : Bool) (bs : List Byte) : Nat := bytesNat (if be then bs.reverse else bs)

/-- A number as bytes in the order that BE gives. -/
def cvBytes (be : Bool) (n v : Nat) : List Byte := if be then (natBytes n v).reverse else natBytes n v

/-- decimal128 from its BID to its DPD encoding (R411). -/
def bidToDpd (v : Nat) : Nat :=
  let s := bitOf v 127
  if bitsOf v 126 122 = 31 then
    let p := bitsOf v 109 0
    flagNat s * 2 ^ 127 + 31 * 2 ^ 122 + flagNat (bitOf v 121) * 2 ^ 121 + natDeclets 11 (if p < 10 ^ 33 then p else 0)
  else if bitsOf v 126 122 = 30 then d128Enc (.inf s)
  else if bitsOf v 126 125 = 3 then d128Enc (.fin s 0 ((bitsOf v 124 111 : Nat) - 6176 : Int))
  else
    let c := bitsOf v 112 0
    d128Enc (.fin s (if c < 10 ^ 34 then c else 0) ((bitsOf v 126 113 : Nat) - 6176 : Int))

/-- decimal128 from DPD to BID. -/
def dpdToBid (v : Nat) : Nat :=
  let s := flagNat (bitOf v 127) * 2 ^ 127
  match bitsOf v 126 122 with
  | 31 => s + 31 * 2 ^ 122 + flagNat (bitOf v 121) * 2 ^ 121 + decletsNat 11 (bitsOf v 109 0)
  | 30 => s + 30 * 2 ^ 122
  | _ => match d128Dec v with
    | .fin _ c e => s + (e + 6176).toNat * 2 ^ 113 + c
    | _ => s

/-- DPD with canonical declets. -/
def dpdCanonical (v : Nat) : Nat := setBits v 109 0 (natDeclets 11 (decletsNat 11 (bitsOf v 109 0)))

/-- The cells that one field writes on input (R407 to R412). -/
def cvIn (d : Dev) (p : CvProf) (f : CvField) (rec' : List Byte) : Except CvErr (List CvCell) :=
  let bs := (rec'.drop f.hoff).take f.hlen
  let put (data : List Nat) : List CvCell := (data.zip (upto data.length)).map fun x =>
    { off := f.coff + x.2, val := x.1, full := false, mark := if p.marks then some (x.2 == 0 && f.mark) else none }
  let whole (v : Nat) : List CvCell := ((natCells f.clen v).zip (upto f.clen)).map fun x =>
    { off := f.coff + x.2, val := x.1.toNat, full := true, mark := none }
  let be := bitOf f.opt 0
  match f.kind with
  | 0 => .ok (put (bs.map (·.toNat)))
  | 1 => .ok (put (bs.map fun b => d.cvTable (2 * f.pair) b.toNat))
  | 2 =>
    if be then
      let cs := bs.map fun b => BitVec.ofNat 9 b.toNat
      match packedBad cs, packedVal cs with
      | some e, _ => .error e
      | none, some (m, s) => .ok (put (fieldData false f.clen m (s && m != 0) p.dsm))
      | none, none => .ok []
    else .ok (put (bs.map (·.toNat)))
  | 3 | 4 =>
    match hostDecimal f bs with
    | .error e => .error e
    | .ok (m, s) => .ok (put (fieldData (f.kind == 3) f.clen m (s && m != 0) p.dsm))
  | 5 =>
    let u := cvNat be bs
    let v : Int := if bitOf f.opt 1 then (u : Int) else signed (8 * f.hlen) u
    if v < -(2 ^ (9 * f.clen - 1) : Nat) ∨ (2 ^ (9 * f.clen - 1) : Nat) ≤ v then .error ⟨4, 0⟩ else .ok (whole (wrap (9 * f.clen) v))
  | 6 => .ok (whole (cvNat be bs))
  | 7 => .ok (whole (if bitOf f.opt 1 then bidToDpd (cvNat be bs) else cvNat be bs))
  | _ => .ok (put (List.replicate f.clen (if f.opt % 2 = 0 then 0x20 else 0)))

/-- The cells of a whole record on input: the first failing field and its failure, or the cells. -/
def cvRecordIn (d : Dev) (p : CvProf) (rec' : List Byte) : Nat → List CvField → Except (Nat × CvErr) (List CvCell)
  | _, [] => .ok []
  | k, f :: t =>
    match cvIn d p f rec', cvRecordIn d p rec' (k + 1) t with
    | .error e, _ => .error (k, e)
    | .ok _, .error e => .error e
    | .ok a, .ok b => .ok (a ++ b)

/-- A written cell: data over a kept mark, the mark that MARKS writes, or all nine bits. -/
def CvCell.onto (x : CvCell) (old : Cell) : Cell :=
  if x.full then BitVec.ofNat 9 x.val
  else match x.mark with
    | some m => BitVec.ofNat 9 (flagNat m * 256 + x.val)
    | none => BitVec.ofNat 9 (old.toNat / 256 * 256 + x.val)

/-- Zoned host digits of a value (R408, R409). -/
def hostOfDecimal (p : CvProf) (f : CvField) (m : Nat) (neg : Bool) : Except CvErr (List Byte) :=
  let n := f.digits
  let neg := neg && m != 0
  if 10 ^ n ≤ m then .error ⟨4, 0⟩
  else
    let ds := decDigits n m
    let lead := if f.kind == 4 && bitOf f.opt 3 then Nat.min (n - sigDigits n m) (n - 1) else 0
    let bytes := (ds.zip (upto n)).map fun x => BitVec.ofNat 8 (if x.2 < lead then 0x20 else f.zone * 16 + x.1)
    let sign : Byte := if neg then 0x2D else if Config.plusBlank then 0x20 else 0x2B
    match f.opt % 4 with
    | 0 => .ok (bytes.dropLast ++ [BitVec.ofNat 8 (signCode neg p.dsm * 16 + ds.getLastD 0)])
    | 1 => .ok (bytes ++ [sign])
    | 2 => .ok (sign :: bytes)
    | _ => if neg then .error ⟨3, 0⟩ else .ok bytes

/-- The host bytes of one field on output. -/
def cvOut (d : Dev) (p : CvProf) (f : CvField) (cs : List Cell) : Except CvErr (List Byte) :=
  let be := bitOf f.opt 0
  let data := cs.map fun x => cellData x
  let wrongMark := p.mchk && !([5, 6, 7].contains f.kind) &&
    ((cs.zip (upto cs.length)).any fun x => bitOf x.1.toNat 8 != (x.2 == 0 && f.mark))
  if wrongMark then .error ⟨5, 0⟩
  else match f.kind with
  | 0 => .ok (data.map (BitVec.ofNat 8))
  | 1 => .ok (data.map fun x => BitVec.ofNat 8 (d.cvTable (2 * f.pair + 1) x))
  | 2 =>
    if be then
      match packedBad cs, packedVal cs with
      | some e, _ => .error e
      | none, some (m, s) => .ok ((fieldData false f.clen m (s && m != 0) p.dsm).map (BitVec.ofNat 8))
      | none, none => .ok []
    else .ok (data.map (BitVec.ofNat 8))
  | 3 =>
    match zonedBad cs, zonedVal cs with
    | some e, _ => .error e
    | none, some (m, s) => hostOfDecimal p f m s
    | none, none => .ok []
  | 4 =>
    match packedBad cs, packedVal cs with
    | some e, _ => .error e
    | none, some (m, s) => hostOfDecimal p f m s
    | none, none => .ok []
  | 5 =>
    let v := signed (9 * f.clen) (cellsNat cs)
    let bits := 8 * f.hlen
    if (if bitOf f.opt 1 then decide (v < 0) || decide ((2 ^ bits : Nat) ≤ v) else ovSigned bits v) then .error ⟨4, 0⟩
    else .ok (cvBytes be f.hlen (wrap bits v))
  | 6 => .ok (cvBytes be 8 (cellsNat cs % 2 ^ 64))
  | 7 =>
    let v := cellsNat cs % 2 ^ 128
    .ok (cvBytes be 16 (if bitOf f.opt 1 then dpdToBid v else dpdCanonical v))
  | _ => .ok (List.replicate f.hlen (if f.opt % 2 = 0 then 0x20 else 0))

/-- Put bytes at a place of a record. -/
def putAt (l : List Byte) (o : Nat) (bs : List Byte) : List Byte := l.take o ++ bs ++ l.drop (o + bs.length)

/-- The host record of a cell record: uncovered bytes are 0 (R407). `cell` gives the cells of the record. -/
def cvRecordOut (d : Dev) (p : CvProf) (cell : Nat → Cell) : Nat → List CvField → List Byte → Except (Nat × CvErr) (List Byte)
  | _, [], acc => .ok acc
  | k, f :: t, acc =>
    match cvOut d p f ((fromN f.coff f.clen).map cell) with
    | .error e => .error (k, e)
    | .ok bs => cvRecordOut d p cell (k + 1) t (putAt acc f.hoff bs)

/-- DETAIL of a conversion error (R413). -/
def cvDetail (field : Nat) (e : CvErr) : Nat := field * 2 ^ 10 + e.cause * 2 ^ 6 + e.byte

end Sys2Proof.Machine
end

