-- ==== Sys2Proof/Machine/HostAccess.lean ====
section
/-!
DEFINITION. What the host and the queue manager do to cells: accesses under a queue's authority (R384, R393), MSI-X messages
(R376, R402), the cell window (R378, R379), and completions of host-window reads (R381).
-/

namespace Sys2Proof.Machine

/-- CUSTSTAT.PHASE: the last start-up step that ended (R491). -/
def Dev.phase (d : Dev) : Nat := d.fld offCUSTSTAT 3 0

/-- Whether the device is in reset or without power, and presents no function (R25, R527): PERST_N low, rails down, clocks stopped by a trip,
or the time before step 2 of a cold start ends. -/
def Dev.inReset (d : Dev) : Bool :=
  d.board.perst || d.board.railsDropped || d.board.thermtrip || (!d.cust.warm && decide (d.phase < 2))

/-! ## Functions and MSI-X -/

/-- Whether queue `q` belongs to PF1 and the custody world (R382). -/
def queueFn (q : Nat) : Bool := decide (256 ≤ q)

/-- A function: PF1 when `f`. -/
def Dev.fn (d : Dev) (f : Bool) : PcieFn := if f then d.pf1 else d.pf0

/-- Replace a function's configuration. -/
def Dev.setFn (d : Dev) (f : Bool) (x : PcieFn) : Dev := if f then { d with pf1 := x } else { d with pf0 := x }

/-- Whether a function may send requests: bus master, in D0, link up (R374, R375). -/
def Dev.fnReady (d : Dev) (f : Bool) : Bool := (d.fn f).busMaster && !(d.fn f).d3hot && d.board.linkUp && !d.board.dormant

/-- Send an MSI-X message, or set its pending bit while it is masked (R402); none while MSI-X is disabled or the function may send
nothing. -/
def Dev.msix (d : Dev) (f : Bool) (vector : Nat) : Dev :=
  let x := d.fn f
  if !x.msixEnable then d
  else
    let (a, dt, m) := x.table.getD' vector (0, 0, true)
    if x.msixMask || m then
      if x.pba.contains vector then d else d.setFn f { x with pba := x.pba ++ [vector] }
    else if d.fnReady f then d.send (.msix f vector a dt) else d

/-- MSIX_UNMASK: the mask of a vector falls, and a pending message is sent (R402). -/
def Dev.unmask (d : Dev) (f : Bool) (vector : Nat) : Dev :=
  let x := d.fn f
  let (a, dt, _) := x.table.getD' vector (0, 0, true)
  let x := { x with table := x.table.put vector (a, dt, false) }
  if x.pba.contains vector && !x.msixMask && x.msixEnable then
    (d.setFn f { x with pba := x.pba.filter (· != vector) }).msix f vector
  else d.setFn f x

/-- MSIX_UNMASK. -/
def execMsixUnmask (fn : Bool) (vector : Fin 512) : State → Host.Outcome State Fault Refusal :=
  onDev fun d => if vector.val < msixSize fn then d.unmask fn vector else d

/-! ## Accesses under a queue's authority (R393) -/

/-- Island whose tables' walkers serve queue `q`: the bound core's. -/
def Dev.queueIsland (d : Dev) (q : Nat) : Nat := d.fld (offQBIND q) 54 48 / 8 % 12

/-- Whether the bank of address `a` belongs to a fenced island (R468). -/
def Dev.bankDead (d : Dev) (a : Nat) : Bool :=
  match d.region a with
  | .bank i => (d.isl i).fenced
  | _ => false

/-- Translate the pages of an access in a world with supervisor rights. -/
def authChunk (i : Nat) (world : Bool) (acc : Access) (segKey pkr : Nat) (spec : Bool) (rep : Rep) (n : Nat) :
    List (Nat × Nat × Nat) → M (List PLoc)
  | [] => return []
  | (i0, lin, m) :: t => do
    let q : TrReq := { world := world, sup := true, page := lin / 4096 % 2 ^ 36, acc := acc, segKey := segKey, pkr := pkr, spec := spec,
                       off := lin % 4096, n := n }
    let (d, r) := (← get).translate i none q
    set d
    match r with
    | .error ⟨0, _, _⟩ => waitM
    | .error f => raiseE { rep.exc 5 f.cause i0 lin with stage := f.stage, wlev := f.lev }
    | .ok e =>
      let a := e.frame * 4096 + lin % 4096
      let ps := (fromN a m).map fun x => ({ addr := x, pol := e.pol, se := e.se1 || e.se2 || d.windowed a } : PLoc)
      let rest ← authChunk i world acc segKey pkr spec rep n t
      return ps ++ rest

/-- The checks of one cell after its translation: bank ownership by OWNER 3, then poison of a cell that is read. -/
def authCell (acc : Access) (rep : Rep) (p : PLoc) : M Unit := do
  let d ← get
  match d.region p.addr with
  | .bank _ =>
    if d.bankHeld p.addr then waitM
    if accWrites acc && !d.bankDead p.addr then
      match d.ownCheck p.addr 3 with
      | .ok => pure ()
      | .waits => waitM
      | .refused => raiseE (rep.exc 12 1 0 0)
  | _ => pure ()
  if accReads acc then
    modify fun d => d.lineRead p
    let d ← get
    if d.poisoned p || d.bankDead p.addr then raiseE (rep.exc 41 0 0 0)

/-- One cell at offset `off` of an entry of queue `q`'s authority. -/
def authOne (q : Nat) (acc : Access) (ent off : Nat) : M PLoc := do
  let d ← get
  let x := d.queue q
  let rep : Rep := { seg := ent, off := off }
  let s ← segCheck (x.segs.getD' ent {}) acc rep 1
  let ps ← authChunk (d.queueIsland q) (queueFn q) acc s.key.toNat x.pkr.toNat false rep 1 [(0, (s.base.toNat + off) % 2 ^ 48, 1)]
  let p := ps.headD { addr := 0 }
  authCell acc rep p
  return p

/-- The cells at a list of offsets, in order, up to the first that fails: their places, and the failing offset's position. -/
def authMany (q : Nat) (acc : Access) (ent : Nat) : Nat → List Nat → M (List PLoc × Option (Nat × Exc))
  | _, [] => return ([], none)
  | k, o :: t => do
    match ← attempt (authOne q acc ent o) with
    | .error e => return ([], some (k, e))
    | .ok p =>
      let (ps, r) ← authMany q acc ent (k + 1) t
      return (p :: ps, r)

/-- DETAIL of a device operand fault (R393). -/
def operandDetail (e : Exc) (ent : Nat) : Nat :=
  (if e.vec = 4 then 1 else if e.vec = 5 then 2 else 3) * 2 ^ 12 + e.cause * 2 ^ 8 + e.stage * 2 ^ 6 + e.wlev * 2 ^ 3 + ent

/-- JR and SEGTAG of an entry of the authority (R59). -/
def Queue.journal (x : Queue) (ent : Nat) : Bool × BitVec 16 :=
  match (x.segs.getD' ent {}).desc with
  | some s => (s.jr, s.segtag)
  | none => (false, 0)

/-- Record source of host DMA (R423). -/
def srcHostDma : Nat := 268

/-- A write to far window `w` of consecutive cells: fields where marks are kept (R28). -/
def Dev.farWrite (d : Dev) (w : Nat) (keeps : PLoc → Bool) (run : List (PLoc × Cell)) : Dev :=
  match run with
  | [] => d
  | (p, _) :: _ =>
    let a := BitVec.ofNat 38 p.addr
    let cs := run.map (·.2)
    d.datagram (d.farPeer w) (.request (if keeps p then .field a cs else .write a cs))

/-- A write of consecutive cells to the host window (R381). -/
def Dev.hostWindowWrite (d : Dev) (run : List (PLoc × Cell)) : Dev :=
  match run with
  | [] => d
  | (p, _) :: _ =>
    if d.hostReady then d.send (.hostWrite (p.addr - hostWinBase) (run.map fun x => cellByte x.2))
    else d.logEvent 0x16 13 0 3 (p.addr - hostWinBase) 0

/-- Write one page of host-DMA cells (R393, R310, R420, R468); `keeps` says where the mark of a far window's cell is kept. -/
def authWriteRun (jr : Bool) (segtag : BitVec 16) (keeps : PLoc → Bool) (run : List (PLoc × Cell)) : M Unit := do
  match run with
  | [] => return ()
  | (p, _) :: _ =>
    let ps := run.map (·.1)
    let cs := run.map (·.2)
    let d ← get
    match d.region p.addr with
    | .localMem | .bank _ =>
      if d.bankDead p.addr then
        set (run.foldl (fun d pc => d.logEvent 0x1D 2 (bankIsland pc.1.addr) 1 pc.1.addr 0) d)
      else
        if (jr && !d.journalReady) || d.postQueued ps then waitM
        set (d.writeLoc { cells := ps, jr := jr, segtag := segtag } cs 12 (some srcHostDma))
    | .far w => set ((gapRuns keeps run).foldl (fun d r => d.farWrite w keeps r) d)
    | .host => set ((gapRuns (fun _ => false) run).foldl Dev.hostWindowWrite d)
    | _ => return ()

/-- Write the pages of host-DMA cells. -/
def authWrite (jr : Bool) (segtag : BitVec 16) (keeps : PLoc → Bool) : List (List (PLoc × Cell)) → M Unit
  | [] => return ()
  | r :: t => do
    authWriteRun jr segtag keeps r
    authWrite jr segtag keeps t

/-- A read of a queue's descriptor that leaves the device (R381, R449). -/
def authExt (q : Nat) (e : QDesc) (a n : Nat) (ok : Bool) (launch : Dev → Dev) : M (List Cell) := do
  match e.ext.find? fun x => x.addr == a && x.n == n with
  | some x =>
    match x.data with
    | some cs => if x.poisoned then raiseE { vec := 41 } else return cs
    | none => throw Stop.hold
  | none =>
    if !ok then raiseE { vec := 41 }
    modify fun d => launch (d.setDesc q { e with ext := e.ext ++ [{ addr := a, n := n }] })
    throw Stop.hold

/-- Read one page of checked cells for a descriptor. -/
def authReadRun (q : Nat) (e : QDesc) (ps : List PLoc) : M (List Cell) := do
  match ps with
  | [] => return []
  | p :: _ =>
    let d ← get
    match d.region p.addr with
    | .host => authExt q e p.addr ps.length d.hostReady fun d => d.send (.hostRead (p.addr - hostWinBase) ps.length)
    | .far w => authExt q e p.addr ps.length true fun d =>
        d.datagram (d.farPeer w) (.request (.read (Fin.ofNat 96 (d.fld (offQBIND q) 54 48)) (BitVec.ofNat 38 p.addr) ps.length))
    | _ =>
      if d.postQueued ps then waitM
      return d.cells ps

/-- Read checked cells for a descriptor, run by run: the cells, up to a run whose read has failed, and that failure. -/
def authRuns (q : Nat) (e : QDesc) : List (List PLoc) → M (List Cell × Option Exc)
  | [] => return ([], none)
  | r :: t => do
    match ← attempt (authReadRun q e r) with
    | .error x => return ([], some x)
    | .ok a =>
      let (b, x) ← authRuns q e t
      return (a ++ b, x)

/-- Read checked cells for a descriptor, each page's consecutive cells in one read. -/
def authRead (q : Nat) (e : QDesc) (ps : List PLoc) : M (List Cell × Option Exc) :=
  authRuns q e (((runsBy 4096 (ps.map fun p => (p, 0))).flatMap (gapRuns fun _ => false)).map fun r => r.map (·.1))

/-- Cells at linear address `lin` of a world, read with supervisor rights for the queue manager (R384). -/
def authLin (i : Nat) (world : Bool) (pkr lin n : Nat) : M (List Cell) := do
  let ps ← authChunk i world .read 0 pkr false {} n (pageChunks (n + 1) 0 (lin % 2 ^ 48) n)
  ps.forM (authCell .read {})
  let d ← get
  if d.postQueued ps then waitM
  return d.cells ps

/-- Apply an action that may wait: nothing is changed when it does; an event, or a launched read, keeps what was done. -/
def Dev.act (d : Dev) (m : M Unit) : Dev :=
  match m d with
  | (.ok (), d') => d'
  | (.error .wait, _) => d
  | (.error _, d') => d'

/-! ## The cell window (R378 to R380) -/

/-- Island whose walkers serve the cell window. -/
def windowIsland : Nat := 0

/-- The places of the cells of window pages; none when one is refused (R379). -/
def windowPages (acc : Access) : List (Nat × Nat × Nat) → M (Option (List PLoc))
  | [] => return some []
  | (_, a, m) :: t => do
    let (d, r) := (← get).s2Set windowIsland false (a / 4096) (.access acc true false 0 0) 16
    set d
    match r with
    | .error ⟨0, _, _⟩ => waitM
    | .error _ => return none
    | .ok l =>
      let p := l.frame * 4096 + a % 4096
      let ok := !l.se && (match d.region p with | .localMem | .bank _ => true | _ => false)
      if !ok then return none
      let ps := (fromN p m).map fun x => ({ addr := x, pol := l.pol } : PLoc)
      if ps.any fun p => d.bankHeld p.addr then waitM
      if accWrites acc then
        if ps.any fun p => !d.bankDead p.addr && d.ownCheck p.addr 3 == .waits then waitM
        if ps.any fun p => !d.bankDead p.addr && d.ownCheck p.addr 3 == .refused then return none
      match ← windowPages acc t with
      | some rest => return some (ps ++ rest)
      | none => return none

/-- The places of the `n` cells at window offset `b`; none when the access is refused (R379, R479). -/
def windowCells (acc : Access) (b n : Nat) : M (Option (List PLoc)) := do
  let d ← get
  let base := d.rd offCWBASE
  if !bitOf base 63 || d.phase != 10 then return none
  windowPages acc (pageChunks (n + 1) 0 ((bitsOf base 35 0 * 4096 + b) % 2 ^ 48) n)

/-- A refused window access (R379): counted in CWSTAT bits `hi:lo` and logged. -/
def Dev.windowRefused (d : Dev) (hi lo : Nat) : Dev := (d.addSat offCWSTAT hi lo 1).logEvent 0x15 13 0 0 0 0

/-- A window write: bytes into bits 7:0, marks kept. -/
def windowWrite (b : Nat) (bytes : List Byte) : M Unit := do
  match ← windowCells .write b bytes.length with
  | none => modify fun d => d.windowRefused 31 0
  | some ps =>
    let d ← get
    if d.postQueued ps then waitM
    let cs := (ps.zip bytes).map fun x => BitVec.ofNat 9 ((d.cell x.1).toNat / 256 * 256 + x.2.toNat)
    authWrite false 0 (fun _ => false) (runsBy 4096 (ps.zip cs))

/-- A window read. -/
def windowRead (b n : Nat) : M Unit := do
  match ← windowCells .read b n with
  | none => modify fun d => (d.windowRefused 63 32).send .cwAbort
  | some ps =>
    if (← get).postQueued ps then waitM
    modify fun d => d.readLines ps
    let d ← get
    set (d.send (.cwData ((d.cells ps).map cellByte) (ps.any fun p => d.poisoned p || d.bankDead p.addr)))

/-- Whether the cell window answers: the link is up, and the device works or has not reached ledger ready, when every access is refused
(R479). -/
def Dev.windowUp (d : Dev) : Bool := d.board.linkUp && (d.active || d.phase != 10)

/-- CELL_WINDOW_WRITE. -/
def execCellWindowWrite (offset : BitVec 36) (bytes : List Byte) : State → Host.Outcome State Fault Refusal :=
  onDev fun d => if d.windowUp then d.act (windowWrite offset.toNat bytes) else d

/-- CELL_WINDOW_READ. -/
def execCellWindowRead (offset : BitVec 36) (n : Nat) : State → Host.Outcome State Fault Refusal :=
  onDev fun d => if d.windowUp then d.act (windowRead offset.toNat n) else d

/-! ## Data that comes from outside (R381, R449) -/

/-- Answer the oldest unanswered read of a list. -/
def answerFirst (cs : List Cell) (bad : Bool) (sel : ExtRead → Bool) : List ExtRead → List ExtRead
  | [] => []
  | e :: t =>
    if e.data.isNone && sel e then { e with data := some ((cs ++ List.replicate (e.n - cs.length) 0).take e.n), poisoned := bad } :: t
    else e :: answerFirst cs bad sel t

/-- Whether a list holds an unanswered read that `sel` chooses. -/
def awaits (sel : ExtRead → Bool) (l : List ExtRead) : Bool := l.any fun e => e.data.isNone && sel e

/-- Bring outside data to core `c`, to the running contexts of its island's Geyser, or to a queue bound to the core. -/
def Dev.answer (d : Dev) (c : Nat) (cs : List Cell) (bad : Bool) (sel : ExtRead → Bool) : Dev :=
  let k := d.core c
  if awaits sel k.ext then d.setCore c { k with ext := answerFirst cs bad sel k.ext }
  else
    let i := c / 8
    match (d.isl i).ctxs.find? fun p => awaits sel p.2.ext with
    | some p => d.setCtx i p.1 { p.2 with ext := answerFirst cs bad sel p.2.ext }
    | none =>
      match d.queues.find? fun p => d.fld (offQBIND p.1) 54 48 == c && p.2.descs.any fun e => awaits sel e.ext with
      | some p =>
        let ds := p.2.descs.map fun e => ({ e with ext := answerFirst cs bad sel e.ext } : QDesc)
        d.setQueue p.1 { p.2 with descs := ds }
      | none => d

/-- HOST_READ_COMPLETION: the completion of the oldest host-window read of core `c`'s, or its failure (R381). -/
def execHostReadCompletion (c : CoreId) (bytes : List Byte) (ok : Bool) : State → Host.Outcome State Fault Refusal :=
  onDev fun d => d.answer c (bytes.map fun b => BitVec.ofNat 9 b.toNat) (!ok) fun e => decide (hostWinBase ≤ e.addr)

end Sys2Proof.Machine
end

