-- ==== Sys2Proof/Machine/Queue.lean ====
section
/-!
DEFINITION. The queue manager and the conversion engine (chapters 14 and 15): enabling and resetting a queue (R383 to R385),
doorbells (R386), fetching (R387), transfers and conversion (R394, R403 to R413), delivery and QDONE (R396, R397), STREAM (R398),
completions with the waits of the pair (R399 to R401, R428, R431), and interrupt coalescing (R402).
-/

namespace Sys2Proof.Machine

/-! ## A queue's registers and conditions -/

/-- GEN of queue `q`. -/
def Dev.qGen (d : Dev) (q : Nat) : Nat := d.fld (offQCFG q) 59 58
/-- Descriptors of the submission ring, and image slots. -/
def Dev.sqSize (d : Dev) (q : Nat) : Nat := 2 ^ d.fld (offQCFG q) 56 52
/-- Entries of the completion ring. -/
def Dev.cqSize (d : Dev) (q : Nat) : Nat := 2 ^ d.fld (offQCFG q) 51 47
/-- SQTAIL. -/
def Dev.sqTail (d : Dev) (q : Nat) : Nat := d.fld (offQSTAT q) 63 48
/-- SQHEAD. -/
def Dev.sqHead (d : Dev) (q : Nat) : Nat := d.fld (offQSTAT q) 47 32
/-- DLV. -/
def Dev.dlv (d : Dev) (q : Nat) : Nat := d.fld (offQSTAT q) 31 16
/-- RSTBUSY. -/
def Dev.rstBusy (d : Dev) (q : Nat) : Bool := d.bit (offQSTAT q) 7
/-- ENABLED. -/
def Dev.qEnabled (d : Dev) (q : Nat) : Bool := d.bit (offQSTAT q) 0

/-- Pair state (SNSTAT.STATE). -/
def Dev.pair (d : Dev) : Nat := d.fld offSNSTAT 31 28
/-- Pair mode (SNCFG.MODE). -/
def Dev.mode (d : Dev) : Nat := d.fld offSNCFG 1 0

/-- Whether the queues of this device write nothing to the host: a mirror or lock standby (R430, R431). -/
def Dev.silentQueues (d : Dev) : Bool :=
  (d.mode == 1 || d.mode == 2) && d.bit offSNCFG 2 && [1, 2, 4, 5].contains d.pair

/-- Whether queue `q` fetches descriptors: it is enabled, no reset or DEMOTE is in progress, its function may send requests, the device
is no standby, and it is neither HELD nor FENCED (R385, R430, R431, R434, R443, R445). -/
def Dev.qFetches (d : Dev) (q : Nat) : Bool :=
  d.qEnabled q && !d.rstBusy q && d.fnReady (queueFn q) && !d.silentQueues && !d.sn.demote && d.pair != 5 && d.pair != 6

/-- Whether the bound slot of queue `q` is VALID and of its world (R396). -/
def Dev.bound (d : Dev) (q : Nat) : Option (Nat × Nat) :=
  let b := d.rd (offQBIND q)
  let c := bitsOf b 54 48
  let s := bitsOf b 45 40
  let x := (d.core c).slot s
  if bitOf b 63 && decide (c < 96) && x.valid && x.world == queueFn q then some (c, s) else none

/-- The doorbell event for the bound slot (R225, R396). -/
def Dev.ringSlot (d : Dev) (q : Nat) : Dev :=
  d.schedEvent (d.fld (offQBIND q) 54 48) (d.fld (offQBIND q) 45 40) 0 d.now

/-! ## Enable and reset -/

/-- The first check of R384 on register fields that fails, or 0. -/
def Dev.enableFields (d : Dev) (q : Nat) : Nat :=
  let c := d.rd (offQCFG q)
  let log (n : Nat) : Bool := decide (4 ≤ n) && decide (n ≤ 16)
  if bitsOf c 59 58 = 3 then 1
  else if !(log (bitsOf c 56 52) && log (bitsOf c 51 47)) then 2
  else if msixSize (queueFn q) ≤ bitsOf c 20 12 then 3
  else if (d.bound q).isNone then 4 else 0

/-- Load the authority: the segments that the selectors of the set name (R384 check 5). -/
def loadAuthority (i : Nat) (world : Bool) (w : WorldRegs) : Nat → List Word → M (AMap SegReg)
  | _, [] => return []
  | n, x :: t => do
    let sel := x.toNat
    let s ← if sel = 0 then pure {} else (do
      need (selOk sel w.sdtl.toNat) { vec := 4, cause := 2 }
      segFrom sel false {} (← authLin i world w.pkr.toNat (w.sdtb.toNat * 4096 + 16 * sel) 16))
    let rest ← loadAuthority i world w (n + 1) t
    return (n, s) :: rest

/-- Check image slots `n` to the last through entry 0 (R384 check 6). -/
def checkImages (q i : Nat) (s : SegReg) (pkr off : Nat) : Nat → Nat → M Unit
  | 0, _ => return ()
  | k + 1, n => do
    let o := off + 128 * n
    let x ← segCheck s .write { off := o } 128
    let _ ← authChunk i (queueFn q) .write x.key.toNat pkr true { off := o } 1 (pageChunks 129 0 (x.base.toNat + o) 128)
    checkImages q i s pkr off k (n + 1)

/-- A refused enable. -/
def Dev.enableRefused (d : Dev) (q cause : Nat) : Dev := (d.setFld (offQSTAT q) 15 8 cause).updQueue q fun x => { x with enabling := false }

/-- An enable waits while a read of its checks must wait, and goes on with time. -/
def Dev.enableWaits (d : Dev) (q : Nat) : Dev := d.updQueue q fun x => { x with enabling := true }

/-- A write of EN := 1 (R384). -/
def Dev.queueEnable (d : Dev) (q : Nat) : Dev :=
  let bad := d.enableFields q
  if bad ≠ 0 then d.enableRefused q bad
  else
    let w := queueFn q
    let i := d.queueIsland q
    let wr := (d.core (d.fld (offQBIND q) 54 48)).wr w
    let auth : M (AMap SegReg) := do
      loadAuthority i w wr 0 (cellsWords (← authLin i w wr.pkr.toNat (d.fld (offQSEGS q) 47 0) 32))
    match auth d with
    | (.error (.exc _), d') => d'.enableRefused q 5
    | (.error _, _) => d.enableWaits q
    | (.ok segs, d') =>
      let off := d.fld (offQIMG q) 35 0
      match (checkImages q i (segs.getD' 0 {}) wr.pkr.toNat off (d.sqSize q) 0 : M Unit) d' with
      | (.error (.exc _), d'') => d''.enableRefused q 6
      | (.error _, _) => d.enableWaits q
      | (.ok (), d'') =>
        if off % 128 ≠ 0 then d''.enableRefused q 7
        else
          let d := ((d''.wr (offQSTAT q) (setBits (d''.rd (offQSTAT q)) 63 16 0)).setBit (offQSTAT q) 0 true).setBit (offQCFG q) 63 true
          d.setQueue q { segs := segs, pkr := wr.pkr, ghosts := (d.queue q).ghosts, shadow := (d.queue q).shadow }

/-- A queue reset (R385): fetched descriptors that are not delivered complete with status 0x0D. -/
def Dev.queueReset (d : Dev) (q : Nat) : Dev :=
  let d := ((d.setBit (offQSTAT q) 7 true).setBit (offQCFG q) 63 false)
  ((d.queue q).descs.filter fun e => e.st != .delivered && e.st != .done).foldl (fun d e => d.finish q e 0x0D 0 0) d

/-- A write of QCFG (R383 to R385): `nv` is the value its fields would take, `rst` whether QRST was written 1. While EN is 1 only EN
and QRST act. -/
def Dev.qcfgWrite (d : Dev) (q nv : Nat) (rst : Bool) (off w : Nat) : Dev :=
  let old := d.rd (offQCFG q)
  if bitOf old 63 then
    let d := if setBits nv 63 63 1 ≠ old then d.logIgnored off w else d
    if rst || !bitOf nv 63 then d.queueReset q else d
  else
    let nv' := if bitsOf nv 31 24 = 0 then setBits nv 31 24 1 else nv
    let d := d.wr (offQCFG q) (setBits nv' 63 63 0)
    let d := if rst && d.qEnabled q then d.queueReset q else d
    let d := if (d.queue q).enabling && !bitOf nv 63 then d.updQueue q fun x => { x with enabling := false } else d
    if bitOf nv 63 && !d.rstBusy q then d.queueEnable q else d

/-- Enables that wait go on. -/
def Dev.enableStep (d : Dev) : Dev := (d.queues.filter fun x => x.2.enabling).foldl (fun d x => d.queueEnable x.1) d

/-- A write of another queue register (R383), `nv` what its fields take by the common rules: while EN is 1 it is ignored and logged, but
for QBIND. -/
def Dev.queueRegWrite (d : Dev) (q r nv off w : Nat) : Dev :=
  if d.bit (offQCFG q) 63 && r != 3 then d.logIgnored off w else d.wr (offQ q r) nv

/-- QUEUE_RESET_DONE: nothing that was fetched remains (R385). -/
def Dev.queueResetDone (d : Dev) (q : Nat) : Dev :=
  let x := d.queue q
  if d.rstBusy q && x.descs.isEmpty && x.comps.isEmpty then
    let d := d.setFld (offQSTAT q) 63 16 0
    let d := (d.setBit (offQSTAT q) 7 false).setBit (offQSTAT q) 0 false
    d.setQueue q { x with phase := true, cqw := 0, cqh := 0, owed := 0 }
  else d

/-- QUEUE_RESET_DONE. -/
def execQueueResetDone (q : QueueId) : State → Host.Outcome State Fault Refusal := onDev fun d => d.queueResetDone q

/-! ## Doorbells (R386) -/

/-- Wake the device from dormant (R499). -/
def Dev.wake (d : Dev) : Dev := if d.board.dormant then d.setFld offPWRSTAT 1 0 2 else d

/-- A doorbell ignored and logged; DBERR when its value was out of range. -/
def Dev.doorbellBad (d : Dev) (q page value : Nat) (range : Bool) : Dev :=
  let d := d.logEvent 0x13 13 (flagNat (queueFn q)) 2 (0x1000 * (q % 256) + page) value
  if range then d.setBit (offQSTAT q) 2 true else d

/-- A doorbell accepted while dormant is latched; a WAKE queue's wakes the device (R499). -/
def Dev.latch (d : Dev) (q : Nat) : Dev :=
  if d.board.dormant then
    let d := d.updQueue q fun x => { x with latched := true }
    if d.bit (offQCFG q) 62 then d.wake else d
  else d

/-- A doorbell write of register `page` of queue `q` with `value`: accepted by `ok`, to effect `f`. A PF0 doorbell before ledger ready,
or one during a queue reset, is ignored without logging (R479, R385). -/
def Dev.doorbell (d : Dev) (q page value : Nat) (ok : Bool) (f : Dev → Dev) : Dev :=
  if (!queueFn q && d.phase != 10) || d.board.stopped || !d.board.linkUp || d.rstBusy q then d
  else if !d.bit (offQCFG q) 63 then d.doorbellBad q page value false
  else if !ok then d.doorbellBad q page value true
  else (f d).latch q

/-- A write of SQDB. -/
def Dev.sqdb (d : Dev) (q v : Nat) : Dev := d.doorbell q 0 v (decide (v < d.sqSize q)) fun d => d.setFld (offQSTAT q) 63 48 v

/-- A write of CQDB: the head may not pass the write index. -/
def Dev.cqdb (d : Dev) (q v : Nat) : Dev :=
  let n := d.cqSize q
  let x := d.queue q
  let ok := decide (v < n) && decide ((v + n - x.cqh) % n ≤ (x.cqw + n - x.cqh) % n)
  d.doorbell q 4 v ok fun d => d.updQueue q fun x => { x with cqh := v }

/-- SQ_DOORBELL. -/
def execSqDoorbell (q : QueueId) (value : BitVec 32) : State → Host.Outcome State Fault Refusal := onDev fun d => d.sqdb q value.toNat

/-- CQ_DOORBELL. -/
def execCqDoorbell (q : QueueId) (value : BitVec 32) : State → Host.Outcome State Fault Refusal := onDev fun d => d.cqdb q value.toNat

/-- `n` bytes of a write that fall into one aligned 4-byte unit at `off` of a function's doorbell pages: the two registers take whole
units (R514); any other offset takes nothing, and the write is logged (R386). -/
def Dev.pagePart (d : Dev) (f : Bool) (off n x : Nat) : Dev :=
  let q := off / 0x1000 + (if f then 256 else 0)
  let page := off % 0x1000
  if n = 0 || decide ((if f then 0x10000 else 0x100000) ≤ off) || !d.board.linkUp || (!f && d.phase != 10) || d.board.stopped then d
  else if 8 ≤ page then d.doorbellBad q page x false
  else if n ≠ 4 then d.logIgnored off x
  else if page = 0 then d.sqdb q x else d.cqdb q x

/-- A write of up to 8 bytes to the doorbell pages of a function: each 32-bit register touched takes its own bytes, in ascending order. -/
def Dev.pageWrite (d : Dev) (f : Bool) (off size x : Nat) : Dev :=
  let a := Nat.min size (4 - off % 4)
  let b := Nat.min (size - a) 4
  let part (d : Dev) (off n x : Nat) : Dev := d.pagePart f off n (x % 2 ^ (8 * n))
  part (part (part d off a x) (off + a) b (x / 2 ^ (8 * a))) (off + a + b) (size - a - b) (x / 2 ^ (8 * (a + b)))

/-! ## Fetching (R387, R431) -/

/-- Whether image slot `i` is free: no descriptor of that index awaits its completion. -/
def Dev.slotFree (d : Dev) (q i : Nat) : Bool := !(d.queue q).descs.any fun e => e.index == i

/-- The batch that a descriptor belongs to in lock mode (R432). -/
def Dev.batchNow (d : Dev) : Option Nat := if d.lockMode then some (d.sn.batch + flagNat d.sn.closing) else none

/-- Take one fetched descriptor at submission index `i`; a wrong one is finished at once (R389, R390, R392). -/
def Dev.takeDesc (d : Dev) (q i : Nat) (bytes : List Byte) : Dev :=
  let e : QDesc := { index := i, gen := d.qGen q, bytes := bytes, batch := d.batchNow }
  let d := (d.updQueue q fun x => { x with descs := x.descs ++ [e] }).setFld (offQSTAT q) 47 32 ((i + 1) % d.sqSize q)
  let d := if d.lockMode && !d.silentQueues then d.send (.forward q i bytes) else d
  let st := e.badStatus
  if st ≠ 0 then d.finish q e st 0 0 else d

/-- Take descriptors in ring order while they are submitted and their image slots are free. -/
def Dev.takeDescs (d : Dev) (q : Nat) : List (List Byte) → Dev
  | [] => d
  | b :: t =>
    let h := d.sqHead q
    if h ≠ d.sqTail q ∧ b.length = descSize (d.qGen q) ∧ d.slotFree q h then (d.takeDesc q h b).takeDescs q t else d

/-- A descriptor read that failed: the descriptor at SQHEAD ends with status 0x04 and a TAG that nothing gave (R394, R400). -/
def Dev.fetchFailed (d : Dev) (q : Nat) : Dev :=
  let h := d.sqHead q
  if h = d.sqTail q ∨ !d.slotFree q h then d
  else
    let g := d.qGen q
    let n := descSize g
    let tag := (Config.freeWord d.free).toNat
    let bytes := if g = 0 then natBytes 2 0 ++ natBytes 2 tag ++ List.replicate (n - 4) 0
                 else natBytes 4 0 ++ natBytes 4 tag ++ List.replicate (n - 8) 0
    let e : QDesc := { index := h, gen := g, bytes := bytes, batch := d.batchNow }
    ((d.updQueue q fun x => { x with descs := x.descs ++ [e] }).setFld (offQSTAT q) 47 32 ((h + 1) % d.sqSize q)).bumpFree.finish q e 4 0 0

/-- Descriptors that one fetch reads from ring index `h` on, of `k` at most: submitted, in consecutive ring slots, with free image slots. -/
def Dev.fetchCount (d : Dev) (q : Nat) : Nat → Nat → Nat
  | 0, _ => 0
  | k + 1, h => if h ≠ d.sqTail q ∧ h < d.sqSize q ∧ d.slotFree q h then d.fetchCount q k (h + 1) + 1 else 0

/-- DESCRIPTOR_FETCH: a read of at most 4,096 bytes of the submission ring is sent and completes (R387); with nothing to fetch none is
sent. -/
def execDescriptorFetch (q : QueueId) (bytes : List Byte) (ok : Bool) : State → Host.Outcome State Fault Refusal :=
  onDev fun d =>
    let s := descSize (d.qGen q)
    let n := d.fetchCount q (4096 / s) (d.sqHead q)
    if !d.qFetches q || n == 0 then d
    else
      let d := d.send (.hostRead (d.fld (offQSQB q) 63 12 * 4096 + s * d.sqHead q) (n * s))
      if ok then d.takeDescs q (chunks s (bytes.length + 1) (bytes.take (n * s))) else d.fetchFailed q

/-- FORWARDED_DESCRIPTOR: a lock standby takes the descriptor that the primary fetched (R431). -/
def execForwardedDescriptor (q : QueueId) (index : BitVec 16) (bytes : List Byte) : State → Host.Outcome State Fault Refusal :=
  onDev fun d =>
    if d.lockMode && d.silentQueues && d.qEnabled q && !d.rstBusy q && d.slotFree q index.toNat &&
        decide (bytes.length = descSize (d.qGen q)) && decide (index.toNat < d.sqSize q) then
      (d.takeDesc q index.toNat bytes)
    else d

/-! ## Order of starting (R390, R401) -/

/-- Whether descriptor `e` may start: with ORD, only when every earlier one has completed. -/
def Queue.mayStart (x : Queue) (e : QDesc) : Bool :=
  !e.ord || match x.descs with | f :: _ => f.index == e.index | [] => false

/-- The first fetched descriptor of opcode `opc` that may start. -/
def Dev.startable (d : Dev) (q opc : Nat) : Option QDesc :=
  let x := d.queue q
  if d.active then x.descs.find? fun e => e.st == .fetched && e.opc == opc && x.mayStart e else none

/-- Act on the first startable descriptor of an opcode. -/
def onDesc (q opc : Nat) (f : Dev → QDesc → Dev) : State → Host.Outcome State Fault Refusal :=
  onDev fun d => match d.startable q opc with
    | some e => f d e
    | none => d

/-- NOP_DESCRIPTOR. -/
def execNopDescriptor (q : QueueId) : State → Host.Outcome State Fault Refusal := onDesc q 0 fun d e => d.finish q e 0 0 0

/-! ## Transfers (R394, R403 to R406) -/

/-- Count a descriptor that ends with status 0x07 (R414). -/
def Dev.convError (d : Dev) (q : Nat) (e : QDesc) (result detail : Nat) : Dev :=
  (d.addSat offCVSTAT 15 0 1).finish q e 7 result detail

/-- DETAIL of a failure of the profile itself (R405, R413). -/
def detailProfile : Nat := 2 ^ 6
/-- DETAIL of a partial record (R406). -/
def detailPartial : Nat := 6 * 2 ^ 6

/-- Whole records of a transfer: to be converted, and those that the source holds (R406). -/
def cvRecords (p : CvProf) (e : QDesc) (out : Bool) : Nat × Nat :=
  let h := e.len / p.hrec
  let c := e.devlen / p.crec
  (Nat.min h c, if out then c else h)

/-- How a transfer by profile ends after its whole records: status, RESULT and DETAIL (R406). -/
def cvEnd (p : CvProf) (e : QDesc) (out : Bool) : Nat × Nat × Nat :=
  let (n, src) := cvRecords p e out
  let used := n * if out then p.crec else p.hrec
  if n < src ∨ e.devlen < p.crec then (6, used, 0)
  else if (if out then e.devlen % p.crec else e.len % p.hrec) ≠ 0 then (7, used, detailPartial)
  else (0, 0, 0)

/-- End a descriptor's transfer with a status. A batch POST that ends with 0 or 6 waits for its delivery (R400). -/
def Dev.endTransfer (d : Dev) (q : Nat) (e : QDesc) (status result detail : Nat) : Dev :=
  if e.opc = 3 ∧ (status = 0 ∨ status = 6) then
    d.setDesc q { e with st := .ready, data := [], ext := [], status := BitVec.ofNat 8 status, result := result }
  else if status = 7 then d.convError q e result detail else d.finish q e status result detail

/-- Host bytes that an input transfer reads. -/
def Dev.inBytes (d : Dev) (e : QDesc) : Nat :=
  if e.conv = 0 then Nat.min e.len e.devlen
  else
    let p := d.profile e.conv
    (cvRecords p e false).1 * p.hrec

/-- Start an input transfer (WRITE, batch POST): the profile's checks, then the host read. -/
def Dev.startIn (d : Dev) (q : Nat) (e : QDesc) : Dev :=
  if e.conv ≠ 0 && !(d.profile e.conv).ok false then d.convError q e 0 detailProfile
  else if e.len = 0 ∨ e.devlen = 0 then d.endTransfer q e 0 0 0
  else
    let n := d.inBytes e
    if n = 0 then
      let (s, r, x) := cvEnd (d.profile e.conv) e false
      d.endTransfer q e s r x
    else if d.fnReady (queueFn q) || d.silentQueues then (d.setDesc q { e with st := .dma }).send (.hostRead e.addr n)
    else d

/-- WRITE_DESCRIPTOR. -/
def execWriteDescriptor (q : QueueId) : State → Host.Outcome State Fault Refusal := onDesc q 1 fun d e => d.startIn q e

/-- READ_DESCRIPTOR: the profile's checks; conversion then reads the cells. -/
def execReadDescriptor (q : QueueId) : State → Host.Outcome State Fault Refusal :=
  onDesc q 2 fun d e =>
    if e.conv ≠ 0 && !(d.profile e.conv).ok true then d.convError q e 0 detailProfile
    else if e.len = 0 ∨ e.devlen = 0 then d.finish q e 0 0 0
    else d.setDesc q { e with st := .converting }

/-- A descriptor that waits for the host: the first of the queue. -/
def Dev.inDma (d : Dev) (q : Nat) : Option QDesc := (d.queue q).descs.find? fun e => e.st == .dma

/-- HOST_DMA_COMPLETE: the host read of the first waiting transfer has ended with its bytes, or its host write has; a failure has
status 0x04 and keeps what was transferred before it (R394). -/
def execHostDmaComplete (q : QueueId) (bytes : List Byte) (ok : Bool) : State → Host.Outcome State Fault Refusal :=
  onDev fun d => match d.inDma q with
    | none => d
    | some e =>
      if e.opc = 2 then
        if ok then d.endTransfer q e e.status.toNat e.result e.detail else d.finish q e 4 bytes.length 0
      else
        let n := d.inBytes e
        let got := bytes.take n
        d.setDesc q { e with st := .converting, data := got, status := if ok && decide (got.length = n) then 0 else 4,
                             result := got.length }

/-- A descriptor's journaled write has been numbered: its completion waits for that record's acceptance (R393). -/
def noteJournal (q : Nat) (e : QDesc) (jr : Bool) : M Unit :=
  modify fun d => if jr then d.updQueue q fun x => { x with journaled := x.journaled.put e.index (d.rd offSNSEQ - 1) } else d

/-- Put converted cells at their offsets: what could be reached is written, and a failing cell ends the transfer (R393). -/
def putCells (q : Nat) (e : QDesc) (cs : List CvCell) (base : Nat) : M (Option (Nat × Exc)) := do
  let (ps, bad) ← authMany q .write e.ent 0 (cs.map fun c => e.off + base + c.off)
  let d ← get
  let (jr, tag) := (d.queue q).journal e.ent
  let run := (ps.zip cs).map fun x => (x.1, x.2.onto (d.cell x.1))
  authWrite jr tag (fun p => (ps.zip cs).any fun x => x.1 == p && !x.2.full && x.2.mark.isNone) (runsBy 4096 run)
  noteJournal q e jr
  return bad.map fun x => (base + (cs.getD x.1 { off := 0, val := 0, full := false, mark := none }).off, x.2)

/-- Insert a cell by offset. -/
def insertCell (x : CvCell) : List CvCell → List CvCell
  | [] => [x]
  | a :: t => if x.off < a.off then x :: a :: t else a :: insertCell x t

/-- Cells in ascending order of offset. -/
def sortCells (l : List CvCell) : List CvCell := l.foldl (fun s x => insertCell x s) []

/-- Convert input under profile 0: every byte that has come (R390, R394). -/
def convIn0 (q : Nat) (e : QDesc) : M Unit := do
  let cs := (e.data.zip (upto e.data.length)).map fun x => ({ off := x.2, val := x.1.toNat, full := false, mark := none } : CvCell)
  match ← putCells q e cs 0 with
  | some (j, x) => modify fun d => d.finish q e 3 j (operandDetail x e.ent)
  | none =>
    if e.status ≠ 0 then modify fun d => d.finish q e e.status.toNat e.result 0
    else if e.devlen < e.len then modify fun d => d.endTransfer q e 6 e.devlen 0
    else modify fun d => d.endTransfer q e 0 0 0

/-- Convert the next input record (R404, R406, R413). -/
def convInRec (q : Nat) (e : QDesc) : M Unit := do
  let d ← get
  let p := d.profile e.conv
  let r := e.recNo
  if !p.ok false then set (d.convError q e (r * p.hrec) detailProfile)
  else if r < (cvRecords p e false).1 ∧ (r + 1) * p.hrec ≤ e.data.length then
    match cvRecordIn d p ((e.data.drop (r * p.hrec)).take p.hrec) 0 p.fields with
    | .error (k, x) => set (d.convError q e (r * p.hrec) (cvDetail k x))
    | .ok cs =>
      match ← putCells q e (sortCells cs) (r * p.crec) with
      | some (j, x) => modify fun d => d.finish q e 3 j (operandDetail x e.ent)
      | none => modify fun d => (d.setDesc q { e with recNo := r + 1 }).setFld offCVSTAT 63 32 ((d.fld offCVSTAT 63 32 + 1) % 2 ^ 32)
  else if e.status ≠ 0 then set (d.finish q e e.status.toNat e.result 0)
  else
    let (s, n, x) := cvEnd p e false
    set (d.endTransfer q e s n x)

/-- Send what a READ has converted, to end with a status once the host has it; with no bytes it ends at once. -/
def Dev.endOut (d : Dev) (q : Nat) (e : QDesc) (status result detail : Nat) : Dev :=
  if e.data.isEmpty then d.endTransfer q e status result detail
  else if d.silentQueues then d.endTransfer q e status result detail
  else if d.fnReady (queueFn q) then
    (d.setDesc q { e with st := .dma, status := BitVec.ofNat 8 status, result := result, detail := detail, ext := [] }).send
      (.hostWrite e.addr e.data)
  else d

/-- What ends a READ at a cell that cannot be read: poison (status 0x08) or an operand fault at device cell `j` (R393, R394). -/
def Dev.readStop (d : Dev) (q : Nat) (e : QDesc) (j : Nat) (x : Exc) : Dev :=
  if x.vec = 41 then d.endOut q e 8 0 0 else d.endOut q e 3 j (operandDetail x e.ent)

/-- Convert output under profile 0 (R390, R394). -/
def convOut0 (q : Nat) (e : QDesc) : M Unit := do
  let n := Nat.min e.len e.devlen
  let (ps, bad) ← authMany q .read e.ent 0 (fromN e.off n)
  let (cs, lost) ← authRead q e ps
  let e := { e with data := cs.map cellByte, ext := [] }
  match lost.map (fun x => (0, x)) <|> bad with
  | some (j, x) => modify fun d => d.readStop q e j x
  | none => modify fun d => if e.len < e.devlen then d.endOut q e 6 e.len 0 else d.endOut q e 0 0 0

/-- Offsets of a cell record that its fields read, ascending. -/
def recordCells (p : CvProf) : List Nat := (upto p.crec).filter fun k => p.fields.any fun f => decide (f.coff ≤ k) && decide (k < f.coff + f.clen)

/-- Convert the next output record: cell checks and poison come first (R413). -/
def convOutRec (q : Nat) (e : QDesc) : M Unit := do
  let d ← get
  let p := d.profile e.conv
  let r := e.recNo
  if !p.ok true then set (d.endOut q e 7 (r * p.crec) detailProfile)
  else if r < (cvRecords p e true).1 then
    let ks := recordCells p
    let (ps, bad) ← authMany q .read e.ent 0 (ks.map fun k => e.off + r * p.crec + k)
    match bad with
    | some (j, x) => modify fun d => d.readStop q e (r * p.crec + ks.getD j 0) x
    | none =>
      let (cs, lost) ← authRead q e ps
      let m := ks.zip cs
      let d ← get
      match lost with
      | some x => set (d.readStop q e (r * p.crec) x)
      | none =>
      match cvRecordOut d p (fun k => AMap.getD' m k 0) 0 p.fields (List.replicate p.hrec 0) with
      | .error (k, x) => set (d.endOut q e 7 (r * p.crec) (cvDetail k x))
      | .ok bs => set ((d.setDesc q { e with recNo := r + 1, data := e.data ++ bs, ext := [] }).setFld offCVSTAT 63 32
          ((d.fld offCVSTAT 63 32 + 1) % 2 ^ 32))
  else
    let (s, n, x) := cvEnd p e true
    set (d.endOut q e s n x)

/-- CONVERSION_RECORD: the conversion engine takes its next step on the queue's first descriptor in conversion. -/
def execConversionRecord (q : QueueId) : State → Host.Outcome State Fault Refusal :=
  onDev fun d =>
    match (d.queue q).descs.find? fun e => e.st == .converting with
    | none => d
    | some e =>
      if !d.active then d
      else d.act (if e.opc = 2 then (if e.conv = 0 then convOut0 q e else convOutRec q e)
                  else if e.conv = 0 then convIn0 q e else convInRec q e)

/-! ## Delivery (R392, R396) -/

/-- The cells of an image slot (R396). -/
def imageCells (e : QDesc) : List Cell :=
  (upto 128).map fun k =>
    let mark := decide (32 ≤ k) && k % 8 == 0 && decide ((k - 32) / 8 < 2 * e.cnt)
    BitVec.ofNat 9 (flagNat mark * 256 + (e.bytes.getD k 0).toNat)

/-- Eight packed bytes are a valid P16 value (R392, R32). -/
def packedOk (bs : List Byte) : Bool := (packedVal (bs.map fun b => BitVec.ofNat 9 b.toNat)).isSome

/-- The first inline posting whose key or amount is invalid (R392). -/
def badInline (e : QDesc) : Option Nat :=
  (upto e.cnt).find? fun m => !(packedOk ((e.bytes.drop (32 + 16 * m)).take 8) && packedOk ((e.bytes.drop (40 + 16 * m)).take 8))

/-- Whether delivery is open to a descriptor: ring order among POST and MSG, no HELD state, and in lock mode only the closing batch
after a marker (R396, R432, R434). -/
def Dev.mayDeliver (d : Dev) (q : Nat) (e : QDesc) : Bool :=
  let before := (d.queue q).descs.takeWhile fun f => f.index != e.index
  (before.all fun f => !(f.opc == 3 || f.opc == 4) || f.st == .delivered || f.st == .done) && d.pair != 5 &&
  (!d.sn.closing || match e.batch with | some b => decide (b ≤ d.sn.batch) | none => true)

/-- Write the image slot of a descriptor: the failing cell, when it cannot be written. -/
def putImage (q : Nat) (e : QDesc) : M (Option (Nat × Exc)) := do
  let d ← get
  let (ps, bad) ← authMany q .write 0 0 (fromN (d.fld (offQIMG q) 35 0 + 128 * e.index) 128)
  let (jr, tag) := (d.queue q).journal 0
  authWrite jr tag (fun _ => false) (runsBy 4096 (ps.zip (imageCells e)))
  noteJournal q e jr
  return bad

/-- Deliver a descriptor (R396). -/
def deliverDesc (q : Nat) (e : QDesc) : M Unit := do
  let d ← get
  match (if e.inline' then badInline e else none), d.bound q with
  | some m, _ => set (d.finish q e 5 m 0)
  | none, none => set (d.finish q e 9 0 0)
  | none, some _ =>
    match ← putImage q e with
    | some (j, x) => modify fun d => d.finish q e 3 j (operandDetail x 0)
    | none => modify fun d =>
        ((d.setDesc q { e with st := .delivered }).setFld (offQSTAT q) 31 16 ((e.index + 1) % d.sqSize q)).ringSlot q

/-- POST_DESCRIPTOR: the first POST that can go on: a converted batch or an inline POST is delivered in its turn, a fetched batch
starts its transfer. -/
def execPostDescriptor (q : QueueId) : State → Host.Outcome State Fault Refusal :=
  onDev fun d =>
    let x := d.queue q
    match x.descs.find? fun e => e.opc == 3 &&
        ((e.st == .ready && d.mayDeliver q e) || (e.st == .fetched && x.mayStart e && (!e.inline' || d.mayDeliver q e))) with
    | none => d
    | some e =>
      if !d.active then d
      else if e.st == .fetched && !e.inline' then d.startIn q e
      else d.act (deliverDesc q e)

/-- MSG_DESCRIPTOR. -/
def execMsgDescriptor (q : QueueId) : State → Host.Outcome State Fault Refusal :=
  onDesc q 4 fun d e => if d.mayDeliver q e then d.act (deliverDesc q e) else d

/-! ## STREAM (R262, R398) -/

/-- Start the program of a STREAM descriptor: as SGO with CMD 0 from the bound slot, under the authority (R262). -/
def startStream (q : Nat) (e : QDesc) (c s : Nat) : M Unit := do
  let (ps, bad) ← authMany q .rmw e.ent 0 (fromN e.off 64)
  match bad with
  | some (j, x) => modify fun d => if x.vec = 41 then d.finish q e 8 0 0 else d.finish q e 3 j (operandDetail x e.ent)
  | none =>
    let (cs, lost) ← authRead q e ps
    if lost.isSome then
      modify fun d => d.finish q e 8 0 0
      return ()
    let d ← get
    let x := d.queue q
    let w := queueFn q
    let seg := (x.segs.getD' e.ent {}).desc
    let (jr, tag) := x.journal e.ent
    if jr && !d.journalReady then waitM
    let i := c / 8
    let lin := ((match seg with | some s => s.base.toNat | none => 0) + e.off) % 2 ^ 48
    let w0 := cellsNat (cs.take 4)
    let g : GeyCtx := {
      world := w, scbLin := lin, scbKey := (match seg with | some s => s.key | none => 0), scbJr := jr, scbTag := tag,
      pseg := bitsOf w0 32 30, segs := x.segs, pkr := x.pkr, sup := true, croot := BitVec.ofNat 64 (d.rd (offRoot1 w true)),
      droot := BitVec.ofNat 64 (d.rd (offRoot1 w false)),
      slot := s, core := c, st := 1, w := [(1, cellsWord ((cs.drop 4).take 4))], det := (d.core c).det, queue := some (q, e.index) }
    let (d, r) := d.sgo i 0 g
    set d
    let out := natCells 4 (sgoWord0 w0 r.st s c w i) ++ (cs.drop 4).take 4 ++
      (if r.clear then List.replicate 56 0 else (cs.drop 8).take 8 ++ natCells 4 (r.w4.getD 0) ++ cs.drop 20)
    authWrite jr tag (fun _ => false) (runsBy 4096 (ps.zip out))
    if r.st = 8 then modify fun d => d.finish q e 0x0A 0 ((r.w4.getD 0) / 2 ^ 24 % 16)
    else modify fun d => d.setDesc q { e with st := .streaming, ext := [] }

/-- STREAM_DESCRIPTOR. -/
def execStreamDescriptor (q : QueueId) : State → Host.Outcome State Fault Refusal :=
  onDesc q 5 fun d e => match d.bound q with
    | none => d.finish q e 9 0 0
    | some (c, s) => d.act (startStream q e c s)

/-! ## QDONE (R397) -/

/-- A write of QDONE. -/
def Dev.qdoneWrite (d : Dev) (q w off : Nat) : Dev :=
  let idx := bitsOf w 15 0
  let x := d.queue q
  match x.descs.find? fun e => e.index == idx && e.st == .delivered with
  | some e =>
    let st := bitsOf w 23 16
    let st := if 1 ≤ st ∧ st < 0x80 then 0x0E else st
    let (st, res) := if st = 0 ∧ e.status = 6 then (6, e.result) else (st, 0)
    d.finish q e st res (bitsOf w 63 48) (bitsOf w 47 24) (d.bound q)
  | none =>
    if x.ghosts.contains idx then d.updQueue q fun x => { x with ghosts := x.ghosts.erase idx }
    else (d.logEvent 0x14 0 0 2 off w).setBit (offQSTAT q) 1 true

/-! ## Completions (R397, R399 to R402, R428, R432) -/

/-- Whether asynchronous completions are held: the oldest unacknowledged record is older than LAG (R428). -/
def Dev.lagging (d : Dev) : Bool :=
  match d.sn.unacked.head? with
  | some (_, t) => decide (d.fld offSNCFG 47 40 * 1000 < d.now - t)
  | none => false

/-- The bytes of a completion entry (R399). -/
def Comp.bytes (c : Comp) (head : Nat) (phase : Bool) : List Byte :=
  let tag := if c.gen = 0 then c.tag.toNat % 2 ^ 16 else c.tag.toNat
  let front := natBytes 4 tag ++ natBytes 2 head ++ [c.status, 0]
  if c.gen = 2 then
    front ++ natBytes 8 c.result.toNat ++ natBytes 3 c.pstat.toNat ++ [0] ++ natBytes 2 c.detail.toNat ++ List.replicate 9 0 ++
      natBytes 1 (flagNat phase)
  else front ++ natBytes 4 c.result.toNat ++ natBytes 2 c.detail.toNat ++ [0] ++ natBytes 1 (flagNat phase)

/-- The QUEUE record of a completion entry (R424): state after the entry. -/
def queueRecord (d : Dev) (q : Nat) (entry : List Byte) (cqw : Nat) (phase : Bool) (seq : Nat) : Record :=
  let cs := entry.map fun b => BitVec.ofNat 9 b.toNat
  { kind := 4, seq := BitVec.ofNat 64 seq, epoch := BitVec.ofNat 32 d.epoch, src := 270,
    body := [BitVec.ofNat 36 q, BitVec.ofNat 36 (d.sqHead q * 2 ^ 16 + d.dlv q), BitVec.ofNat 36 (flagNat phase * 2 ^ 16 + cqw)] ++
      cellsWords (cs ++ List.replicate (32 - cs.length) 0) }

/-- The waits of a completion that concern the pair, once its record is numbered (R397, R428, R432). -/
def Dev.pairWaits (d : Dev) (q : Nat) (c : Comp) : Bool :=
  let twin := (d.mode == 1 || d.mode == 3) && d.pair == 2
  (twin && (if d.bit (offQCFG q) 61 then d.lagging else decide (d.rd offSNACK < c.seq))) ||
  (d.lockMode && match c.batch with | some b => decide (d.sn.matched ≤ b) | none => false)

/-- Make a completion's entry, with its QUEUE record where records are produced and a ring is present. -/
def Dev.makeEntry (d : Dev) (q : Nat) (c : Comp) : Dev × Comp :=
  let x := d.queue q
  let entry := c.bytes (d.sqHead q) x.phase
  let w := (x.cqw + 1) % d.cqSize q
  let ph := if w = 0 then !x.phase else x.phase
  let seq := d.rd offSNSEQ
  if d.isStandby || !d.bit offSNJRNL 63 then (d, { c with entry := some entry })
  else (d.numberRecord (queueRecord d q entry w ph), { c with entry := some entry, seq := seq })

/-- Count a written completion for the function's messages (R402). -/
def Dev.coalesce (d : Dev) (q : Nat) (now : Bool) : Dev :=
  if !d.bit (offQCFG q) 60 || !(d.fn (queueFn q)).msixEnable then d
  else
    let x := d.queue q
    let n := x.owed + 1
    if now || decide (Nat.max (d.fld (offQCFG q) 39 32) 1 ≤ n) then
      (d.setQueue q { x with owed := 0 }).msix (queueFn q) (d.fld (offQCFG q) 20 12)
    else d.setQueue q { x with owed := n, owedAt := if x.owed = 0 then d.now else x.owedAt }

/-- Write the oldest completion, its waits over: the entry, the ring's index and phase, the freed image slot, the message. -/
def Dev.putComp (d : Dev) (q : Nat) (c : Comp) (entry : List Byte) : Dev :=
  let x := d.queue q
  let w := (x.cqw + 1) % d.cqSize q
  let a := d.fld (offQCQB q) 63 12 * 4096 + entry.length * x.cqw
  let d := d.setQueue q { x with cqw := w, phase := if w = 0 then !x.phase else x.phase, comps := x.comps.drop 1,
                                 descs := x.descs.filter fun e => e.index != c.index }
  if d.silentQueues then d else (d.send (.hostWrite a entry)).coalesce q c.now

/-- The oldest completion of queue `q` goes on (R397): its slot's postings, room in the ring, then its record and the pair's waits. -/
def Dev.completionWrite (d : Dev) (q : Nat) : Dev :=
  let x := d.queue q
  match x.comps with
  | [] => d
  | c :: t =>
    let posts := match c.slot with | some (k, s) => ((d.core k).slot s).posts | none => 0
    let full := (x.cqw + 1) % d.cqSize q == x.cqh
    if !d.active || d.pair == 5 || d.pair == 6 || posts != 0 || full || !d.accepted c.jseq || !(d.silentQueues || d.fnReady (queueFn q)) then d
    else
      let (d, c) := match c.entry with
        | some _ => (d, c)
        | none =>
          let (d, c) := d.makeEntry q c
          (d.updQueue q fun x => { x with comps := c :: t }, c)
      if d.pairWaits q c then d else d.putComp q c (c.entry.getD [])

/-- COMPLETION_WRITE. -/
def execCompletionWrite (q : QueueId) : State → Host.Outcome State Fault Refusal := onDev fun d => d.completionWrite q

/-- COALESCE_TIMEOUT: ITIME has passed since the first completion not yet signalled (R402). -/
def execCoalesceTimeout (q : QueueId) : State → Host.Outcome State Fault Refusal :=
  onDev fun d =>
    let x := d.queue q
    if 0 < x.owed ∧ x.owedAt + 1000 * d.fld (offQCFG q) 31 24 ≤ d.now then
      (d.setQueue q { x with owed := 0 }).msix (queueFn q) (d.fld (offQCFG q) 20 12)
    else d

/-! ## Function-level reset and link (R385, R375) -/

/-- An immediate reset of queue `q` by its function's reset: nothing completes; QDONEs of what was delivered are discarded (R385). -/
def Dev.queueFlr (d : Dev) (q : Nat) : Dev :=
  let x := d.queue q
  let gone := (x.descs.filter fun e => e.st == .delivered).map (·.index)
  let d := (upto 8).foldl (fun d r => d.wr (offQ q r) (regReset (offQ q r))) d
  d.setQueue q { ghosts := x.ghosts ++ gone }

/-- Queues of a function. -/
def queuesOf (f : Bool) : List Nat := if f then fromN 256 16 else upto 256

/-- Withdraw the request of source `n` from the distributor's paths and from every core that has not accepted it (R222). -/
def Dev.withdraw (d : Dev) (n : Nat) : Dev :=
  { d with irqNet := d.irqNet.filter (·.2.source != n)
           cores := d.cores.map fun k => (k.1, { k.2 with reqs := k.2.reqs.filter (·.source != n) }) }

/-- ISRC fields after a reset of PF0: PEND and EN of its sources fall, where WORLD is 0 (R221), and their requests are withdrawn. -/
def Dev.isrcFlr (d : Dev) : Dev :=
  (upto 1024).foldl (fun d n =>
    let v := d.rd (offISRC n)
    if !bitOf v 60 && (bitOf v 63 || bitOf v 61) then (d.wr (offISRC n) (setBits (setBits v 63 63 0) 61 61 0)).withdraw n else d) d

/-- FUNCTION_LEVEL_RESET (R493). -/
def execFunctionLevelReset (fn : Bool) : State → Host.Outcome State Fault Refusal :=
  onDev fun d =>
    let d := (queuesOf fn).foldl Dev.queueFlr d
    let d := d.setFn fn {}
    if fn then d else ((d.wr offCWBASE 0).wr offCWSTAT 0).isrcFlr

/-- LINK_RETRAIN (R375): the link goes on at the new rate and width. -/
def execLinkRetrain (rate : LinkRate) (width : LinkWidth) : State → Host.Outcome State Fault Refusal :=
  onDev fun d => if d.board.linkUp then { d with board := { d.board with rate := rate, width := width } } else d

end Sys2Proof.Machine
end

