-- ==== Sys2Proof/Machine/Sinter.lean ====
section
/-!
DEFINITION. Sinter (chapter 16): the journal ring and the twin link (R418 to R426), application of records on a standby and
acknowledgement (R427, R435, R467), commit and lag (R428), lock mode (R431 to R434), time between twins (R436, R437), failover and
joining (R438 to R445).
-/

namespace Sys2Proof.Machine

/-- HEAT source of Sinter's writes (R355). -/
def sinterSrc : Nat := 13
/-- Sinter's subsystem number (R17), the UIDX of its reports. -/
def sinterSub : Nat := 13

/-- SNCMD ignored (R451). -/
def Dev.cmdIgnored (d : Dev) (w : Nat) : Dev := d.logIgnored offSNCMD w

/-- ROLE is standby. -/
def Dev.roleStandby (d : Dev) : Bool := d.bit offSNCFG 2

/-- Change Sinter's own state. -/
def Dev.updSn (d : Dev) (f : Sinter → Sinter) : Dev := { d with sn := f d.sn }

/-- Enter a pair state. A device that stops being a standby numbers its records after its last applied one; one that becomes a standby
has its last record as the last applied (R421, R451). -/
def Dev.setPair (d : Dev) (st : Nat) : Dev :=
  let was := d.isStandby
  let d := d.setFld offSNSTAT 31 28 st
  let n := d.rd offSNSEQ - 1
  if was && !d.isStandby then d.wr offSNSEQ (d.sn.applied + 1)
  else if !was && d.isStandby then (d.wr offSNSEQ n).updSn fun s => { s with applied := n, ackedAt := n }
  else d

/-- Entering lock mode forces DET to 1 on every core, with the actions of a write that changes it (R252, R431). -/
def Dev.enterLock (d : Dev) : Dev :=
  if d.lockMode then { d with cores := d.cores.map fun k => if k.2.started then (k.1, { k.2 with detWait := true }) else k } else d

/-- The pair is PAIRED (R444): in lock mode batches count from here (R432), source 264. -/
def Dev.enterPaired (d : Dev) : Dev :=
  let d := (d.setPair 2).enterLock
  (d.updSn fun s => { s with batch := 0, matched := 0, matchedTo := d.rd offSNSEQ - 1, closed := [], ends := [], peerDigests := [],
                             digest := 0, batchCount := 0, batchAt := d.now, closing := false }).raise 264

/-- Increment the epoch, with its EPOCH record numbered in the epoch before (R424, R426). -/
def Dev.bumpEpoch (d : Dev) (reason : Nat) : Dev :=
  let old := d.epoch
  let new := (old + 1) % 2 ^ 32
  let d := d.numberRecord fun s =>
    { kind := 5, seq := BitVec.ofNat 64 s, epoch := BitVec.ofNat 32 old, src := 271,
      body := [BitVec.ofNat 36 new, BitVec.ofNat 36 reason] ++ List.replicate 9 0 }
  d.setFld offSNSTAT 63 32 new

/-- Whether epoch `a` is later than `b`, modulo 2³² (R426). -/
def laterEpoch (a b : Nat) : Bool := let x := (a + 2 ^ 32 - b) % 2 ^ 32; decide (0 < x) && decide (x < 2 ^ 31)

/-! ## The journal ring (R422, R425) -/

/-- Records that the ring holds. -/
def Dev.ringSize (d : Dev) : Nat := 2 ^ (d.fld offSNJRNL 36 32 + 1)

/-- Put a record at its place in the ring. -/
def Dev.ringPut (d : Dev) (r : Record) : Dev :=
  let n := r.seq.toNat
  let a := d.fld offSNJRNL 31 0 * 4096 + n / 2 % (d.ringSize / 2) * 128 + n % 2 * 64
  let d := d.unitWrite 4 (d.physN a 64) (recCells r) sinterSrc
  d.updSn fun s => { s with young := (s.young.filter fun y => y.1 != n) ++ [(n, d.now)] }

/-- Most records that a standby holds received and not applied (R419). -/
def twinCredit : Nat := 32768

/-- Whether the records of unmatched batches are kept: lock mode, and HELD (R425, R434). -/
def Dev.lockKeeps (d : Dev) : Bool := d.mode == 2 && (d.pair == 2 || d.pair == 5)

/-- Whether Sinter may write record `n` now: the ring is present, what it overwrites is acknowledged, matched, older than 1 ms and
drained, and the twin grants credit (R419, R425, R451). -/
def Dev.ringRoom (d : Dev) (n : Nat) : Bool :=
  let o := n - d.ringSize
  let fresh := d.sn.young.any fun y => y.1 == o && decide (d.now ≤ y.2 + 1000000)
  d.bit offSNJRNL 63 && (!d.sendsRecords || decide (n ≤ d.rd offSNACK + twinCredit)) &&
  (decide (n ≤ d.ringSize) ||
    (!fresh && (!d.sendsRecords || decide (o ≤ d.rd offSNACK)) && (!d.bit offSNCFG 3 || decide (o < d.rd offSNJDRN)) &&
     (!d.lockKeeps || decide (o ≤ d.sn.matchedTo))))

/-- Sinter accepts the next record in SEQ order: into the ring, and to the twin (R422). In lock mode the twin numbers its own records,
and only the epoch's change in a role change goes to it (R426, R445). -/
def Dev.acceptRecord (d : Dev) : Dev :=
  match d.sn.net with
  | [] => d
  | r :: t =>
    if !d.ringRoom r.seq.toNat then d
    else
      let d := (d.ringPut r).updSn fun s => { s with net := t }
      if d.sendsRecords then
        if d.mode == 3 then d.updSn fun s => { s with loop := s.loop ++ [r] } else d.send (.record r)
      else if d.lockMode && !d.roleStandby && r.kind == 5 then d.send (.record r)
      else d

/-- RECORD_HANDOVER. -/
def execRecordHandover : State → Host.Outcome State Fault Refusal := onDev fun d => if d.active then d.acceptRecord else d

/-- JOURNAL_RECORD_AGED (R425): records more than 1 ms old no longer hold their lines; one record that waited goes on. -/
def execJournalRecordAged : State → Host.Outcome State Fault Refusal :=
  onDev fun d =>
    let d := d.updSn fun s => { s with young := s.young.filter fun y => decide (d.now ≤ y.2 + 1000000) }
    if d.active then d.acceptRecord else d

/-! ## Application (R427, R435, R467) -/

/-- PADDR of a record. -/
def recAddr (r : Record) : Nat := (r.body.getD 0 0).toNat % 2 ^ 8 * 2 ^ 36 + (r.body.getD 1 0).toNat

/-- The cells that a POST or STORE record writes: places from its first cell, and values. -/
def recWrites (r : Record) : List (Nat × Cell) :=
  let a := recAddr r
  if r.kind = 1 then
    let n := match r.ty.toNat with | 0 => 8 | 1 => 16 | 2 => 4 | _ => 8
    ((wordsCells ((r.body.drop 7).take 4)).take n).zip (upto n) |>.map fun x => (a + x.2, x.1)
  else
    let mask := (r.body.getD 2 0).toNat
    ((wordsCells ((r.body.drop 3).take 4)).zip (upto 16)).filterMap fun x => if bitOf mask x.2 then some (a + x.2, x.1) else none

/-- The mirrored place of a local or bank address in self-twin mode (R435). -/
def mirrorOf (a : Nat) : Nat :=
  if a < 2 ^ 38 then setBits a 14 14 (1 - bitsOf a 14 14) else a + 6 * 2 ^ 21

/-- Write the cells of a POST or STORE record, with the line's metadata (R427): absolutely, and without any record. -/
def Dev.writeRecord (d : Dev) (r : Record) (place : Nat → Nat) : Dev :=
  let ws := (recWrites r).map fun x => (place x.1, x.2)
  let ps := ws.map fun x => d.phys x.1
  match ps with
  | [] => d
  | p :: _ =>
    let d := d.lineWrite ps (ws.map (·.2)) sinterSrc none
    let d := d.updInfo p fun i =>
      let i := { i with mirrorEpoch := r.epoch, jw := true }
      if r.kind = 1 then { i with postTag := BitVec.ofNat 16 r.seq.toNat, postSeqH := BitVec.ofNat 48 (r.seq.toNat / 2 ^ 16) } else i
    if p.isLocal || r.kind != 1 then d
    else d.updIsl (bankIsland p.addr) fun x => { x with tags := x.tags.put (p.addr / 128) r.seq }

/-- A bank write refused to Sinter (R321): logged, and source 262. -/
def Dev.sinterRefused (d : Dev) (a : Nat) : Dev := (d.logEvent 0x19 11 sinterSub 1 a 0).raise 262

/-- Apply a POST or STORE record on the standby; none while a bank's handover makes it wait. A poisoned line stays poisoned, and is
asked of the primary (R427). -/
def Dev.applyWrite (d : Dev) (r : Record) (place : Nat → Nat) : Option Dev :=
  let as := (recWrites r).map fun x => place x.1
  match as with
  | [] => some d
  | a :: _ =>
    match d.region a with
    | .bank _ =>
      if as.any fun x => d.ownCheck x 4 == .waits then none
      else if as.any fun x => d.ownCheck x 4 == .refused then some (d.sinterRefused a)
      else some (d.writeRecord r place)
    | _ =>
      if d.postQueued [d.phys a] then none
      else
        let d := d.writeRecord r place
        some (if d.poisoned (d.phys a) && d.mode != 3 then d.send (.lineRequest (a / 128)) else d)

/-- Update a shadow queue from a QUEUE record (R427, R424). -/
def Dev.applyQueue (d : Dev) (r : Record) : Dev :=
  let w (n : Nat) : Nat := (r.body.getD n 0).toNat
  let q := w 0 % 512
  let n := if d.qGen q = 2 then 32 else 16
  let entry := ((wordsCells ((r.body.drop 3).take 8)).take n).map cellByte
  d.updQueue q fun x => { x with shadow := some (bitsOf (w 1) 31 16, bitsOf (w 1) 15 0, bitsOf (w 2) 15 0, bitOf (w 2) 16, entry) }

/-- Apply one record on the standby (R427); none while it must wait. -/
def Dev.applyRecord (d : Dev) (r : Record) : Option Dev :=
  match r.kind.toNat with
  | 1 =>
    (d.applyWrite r id).map fun d =>
      if r.peer = 0 ∧ r.rnum = 0 then d else d.updSn fun s => { s with farRnum := s.farRnum.put r.peer.toNat r.rnum }
  | 2 => d.applyWrite r id
  | 3 =>
    let w (n : Nat) : Nat := (r.body.getD n 0).toNat
    d.standbyMove (w 0 % 2 ^ 32) (w 1 % 2 ^ 32) (w 2 % 4) (w 3)
  | 4 => some (d.applyQueue r)
  | 5 =>
    let d := (d.setFld offSNSTAT 63 32 (r.body.getD 0 0).toNat).updSn fun s => { s with applied := r.seq.toNat }
    some (if d.pair = 1 ∧ (r.body.getD 1 0).toNat % 8 = 0 then d.enterPaired else d)
  | _ => some d

/-- Acknowledge cumulatively (R427). -/
def Dev.ackTwin (d : Dev) : Dev :=
  (d.send (.twinAck d.sn.applied)).updSn fun s => { s with ackedAt := s.applied, ackTime := d.now }

/-- Record `r` is applied: it enters the standby's ring, and every 256th is acknowledged at once. -/
def Dev.applied (d : Dev) (r : Record) : Dev :=
  let n := r.seq.toNat
  let d := if d.bit offSNJRNL 63 then d.ringPut r else d
  let d := d.updSn fun s => { s with applied := n }
  let d := if d.isStandby then d.wr offSNSEQ n else d
  if d.sn.ackedAt + 256 ≤ n then d.ackTwin else d

/-- A record discarded (R426, R427). -/
def Dev.discardRecord (d : Dev) (r : Record) : Dev := (d.logEvent 0x1A 11 sinterSub 0 0 r.seq.toNat).raise 262

/-- Apply the received records that are next in SEQ order. -/
def Dev.applyReady (d : Dev) : Nat → Dev
  | 0 => d
  | n + 1 =>
    match d.sn.rx.find? fun r => r.seq.toNat == d.sn.applied + 1 with
    | none => d
    | some r =>
      let d' := d.updSn fun s => { s with rx := s.rx.erase r }
      if r.epoch.toNat ≠ d.epoch then d'.discardRecord r
      else match d'.applyRecord r with
        | some d' => (d'.applied r).applyReady n
        | none => d

/-- Whether this device applies its primary's records: a standby in JOINING, or in PAIRED in mirror mode (R427, R444). -/
def Dev.applies (d : Dev) : Bool := d.roleStandby && ((d.mode == 1 && (d.pair == 1 || d.pair == 2)) || (d.mode == 2 && d.pair == 1))

/-- Received records that had to wait are applied once they can be. -/
def Dev.applyWaiting (d : Dev) : Dev := if d.applies && !d.sn.rx.isEmpty then d.applyReady (d.sn.rx.length + 1) else d

/-- Whether a local or bank address lies outside the half that self-twin mode mirrors (R435). -/
def Dev.outsideHalf (d : Dev) (a : Nat) : Bool := if a < 2 ^ 38 then puOf a (d.polOf a) / 128 == 1 else decide (2 ^ 43 + 6 * 2 ^ 21 ≤ a)

/-- The same move on the mirrors of its frames in self-twin mode (R369, R435): their lines are carried over. -/
def Dev.mirrorMove (d : Dev) (r : Record) : Dev :=
  let frame (k : Nat) : Nat := mirrorOf ((r.body.getD k 0).toNat % 2 ^ 32 * 4096) / 4096
  if d.outsideHalf ((r.body.getD 0 0).toNat % 2 ^ 32 * 4096) then d
  else (upto 32).foldl (fun d l => d.copyLine (frame 0) (frame 1) l) d

/-- The next record of the self-twin loop is applied to the other half (R435). -/
def Dev.applyLoop (d : Dev) : Dev :=
  match d.sn.loop with
  | [] => d
  | r :: t =>
    let done (d : Dev) : Dev := d.updSn fun s => { s with loop := t, applied := r.seq.toNat }
    if r.kind = 1 ∨ r.kind = 2 then
      if d.outsideHalf (recAddr r) then done d
      else match d.applyWrite r mirrorOf with
        | some d => done d
        | none => d
    else done (if r.kind = 3 then d.mirrorMove r else d)

/-- The EPOCH record of a planned role change at the standby of a lock pair: it adopts the new epoch, and numbers the record as its own,
so that both devices' digests count it (R426, R433, R445). -/
def Dev.adoptEpoch (d : Dev) (r : Record) : Dev :=
  if r.epoch.toNat ≠ d.epoch then d.discardRecord r
  else (d.numberRecord fun s => { r with seq := BitVec.ofNat 64 s }).setFld offSNSTAT 63 32 (r.body.getD 0 0).toNat

/-- RECORD_APPLY: a record arrives at a standby, which applies what is next in SEQ order; in self-twin mode the loop's next record is
applied (R427, R435). -/
def execRecordApply (r : Record) : State → Host.Outcome State Fault Refusal :=
  onDev fun d =>
    if !d.active then d
    else if d.mode == 3 then d.applyLoop
    else if d.lockMode && d.roleStandby && r.kind == 5 then d.adoptEpoch r
    else if !d.applies then d.discardRecord r
    else if r.seq.toNat ≤ d.sn.applied || d.sn.rx.any (·.seq == r.seq) then d.applyReady (d.sn.rx.length + 1)
    else (d.updSn fun s => { s with rx := s.rx ++ [r] }).applyReady (d.sn.rx.length + 1)

/-- ACK_TIMER: *A* has advanced, and 1 µs has passed since the last acknowledgement (R427). -/
def execAckTimer : State → Host.Outcome State Fault Refusal :=
  onDev fun d => if (d.applies || d.mode == 3) && d.sn.ackedAt != d.sn.applied && decide (d.sn.ackTime + 1000 ≤ d.now) then d.ackTwin else d

/-! ## Queues that go live (R441) -/

/-- A shadow queue goes live from its last applied QUEUE record; the bound slot gets the doorbell event when delivered descriptors
may not have completed. -/
def Dev.queueLive (d : Dev) (q : Nat) : Dev :=
  match (d.queue q).shadow with
  | none => d
  | some (head, dlv, w, ph, _) =>
    let d := d.setFld (offQSTAT q) 63 48 head
    let d := (d.setFld (offQSTAT q) 47 32 head).setFld (offQSTAT q) 31 16 dlv
    let d := d.updQueue q fun x => { x with cqw := w, cqh := w, phase := ph, shadow := none }
    let n := Nat.min (d.sqSize q) (d.cqSize q)
    if dlv % n ≠ w % n then d.ringSlot q else d

/-- All shadow queues go live. -/
def Dev.queuesLive (d : Dev) : Dev := (upto 272).foldl Dev.queueLive d

/-! ## Failover (R439 to R443) -/

/-- Enter FENCED: LEDGER_OK goes low (R443). -/
def Dev.enterFenced (d : Dev) : Dev :=
  let d := d.setPair 6
  { d with board := { d.board with ledgerOk := false }, sn := { d.sn with sepEpoch := BitVec.ofNat 32 d.epoch, demote := false } }

/-- The banks that Sinter owns go to their saved owners by forced handovers (R440). -/
def Dev.banksBack (d : Dev) : Dev :=
  (upto 192).foldl (fun d k =>
    let i := k / 16
    let b := k % 16
    if d.fld (offBANKOWN i b) 2 0 = 4 then d.force i b ((d.isl i).saved.getD' b 0) else d) d

/-- The pool hears of a promotion, when this device belongs to one (R450). -/
def Dev.announce (d : Dev) : Dev := if d.bit offPLCFG 63 then d.send .announce else d

/-- Promotion once every received record is applied (R440): STATE ALONE as primary, the EPOCH record, banks, queues, source 256, and the
announcement to the pool (R450). -/
def Dev.takeOver (d : Dev) : Dev :=
  let d := d.setPair 3
  let d := ((d.setBit offSNCFG 2 false).bumpEpoch 1).updSn fun s => { s with rx := [], closing := false, promoting := false }
  (((d.banksBack).queuesLive).raise 256).announce

/-- Apply every record received, as far as none must wait: those of the link, or of the self-twin loop (R435, R440). -/
def Dev.applyReceived (d : Dev) : Dev :=
  if d.mode == 3 then (upto d.sn.loop.length).foldl (fun d _ => d.applyLoop) d else d.applyReady (d.sn.rx.length + 1)

/-- Whether a received record is still to be applied. -/
def Dev.receivedWaits (d : Dev) : Bool :=
  if d.mode == 3 then !d.sn.loop.isEmpty else d.sn.rx.any fun r => r.seq.toNat == d.sn.applied + 1

/-- A promotion that has been decided: every record received is applied first, and it goes on once none waits (R440). -/
def Dev.promoteStep (d : Dev) : Dev :=
  if !d.sn.promoting then d
  else if d.applyReceived.receivedWaits then d.applyReceived else d.applyReceived.takeOver

/-- Promotion (R440). -/
def Dev.promote (d : Dev) : Dev := (d.updSn fun s => { s with promoting := true }).promoteStep

/-- Whether heartbeats still arrive (R439). -/
def Dev.heartbeats (d : Dev) : Bool := d.bit offSNSTAT 27 && decide (d.now < d.sn.lastHb + 30000)

/-- Whether TWIN_ARB edges have been seen within 30 µs (R438, R439). -/
def Dev.edges (d : Dev) : Bool := d.bit offSNSTAT 25 && decide (d.now < d.sn.lastEdge + 30000)

/-- A declared link loss on a primary (R442). -/
def Dev.linkLost (d : Dev) : Dev :=
  (((d.bumpEpoch 2).setPair 3).updSn fun s => { s with unacked := [], demote := false }).raise 257

/-- HEARTBEAT_TIMEOUT: 30 µs without heartbeats (R439, R442, R443). -/
def execHeartbeatTimeout : State → Host.Outcome State Fault Refusal :=
  onDev fun d =>
    if !(d.pair == 1 || d.pair == 2) || d.mode == 3 || decide (d.now < d.sn.lastHb + 30000) then d
    else if d.roleStandby then
      if d.edges then (d.setPair 4 |>.updSn fun s => { s with sepEpoch := BitVec.ofNat 32 d.epoch }).raise 257
      else if d.pair = 2 then d.promote else d
    else if d.bit offSNSTAT 26 then (d.updSn fun s => { s with sepEpoch := BitVec.ofNat 32 d.epoch }).linkLost
    else d.enterFenced

/-- DYING_GASP_RECEIVE (R439). -/
def execDyingGaspReceive : State → Host.Outcome State Fault Refusal :=
  onDev fun d => if d.roleStandby && d.pair == 2 && d.mode != 3 then d.promote else d

/-- The standby of a DEMOTE takes the primary's role (R445 steps 3 to 5). -/
def Dev.takeRole (d : Dev) : Dev :=
  let seq := if d.mode == 1 then d.sn.applied + 1 else d.rd offSNSEQ
  let d := ((d.setBit offSNCFG 2 false).wr offSNSEQ seq).wr offSNACK (seq - 1)
  (((d.bumpEpoch 5).queuesLive).raise 256).announce

/-- TAKEOVER_FRAME_RECEIVE (R439, R445): a standby takes the role of a primary that demotes itself; a primary becomes a standby in
JOINING. -/
def execTakeoverFrameReceive (seq : BitVec 64) : State → Host.Outcome State Fault Refusal :=
  onDev fun d =>
    if d.mode == 3 || d.mode == 0 then d
    else if d.roleStandby then
      if d.pair == 2 && (d.mode == 2 || decide (seq.toNat ≤ d.sn.applied)) then d.takeRole else d
    else if [1, 2, 3].contains d.pair then
      let d := (d.setBit offSNCFG 2 true).setPair 1
      let d := d.updSn fun s => { s with applied := seq.toNat, ackedAt := seq.toNat, rx := [], demote := false, unacked := [],
                                         sepEpoch := BitVec.ofNat 32 d.epoch }
      (d.wr offSNSEQ seq.toNat).raise 256
    else d

/-! ## DEMOTE (R445) -/

/-- Whether every fetched descriptor has finished with its completion written, every posting is acknowledged, and the twin has every
record (R445 step 2). -/
def Dev.quiet (d : Dev) : Bool :=
  (d.queues.all fun q => q.2.descs.isEmpty && q.2.comps.isEmpty) && d.postNet.isEmpty && d.ackNet.isEmpty && d.sn.net.isEmpty &&
  (d.cores.all fun c => c.2.posts.isEmpty) && (d.pus.all fun p => p.2.queue.isEmpty && p.2.applied.isEmpty && p.2.cut.isEmpty) &&
  (d.islands.all fun i => i.2.atomics.isEmpty && i.2.atomDone.isEmpty && i.2.ctxs.all fun c => c.2.posts.isEmpty)

/-- Steps 2 and 3 of a DEMOTE in progress, once their conditions hold. -/
def Dev.demoteStep (d : Dev) : Dev :=
  let last := d.rd offSNSEQ - 1
  let ready := if d.mode == 2 then !d.sn.closing && d.sn.closed.isEmpty && decide (d.sn.matched = d.sn.batch)
               else d.quiet && decide (last ≤ d.rd offSNACK)
  if d.sn.demote && d.pair == 2 && ready then
    let d := (d.send (.takeover last)).setBit offSNCFG 2 true
    let d := d.updSn fun s => { s with demote := false, applied := last, ackedAt := last, unacked := [], rx := [] }
    (if d.mode == 1 then d.wr offSNSEQ last else d).raise 256
  else d

/-- TWIN_ACK_RECEIVE (R427). -/
def execTwinAckReceive (seq : BitVec 64) : State → Host.Outcome State Fault Refusal :=
  onDev fun d =>
    let n := if d.mode == 3 then Nat.min seq.toNat d.sn.applied else seq.toNat
    if d.sendsRecords && decide (d.rd offSNACK < n) && decide (n < d.rd offSNSEQ) then
      let d := (d.wr offSNACK n).updSn fun s => { s with unacked := s.unacked.filter fun u => decide (n < u.1) }
      (d.updSn fun s => { s with lagSeen := s.lagSeen && d.lagging }).demoteStep
    else d

/-- ASYNC_LAG_EXCEEDED (R428): source 261, once for each time the lag rises above LAG. -/
def execAsyncLagExceeded : State → Host.Outcome State Fault Refusal :=
  onDev fun d =>
    if d.sendsRecords && d.pair == 2 && d.lagging && !d.sn.lagSeen then (d.updSn fun s => { s with lagSeen := true }).raise 261 else d

/-! ## Heartbeats and TWIN_ARB (R438) -/

/-- HEARTBEAT_SEND: every 2 µs. -/
def execHeartbeatSend : State → Host.Outcome State Fault Refusal :=
  onDev fun d =>
    if d.active && d.bit offSNSTAT 27 && [1, 2, 3, 4, 5].contains d.pair && d.mode != 3 && decide (d.sn.hbAt + 2000 ≤ d.now) then
      let seq := if d.isStandby then d.rd offSNSEQ else d.rd offSNSEQ - 1
      (d.send (.heartbeat d.roleStandby (BitVec.ofNat 32 d.epoch) seq)).updSn fun s => { s with hbAt := d.now }
    else d

/-- A heartbeat's effect on the device: a primary that hears of a later primary is FENCED (R443). -/
def Dev.heartbeat (d : Dev) (standby : Bool) (epoch : Nat) : Dev :=
  let d := d.updSn fun s => { s with lastHb := d.now }
  if !d.roleStandby && !standby && laterEpoch epoch d.epoch && [1, 2, 3, 5].contains d.pair then d.enterFenced else d

/-- Steer the time base toward another's time (R436, R502): forward at once, back by absorption. -/
def Fumarole.steer (f : Fumarole) (t : Nat) : Fumarole :=
  if f.time ≤ t then { f with time := t, frac := 0, absorb := 0 } else { f with absorb := (f.time - t) * 2 ^ 32 }

/-- HEARTBEAT_RECEIVE (R438, R436). -/
def execHeartbeatReceive (standby : Bool) (epoch : BitVec 32) (_seq : BitVec 64) (time : Nat) (s : State) :
    Host.Outcome State Fault Refusal :=
  let d := { s.dev with now := s.fum.time }
  if d.bit offSNSTAT 27 && [1, 2, 3, 4, 5].contains d.pair then
    let follows := d.roleStandby && !standby && (d.pair == 1 || d.pair == 2)
    .next { s with dev := d.heartbeat standby epoch.toNat, fum := if follows then s.fum.steer time else s.fum }
  else .next { s with dev := d }

/-- TWIN_ARB_TOGGLE: the primary drives the line low and releases it, every 5 µs. -/
def execTwinArbToggle : State → Host.Outcome State Fault Refusal :=
  onDev fun d =>
    if d.active && !d.roleStandby && [1, 2, 3, 5].contains d.pair && d.mode != 3 && decide (d.sn.arbAt + 5000 ≤ d.now) then
      (d.send (.arb (!d.sn.arbLow))).updSn fun s => { s with arbLow := !s.arbLow, arbAt := d.now }
    else d

/-- TWIN_ARB_SAMPLE: 1 µs after a change, a level other than the one driven clears ARBOK and raises source 263. -/
def execTwinArbSample (level : Bool) : State → Host.Outcome State Fault Refusal :=
  onDev fun d =>
    if !d.roleStandby && [1, 2, 3, 5].contains d.pair && d.mode != 3 && decide (d.sn.arbAt + 1000 ≤ d.now) && level == d.sn.arbLow then
      (d.setBit offSNSTAT 26 false).raise 263
    else d

/-- TWIN_ARB_EDGE. -/
def execTwinArbEdge : State → Host.Outcome State Fault Refusal :=
  onDev fun d => if d.roleStandby then (d.setBit offSNSTAT 25 true).updSn fun s => { s with lastEdge := d.now } else d

/-- ARBSEEN_EXPIRY (R439, R451). -/
def execArbseenExpiry : State → Host.Outcome State Fault Refusal :=
  onDev fun d => if decide (d.sn.lastEdge + 30000 ≤ d.now) then d.setBit offSNSTAT 25 false else d

/-- TWIN_LINK_CHANGE: in reset the lanes are idle (R527), and with a fenced lane the link has 8 lanes (R418). -/
def execTwinLinkChange (up half : Bool) : State → Host.Outcome State Fault Refusal :=
  onDev fun d =>
    let up := up && !d.inReset
    let cut := d.hub.fenced.any fun u => match u with | .twinLane _ => true | _ => false
    let d := (d.setBit offSNSTAT 27 up).setBit offSNSTAT 24 (up && (half || cut))
    if up then d.updSn fun s => { s with lastHb := d.now } else d

/-! ## Commands (R434, R439, R444, R445, R451) -/

/-- Whether the device is primary of the pair that a JOIN forms, from a state and role (R444). -/
def joinsAsPrimary (state : Nat) (standby : Bool) : Bool := if state = 3 then true else if state = 4 ∨ state = 6 then false else !standby

/-- This device's journaled lines of local memory (R444), with the epochs of their last journaled writes. -/
def Dev.journaled (d : Dev) : List (BitVec 37 × BitVec 32) :=
  (d.info.filter fun x => decide (x.1 < 2 ^ 31) && x.2.jw).filterMap fun x =>
    (d.lineAt (x.1 % 256) (x.1 / 256)).map fun l => (BitVec.ofNat 37 l, x.2.mirrorEpoch)

/-- Lines that a joining device asks for (R444): the journaled lines of either device, those later than the separation on either when its
ring still holds that epoch, and every line of the banks that Sinter owns. -/
def Dev.joinNames (d : Dev) (t : TwinId) (limit : Bool) : List Nat :=
  let phys := (((d.journaled ++ t.lines).filter fun x => !limit || laterEpoch x.2.toNat d.sn.sepEpoch.toNat).map (·.1.toNat)).eraseDups
  let banks := (upto 12).flatMap fun i =>
    if (upto 16).any fun b => d.fld (offBANKOWN i b) 2 0 = 4 then (upto 16384).map fun l => 2 ^ 36 + i * 2 ^ 14 + l else []
  phys ++ banks

/-- Most line-copy requests outstanding (R444). -/
def copyRequests : Nat := 256

/-- Send line-copy requests while fewer than 256 are outstanding. -/
def Dev.askLines (d : Dev) : Nat → Dev
  | 0 => d
  | n + 1 =>
    match d.sn.joinLines with
    | [] => d
    | l :: t =>
      if copyRequests ≤ d.sn.joinOut then d
      else ((d.send (.lineRequest l)).updSn fun s => { s with joinLines := t, joinOut := s.joinOut + 1 }).askLines n

/-- Whether the ring still holds a record of the separation epoch (R444). -/
def Dev.ringHolds (d : Dev) (epoch : BitVec 32) : Bool :=
  d.bit offSNJRNL 63 && (upto d.ringSize).any fun k =>
    let a := d.fld offSNJRNL 31 0 * 4096 + k / 2 * 128 + k % 2 * 64
    d.physWord a != 0 && d.physWord (a + 56) == epoch.toNat

/-- JOIN with a twin's identity (R444). -/
def Dev.join (d : Dev) (t : TwinId) (w : Nat) : Dev :=
  let st := d.pair
  let mine := d.journaled
  let d := d.updSn fun s => { s with twin := some t }
  if !([0, 3, 4, 6].contains st) || d.mode = 0 then d.cmdIgnored w
  else if d.mode = 3 then ((d.setBit offSNSTAT 26 true).setPair 1).bumpEpoch 3
  else
    let me := joinsAsPrimary st d.roleStandby
    if me = joinsAsPrimary t.state.toNat t.standby ∨ t.mode.toNat ≠ d.mode then d.cmdIgnored w
    else
      let d := d.setBit offSNSTAT 26 true
      let d := { d with board := { d.board with ledgerOk := d.board.ledgerOk || st == 6 } }
      let d := d.updSn fun s => { s with lastHb := d.now, joinEnd := none, rx := [], unacked := [], demote := false }
      if me then
        let d := d.send (.identity (BitVec.ofNat 32 d.epoch) (d.rd offSNSEQ) mine)
        (d.setPair 1).bumpEpoch 3
      else
        let limit := (st == 4 || st == 6) && d.ringHolds d.sn.sepEpoch
        let names := d.joinNames t limit
        let n := t.nextSeq.toNat - 1
        let d := (d.setBit offSNCFG 2 true).setPair 1
        let d := (d.setFld offSNSTAT 63 32 t.epoch.toNat).wr offSNSEQ n
        let d := d.updSn fun s => { s with applied := n, ackedAt := n, joinLines := names, joinOut := 0 }
        (d.send (.identity t.epoch n mine)).askLines copyRequests

/-- Last record such that it and every one before it has been received. -/
def Dev.received (d : Dev) : Nat :=
  d.sn.rx.foldl (fun n _ => if d.sn.rx.any fun r => r.seq.toNat == n + 1 then n + 1 else n) d.sn.applied

/-- PROMOTE (R439). -/
def Dev.promoteCmd (d : Dev) (force : Bool) (w : Nat) : Dev :=
  if !d.roleStandby || d.mode == 3 then d.cmdIgnored w
  else if d.pair = 2 then
    if d.heartbeats then (d.send (.takeover d.received)).promote
    else if d.edges && !force then d.cmdIgnored w else d.promote
  else if d.pair = 4 then (if d.bit offSNSTAT 25 && !force then d.cmdIgnored w else d.promote)
  else d.cmdIgnored w

/-- Place a close marker, from which the records and the time to the next one count (R432). -/
def Dev.placeMarker (d : Dev) : Dev :=
  if d.sn.closing then d
  else (d.send (.marker d.sn.batch)).updSn fun s => { s with closing := true, batchCount := 0, batchAt := d.now }

/-- DEMOTE (R445 step 1). -/
def Dev.demoteCmd (d : Dev) (w : Nat) : Dev :=
  if d.roleStandby || d.pair != 2 || !(d.mode == 1 || d.mode == 2) then d.cmdIgnored w
  else
    let d := d.updSn fun s => { s with demote := true }
    (if d.mode == 2 then d.placeMarker else d).demoteStep

/-- RESOLVE-CONTINUE (R434). -/
def Dev.resolveContinue (d : Dev) (w : Nat) : Dev :=
  if d.pair ≠ 5 then d.cmdIgnored w
  else ((d.setPair 3).setBit offSNCFG 2 false).bumpEpoch 4 |>.updSn fun s => { s with closing := false, closed := [], ends := [], peerDigests := [] }

/-- RESOLVE-YIELD (R434). -/
def Dev.resolveYield (d : Dev) (w : Nat) : Dev :=
  if d.pair ≠ 5 then d.cmdIgnored w
  else (d.setPair 4).updSn fun s => { s with sepEpoch := BitVec.ofNat 32 d.epoch, closing := false, closed := [], ends := [], peerDigests := [] }

/-- LEAVE (R417, R443). -/
def Dev.leave (d : Dev) (w : Nat) : Dev :=
  let st := d.pair
  if !([2, 3, 4, 6].contains st) then d.cmdIgnored w
  else
    let d := (d.setPair 0).updSn fun s => { s with demote := false, closing := false, unacked := [], rx := [] }
    { d with board := { d.board with ledgerOk := d.board.ledgerOk || st == 6 } }

/-- A write of SNCMD (R451), with CMD and FORCE; JOIN by a plain write uses the last identity exchange. -/
def Dev.sncmd (d : Dev) (cmd : Nat) (force : Bool) (w : Nat) : Dev :=
  match cmd with
  | 1 => match d.sn.twin with
    | some t => d.join t w
    | none => if d.mode = 3 then d.join { standby := true, state := 0, mode := 3, epoch := 0, nextSeq := 1 } w else d.cmdIgnored w
  | 2 => d.promoteCmd force w
  | 3 => d.demoteCmd w
  | 4 => d.resolveContinue w
  | 5 => d.resolveYield w
  | 6 => d.leave w
  | _ => d.cmdIgnored w

/-! ## Line copies and the end of a join (R444) -/

/-- LINE_COPY_REQUEST: the primary answers with the line as it is; in PAIRED the standby answers too, for a remap (R469). -/
def execLineCopyRequest (line : BitVec 37) : State → Host.Outcome State Fault Refusal :=
  onDev fun d =>
    let a := line.toNat * 128
    let p := d.phys a
    if d.active && ((!d.roleStandby && d.pair == 1) || d.pair == 2) && !d.postQueued [p] then
      match d.region a with
      | .localMem | .bank _ =>
        let d := d.lineRead p
        d.send (.lineResponse line.toNat (d.cells (d.physN a 128)) (d.lineInfo p))
      | _ => d
    else d

/-- LINE_COPY_RESPONSE: a copied line is written with its metadata; words of banks that Sinter does not own are refused (R444, R321). -/
def execLineCopyResponse (line : BitVec 37) (cells : List Cell) (info : LineInfo) : State → Host.Outcome State Fault Refusal :=
  onDev fun d =>
    let a := line.toNat * 128
    if d.active && d.heldFrame (d.phys a) && d.pair == 2 then
      let d := { d.pokeBoth (d.physN a 128) cells with upsets := d.upsets.del ((d.phys a).key / 128) }
      d.updInfo (d.phys a) fun _ => info
    else if !(d.active && d.roleStandby && (d.pair == 1 || d.pair == 2)) then d
    else
      let d := d.updSn fun s => { s with joinOut := s.joinOut - 1 }
      let d := match d.region a with
        | .localMem =>
          let p := d.phys a
          let d := { d.pokeBoth (d.physN a 128) cells with upsets := d.upsets.del (p.key / 128) }
          (d.updInfo p fun _ => info).dropL1 (a / 128) none
        | .bank _ =>
          let run : List (PLoc × Cell) := ((d.physN a 128).zip cells).filter fun x => d.ownCheck x.1.addr 4 == Owned.ok
          let d' := (d.pokeBoth (run.map Prod.fst) (run.map Prod.snd)).dropL1 (a / 128) none
          match (d.physN a 128).find? fun x : PLoc => d.ownCheck x.addr 4 != Owned.ok with
          | some x => d'.sinterRefused x.addr
          | none => d'
        | _ => d
      d.askLines 1

/-- Copy every journaled line of the first half to the other (R435, R444). -/
def Dev.copyHalf (d : Dev) : Dev :=
  (d.info.filter fun x => decide (x.1 < 2 ^ 31) && x.2.jw).foldl (fun d x =>
    match d.lineAt (x.1 % 256) (x.1 / 256) with
    | some l =>
      if d.outsideHalf (l * 128) then d
      else
        let q := mirrorOf (l * 128)
        (d.pokes (d.physN q 128) (d.cells (d.physN (l * 128) 128))).setInfo (d.phys q) x.2
    | none => d) d

/-- RESYNC_COMPLETE: on the primary the copy has ended; the pair is PAIRED once the twin has applied every record numbered before that. -/
def execResyncComplete : State → Host.Outcome State Fault Refusal :=
  onDev fun d =>
    if d.pair != 1 || !d.sendsRecords then d
    else
      let last := d.sn.joinEnd.getD (d.rd offSNSEQ - 1)
      let d := if d.mode == 3 && d.sn.joinEnd.isNone then d.copyHalf else d
      let d := d.updSn fun s => { s with joinEnd := some last }
      if last ≤ d.rd offSNACK then
        (d.bumpEpoch 0).enterPaired
      else d

/-! ## Lock mode (R432 to R434) -/

/-- Records, and time in ns, between close markers (R432). -/
def batchRecords : Nat := 4096
def batchTime : Nat := 50000

/-- Whether every descriptor of the closing batch is finished and the bound slots' postings are acknowledged (R432 step 2). -/
def Dev.batchDone (d : Dev) : Bool :=
  d.queues.all fun q =>
    (q.2.descs.all fun e => e.st == .done || match e.batch with | some b => decide (d.sn.batch < b) | none => true) &&
    match d.bound q.1 with
    | some (c, s) => decide (((d.core c).slot s).posts = 0)
    | none => true

/-- Compare the oldest batch whose two digests are here (R433, R434); the records of one that matches may be overwritten (R425). -/
def Dev.compareBatch (d : Dev) : Dev :=
  match d.sn.closed, d.sn.peerDigests with
  | (_, a) :: t, (_, b) :: u =>
    let d := d.updSn fun s => { s with closed := t, peerDigests := u }
    if a = b then
      (d.updSn fun s => { s with matched := s.matched + 1, matchedTo := s.ends.headD s.matchedTo, ends := s.ends.tail }).demoteStep
    else ((d.setPair 5).updSn fun s => { s with demote := false }).raise 259
  | _, _ => d

/-- Close the batch once it is done: its digest, sent by the standby, and the next batch (R432, R433). -/
def Dev.closeBatch (d : Dev) : Dev :=
  if d.sn.closing && d.batchDone then
    let d := if d.roleStandby then d.send (.digest d.sn.batch d.sn.digest) else d
    (d.updSn fun s => { s with closed := s.closed ++ [(s.batch, s.digest)], ends := s.ends ++ [d.rd offSNSEQ - 1], digest := 0, batch := s.batch + 1,
                               closing := false }).compareBatch
  else d

/-- CLOSE_MARKER: the primary places the marker when it is due; it arrives at the standby; either then closes the batch when it can. -/
def execCloseMarker : State → Host.Outcome State Fault Refusal :=
  onDev fun d =>
    if !d.lockMode then d
    else if d.sn.closing then d.closeBatch
    else if d.roleStandby then (d.updSn fun s => { s with closing := true }).closeBatch
    else if batchRecords ≤ d.sn.batchCount ∨ d.sn.batchAt + batchTime ≤ d.now then d.placeMarker.closeBatch else d

/-- BATCH_DIGEST: the twin's digest of its next batch arrives and is compared. -/
def execBatchDigest (digest : BitVec 64) : State → Host.Outcome State Fault Refusal :=
  onDev fun d =>
    if d.lockMode then
      (d.updSn fun s => { s with peerDigests := s.peerDigests ++ [(s.matched + s.peerDigests.length, digest)] }).compareBatch
    else d

/-! ## Time (R436, R437) -/

/-- PPS_OUT_PULSE: at each whole second of the time base; in reset and without power the pin is high-impedance (R527). -/
def execPpsOutPulse : State → Host.Outcome State Fault Refusal :=
  onDev fun d =>
    if d.now / 1000000000 = d.board.ppsAt || d.inReset then d
    else { d.send .pps with board := { d.board with ppsAt := d.now / 1000000000 } }

/-- PPS_IN_EDGE: steers the time base of a primary whose TBSRC is 1 to the nearest whole second (R436). -/
def execPpsInEdge (s : State) : Host.Outcome State Fault Refusal :=
  let d := { s.dev with now := s.fum.time }
  let sec := 1000000000
  let t := (s.fum.time + sec / 2) / sec * sec
  if d.fld offSNCFG 39 36 = 1 ∧ !(d.roleStandby && [1, 2].contains d.pair) then .next { s with dev := d, fum := s.fum.steer t }
  else .next { s with dev := d }

/-- PTP_MESSAGE: an event message is timestamped (R437). -/
def execPtpMessage (port event : Bool) : State → Host.Outcome State Fault Refusal :=
  onDev fun d => if event && (if port then d.board.eth1 else d.board.eth0) then d.send (.ptpStamp port d.now) else d

end Sys2Proof.Machine
end

