-- ==== Sys2Proof/Machine/Pool.lean ====
section
/-!
DEFINITION. Pools (R446 to R452): the transport's datagrams, far reads, writes and postings performed for a peer, promotion
announcements, and the Ethernet ports.
-/

namespace Sys2Proof.Machine

/-- HEAT source of a pool peer's writes (R355). -/
def peerSrc : Nat := 14

/-- A far access refused (R449). -/
def Dev.farRefused (d : Dev) (a : Nat) : Dev := d.logEvent 0x1B 11 14 1 a 0

/-- Whether `n` cells from local address `a` lie in the export range and in backed memory (R449, R452). -/
def Dev.exported (d : Dev) (a n : Nat) : Bool :=
  let base := d.fld offPLEXP 31 0
  let limit := d.fld offPLEXP 63 32
  decide (base ≤ a / 4096) && decide ((a + n - 1) / 4096 ≤ limit) && decide (a + n ≤ d.localTop)

/-- A far posting as the unit here performs it (R450). -/
def Dev.farPosting (d : Dev) (peer : Nat) (p : Posting) (rnum : BitVec 22) : Dev :=
  let p := { p with who := .peer peer rnum }
  if d.sn.farRnum.find peer = some rnum then
    (d.datagram peer (.postAck rnum.toNat (BitVec.ofNat 4 (Config.freeWord d.free).toNat)
      (List.replicate (postCells p.ty.toNat) (Config.freeCell d.free)))).bumpFree
  else { d with postNet := d.postNet ++ [p], sn := { d.sn with farRnum := d.sn.farRnum.put peer rnum } }

/-- A request of a pool peer is an event of the memory controller of its line, for Caldera's samples (R353). -/
def Dev.poolEvent (d : Dev) (peer a : Nat) : Dev := d.heatEvent (controllerReq (puOf a (d.polOf a) / 32)) a false 12 peer

/-- Perform a far request of peer `p`; none while it must wait behind a queued posting (R310, R449). -/
def Dev.farRequest (d : Dev) (peer : Nat) (r : FarReq) : Option Dev :=
  match r with
  | .read core addr n =>
    let a := addr.toNat
    if !d.exported a n then some (d.datagram peer (.readData core (List.replicate n 0) true))
    else
      let ps := d.physN a n
      if d.postQueued ps then none
      else
        let d := (d.readLines ps).poolEvent peer a
        some (d.datagram peer (.readData core (d.cells ps) (ps.any d.poisoned)))
  | .write addr cells =>
    let a := addr.toNat
    if !d.exported a cells.length then some (d.farRefused a)
    else
      let ps := d.physN a cells.length
      if d.postQueued ps then none else some ((d.writeLoc { cells := ps } cells peerSrc none).poolEvent peer a)
  | .field addr cells =>
    let a := addr.toNat
    if !d.exported a cells.length then some (d.farRefused a)
    else
      let ps := d.physN a cells.length
      let cs := keepMarks (d.cells ps) (cells.map fun c => c.toNat % 256)
      if d.postQueued ps then none else some ((d.writeLoc { cells := ps } cs peerSrc none).poolEvent peer a)
  | .line addr cells info =>
    let a := addr.toNat
    if !d.exported a cells.length then some (d.farRefused a)
    else
      let ps := d.physN a cells.length
      if d.postQueued ps then none else some ((d.lineWrite ps cells peerSrc none).setInfo (d.phys a) info)
  | .posting addr op ty dsm x y jr segtag rnum =>
    let a := addr.toNat
    if !d.exported a (postCells ty.toNat) then some (d.farRefused a)
    else
      let p : Posting := { id := rnum.toNat, who := .hub, op := op, ty := ty, dsm := dsm, x := x, y := y, loc := d.phys a, jr := jr,
                           segtag := segtag }
      some ((d.poolEvent peer a).farPosting peer p rnum)

/-- FAR_REQUEST. -/
def execFarRequest (peer : Fin 32) (req : FarReq) : State → Host.Outcome State Fault Refusal :=
  onDev fun d => if d.active && d.bit offPLCFG 63 && !d.fenced then (d.farRequest peer req).getD d else d

/-- The acknowledgement of a far posting reaches its requester (R450). -/
def Dev.farAck (d : Dev) (id : Nat) (status : BitVec 4) (old : List Cell) : Dev :=
  match d.farHeld.find? fun p => p.id % 2 ^ 22 == id % 2 ^ 22 with
  | none => d
  | some p =>
    let d := { d with farHeld := d.farHeld.erase p }
    let a : Applied := { p := p, status := status, old := old, seq := none }
    (d.deliverAck a).getD { d with farHeld := d.farHeld ++ [p] }

/-- Take a pool message in its turn; none while it must wait. -/
def Dev.poolBody (d : Dev) (peer : Nat) (b : PoolBody) : Option Dev :=
  match b with
  | .request r => d.farRequest peer r
  | .readData core cells bad => some (d.answer core cells bad fun e => decide (e.addr < 2 ^ 43))
  | .postAck id st old => some (d.farAck id st old)
  | .pageAsk s => some (d.pageAsk peer s)
  | .pageGive s n => some (d.pageGive peer s n)
  | .pageMoved w back s n home rec => some (d.pageMoved peer w back s n home rec)
  | .pageDone s => some (d.pageDone peer s)
  | .pageDrop n => some (d.pageDrop n)
  | .ackOnly | .unsecured _ => some d

/-- Change a peer's transport state. -/
def Dev.updPeer (d : Dev) (p : Nat) (f : Peer → Peer) : Dev := { d with peers := d.peers.put p (f (d.peers.getD' p {})) }

/-- A cumulative acknowledgement from a peer (R448). -/
def Dev.poolAck (d : Dev) (peer ack : Nat) : Dev :=
  d.updPeer peer fun p => { p with unacked := p.unacked.filter fun u => decide (ack < u.1), sentAt := if p.unacked.any (fun u => decide (u.1 ≤ ack)) then d.now else p.sentAt }

/-- Whether a body came in a protected frame, and the body itself (R447). -/
def frameBody : PoolBody → Bool × PoolBody
  | .unsecured b => (false, b)
  | b => (true, b)

/-- Whether a frame is taken from the network: one without MACsec protection is dropped while PLCFG.MSREQ is 1 (R447). -/
def Dev.takesFrame (d : Dev) (secured : Bool) : Bool := d.active && d.bit offPLCFG 63 && (secured || !d.bit offPLCFG 57)

/-- POOL_DATAGRAM (R448): in sequence it is performed once; a repeated or early one is discarded, and the receipt acknowledged. -/
def execPoolDatagram (peer : Fin 32) (seq ack : Nat) (body : PoolBody) : State → Host.Outcome State Fault Refusal :=
  onDev fun d =>
    let (secured, body) := frameBody body
    if !d.takesFrame secured then d
    else
      let d := d.poolAck peer ack
      let p := d.peers.getD' peer {}
      let reply (d : Dev) : Dev := let p := d.peers.getD' peer {}; d.send (d.frame peer 0 p.rxSeq p.port .ackOnly)
      if body == .ackOnly then d
      else if seq = p.rxSeq + 1 then
        match (d.updPeer peer fun p => { p with rxSeq := seq }).poolBody peer body with
        | some d' => reply d'
        | none => d
      else reply d

/-- POOL_RESEND: the oldest unacknowledged datagram, 20 µs after it was sent, on the other port (R448). -/
def execPoolResend (peer : Fin 32) : State → Host.Outcome State Fault Refusal :=
  onDev fun d =>
    let p := d.peers.getD' peer {}
    match p.unacked with
    | [] => d
    | (n, b) :: _ =>
      if d.active && decide (p.sentAt + 20000 ≤ d.now) then
        (d.send (d.frame peer n p.rxSeq (d.otherPort p.port) b)).updPeer peer fun p => { p with sentAt := d.now, port := d.otherPort p.port }
      else d

/-- Send again to a window's new primary what is in flight to it (R450): held postings, and reads whose data has not come. -/
def Dev.resendFar (d : Dev) (w : Nat) : Dev :=
  let peer := d.farPeer w
  let d := (d.farHeld.filter fun p => p.loc.addr / 2 ^ 38 == w).foldl (fun d p => d.datagram peer (.request p.request)) d
  let ask (d : Dev) (c : Nat) (l : List ExtRead) : Dev :=
    (l.filter fun e => e.data.isNone && e.addr / 2 ^ 38 == w).foldl (fun d e =>
      d.datagram peer (.request (.read (Fin.ofNat 96 c) (BitVec.ofNat 38 e.addr) e.n))) d
  let d := d.cores.foldl (fun d k => ask d k.1 k.2.ext) d
  d.islands.foldl (fun d i => i.2.ctxs.foldl (fun d g => ask d (8 * i.1) g.2.ext) d) d

/-- Writes that the old peer had not acknowledged go to the new one (R450). -/
def Dev.resendWrites (d : Dev) (old new : Nat) : Dev :=
  let p := d.peers.getD' old {}
  let ws := p.unacked.filter fun u => match u.2 with | .request (.write _ _) | .request (.field _ _) | .request (.line _ _ _) => true | _ => false
  let d := d.updPeer old fun p => { p with unacked := p.unacked.filter fun u => match u.2 with | .request _ => false | _ => true }
  ws.foldl (fun d u => d.datagram new u.2) d

/-- PROMOTION_ANNOUNCE: CUR of every window of the pair names the new primary, and requests in flight are sent there (R450). -/
def execPromotionAnnounce (peer : Fin 32) : State → Host.Outcome State Fault Refusal :=
  onDev fun d =>
    (fromN 1 31).foldl (fun d w =>
      let v := d.rd (offPLWIN w)
      if !bitOf v 63 then d
      else if bitOf v 62 && bitsOf v 14 10 == peer.val && !bitOf v 61 then
        ((d.setBit (offPLWIN w) 61 true).resendWrites (bitsOf v 4 0) peer).resendFar w
      else if bitsOf v 4 0 == peer.val && bitOf v 61 then
        ((d.setBit (offPLWIN w) 61 false).resendWrites (bitsOf v 14 10) peer).resendFar w
      else d) d

/-- PLWIN`w`.V has been cleared: postings still held for the window complete with status 6 and are logged (R450). -/
def Dev.windowCleared (d : Dev) (w : Nat) : Dev :=
  (d.farHeld.filter fun p => p.loc.addr / 2 ^ 38 == w).foldl (fun d p =>
    (d.farAck p.id 6 (List.replicate (postCells p.ty.toNat) 0)).farRefused p.loc.addr) d

/-- A port's link has come up or gone down: the source, and peers' traffic moves off a failed port (R448, R453). -/
def Dev.ethLink (d : Dev) (port up : Bool) : Dev :=
  let d := if port then { d with board := { d.board with eth1 := up } } else { d with board := { d.board with eth0 := up } }
  let d := if up then d else { d with peers := d.peers.map fun p => if p.2.port = port then (p.1, { p.2 with port := !port }) else p }
  d.raise (if port then 321 else 320)

/-- ETHERNET_LINK_CHANGE; a fenced port stays down (R457), and in reset there is no port (R25). -/
def execEthernetLinkChange (port up : Bool) : State → Host.Outcome State Fault Refusal :=
  onDev fun d =>
    if d.inReset then d
    else if up && d.hub.fenced.any (fun u => match u with | .ethLane p _ => p == port | _ => false) then d else d.ethLink port up

end Sys2Proof.Machine
end

