-- ==== Sys2Proof/Machine/FaultHub.lean ====
section
/-!
DEFINITION. The fault hub (chapter 17): classing of errors (R454 to R456), fencing (R457, R458), the recovery paths with their
budget (R462 to R471), replay from the journal ring (R467) and seizure (R470).
-/

namespace Sys2Proof.Machine

/-- Change the fault hub's own state. -/
def Dev.updHub (d : Dev) (f : FaultHub → FaultHub) : Dev := { d with hub := f d.hub }

/-! ## Units -/

/-- UTYPE and UIDX of a unit (R460). -/
def Dev.unitCode (d : Dev) : UnitRef → Nat × Nat
  | .coreEntry c _ _ => (1, c)
  | .islandEntry i _ _ => (2, i)
  | .corePort c => (1, c)
  | .core c => (1, c)
  | .walker i _ => (2, i)
  | .geyser i => (3, i)
  | .bankColumn i b _ => (4, 16 * i.val + b.val)
  | .postingUnit p => (5, p)
  | .lines p _ => (6, p)
  | .tableLine _ l => (6, puOf (l.toNat * 128) (d.polOf (l.toNat * 128)))
  | .twinLane n => (8, n)
  | .ethLane p l => (9, 8 * flagNat p + l.val)
  | .pcieLane n => (10, n)
  | .custodyCore => (12, 0)
  | .microWord c => (1, c)
  | .device t i => (t.toNat, i.toNat)

/-- Total of a unit's recovery path in ns (R457, R462). -/
def pathTotal : UnitRef → Nat
  | .core _ => 85000
  | .geyser _ => 65000
  | .bankColumn _ _ _ => 65000
  | .postingUnit _ => 85000
  | .lines _ _ => 181000
  | .pcieLane _ => 175000
  | .custodyCore => 175000
  | .device _ _ => 176000
  | _ => 25000

/-- DATA of a report about a unit: the failing cell as received, or the column of a bank (R460). -/
def unitData (u : UnitRef) (got : BitVec 10) : Nat :=
  match u with
  | .bankColumn _ _ c => c
  | _ => got.toNat

/-! ## Detection (R454 to R456) -/

/-- From its report on, a failing unit does nothing, and who needs it waits (R455). -/
def Dev.stopUnit (d : Dev) (u : UnitRef) : Dev :=
  match u with
  | .core c => d.updCore c fun k => { k with fenced := true }
  | .bankColumn i b _ =>
    (d.updIsl i fun x => { x with heldBanks := x.heldBanks ++ [b.val] }).setBit (offBANKOWN i b) 6 true
  | .lines _ fs => d.updHub fun h => { h with held := h.held ++ fs.map BitVec.toNat }
  | .microWord c => d.updCore c fun k => { k with microStall := true }
  | _ => d

/-- Whether a unit awaits a fence after a lasting error: a micro-word is rewritten instead (R487). -/
def awaitsFence : UnitRef → Bool
  | .microWord _ => false
  | _ => true

/-- A lasting error: logged in an entry of its own; the unit stops and awaits its fence. A unit that is fenced or awaits its fence
already is only logged. -/
def Dev.lastingError (d : Dev) (u : UnitRef) (space addr data : Nat) : Dev :=
  let (t, x) := d.unitCode u
  let d := d.log 1 0x01 t x space addr data
  if d.hub.fenced.contains u || d.hub.lasting.any (fun l => l.1 == u) then d
  else if awaitsFence u then (d.stopUnit u).updHub fun h => { h with lasting := h.lasting ++ [(u, d.now)] }
  else d.stopUnit u

/-- MICROWORD_RELOAD (R487): the stalled core reads the rewritten word; when it fails again, the core is lost. -/
def execMicrowordReload (c : CoreId) (failsAgain : Bool) : State → Host.Outcome State Fault Refusal :=
  onDev fun d =>
    if !(d.core c).microStall then d
    else
      let d := d.updCore c fun k => { k with microStall := false }
      if failsAgain then d.lastingError (.core c) 0 0 0 else d

/-- Whether a unit's report is of a failed cell parity (R44), and not of a link CRC or of a line code. -/
def cellParity : UnitRef → Bool
  | .twinLane _ | .ethLane _ _ | .pcieLane _ | .lines _ _ | .tableLine _ _ | .device _ _ => false
  | _ => true

/-- PARITY_ERROR: ten bits that hold an odd number of ones pass the parity check, and are no error (R44). The repeat has succeeded
or not; a unit's transients beyond TLIM in one millisecond are lasting. -/
def execParityError (u : UnitRef) (addr : BitVec 44) (hasAddr : Bool) (got : BitVec 10) (repeatOk : Bool) :
    State → Host.Outcome State Fault Refusal :=
  onDev fun d =>
    let ms := d.now / 1000000
    let d := if d.hub.transMs = ms then d else d.updHub fun h => { h with trans := [], transMs := ms }
    let space := if hasAddr then 1 else 0
    let a := if hasAddr then addr.toNat else 0
    if !d.active || (cellParity u && parityOk got) then d
    else if repeatOk && decide ((d.hub.trans.filter fun x => x == u).length < d.fld offFHCFG 7 0) then
      let (t, x) := d.unitCode u
      let d := d.updHub fun h => { h with trans := h.trans ++ [u] }
      (d.log 0 0x01 t x space a (unitData u got)).addSat offFHSTAT 47 16 1
    else d.lastingError u space a (unitData u got)

/-! ## Replay (R467) -/

/-- A record from its 64 cells (R423). -/
def recOf (cs : List Cell) : Record :=
  let w (n : Nat) : Nat := cellsNat ((cs.drop (4 * n)).take 4)
  { kind := BitVec.ofNat 4 (bitsOf (w 0) 35 32), op := BitVec.ofNat 4 (bitsOf (w 0) 31 28), ty := BitVec.ofNat 2 (bitsOf (w 0) 27 26),
    dsm := bitOf (w 0) 25, status := BitVec.ofNat 4 (bitsOf (w 0) 24 21), segtag := BitVec.ofNat 16 (w 0),
    seq := BitVec.ofNat 64 (w 1 * 2 ^ 36 + w 2), body := (fromN 3 11).map fun n => BitVec.ofNat 36 (w n),
    epoch := BitVec.ofNat 32 (w 14), src := BitVec.ofNat 9 (bitsOf (w 15) 35 27), peer := BitVec.ofNat 5 (bitsOf (w 15) 26 22),
    rnum := BitVec.ofNat 22 (w 15) }

/-- Where record `n` stands in the ring (R425). -/
def Dev.ringPlace (d : Dev) (n : Nat) : Nat := d.fld offSNJRNL 31 0 * 4096 + n / 2 % (d.ringSize / 2) * 128 + n % 2 * 64

/-- Record `n` of the ring, if the ring holds it (R425) and its line was readable (R297). -/
def Dev.ringRecord (d : Dev) (n : Nat) : Option Record :=
  let a := d.ringPlace n
  let r := recOf (d.cells (d.physN a 64))
  if d.bit offSNJRNL 63 && r.seq.toNat == n && 0 < n && !d.poisoned (d.phys a) then some r else none

/-- The number of the line that holds `a`: POST_SEQH and POST_TAG, or the bank atomic unit's tag (R467). -/
def Dev.lineNumber (d : Dev) (a : Nat) : Nat :=
  let p := d.phys a
  if p.isLocal then (d.lineInfo p).postSeqH.toNat * 2 ^ 16 + (d.lineInfo p).postTag.toNat
  else ((d.isl (bankIsland a)).tags.getD' (a / 128) 0).toNat

/-- Replay of the ring's records for chosen lines, in SEQ order: those above their line's number are applied, `place` saying where. -/
def Dev.replay (d : Dev) (line : Nat → Bool) (place : Nat → Nat) : Dev :=
  let top := d.rd offSNSEQ
  (fromN (top - d.ringSize) (Nat.min top d.ringSize)).foldl (fun d n =>
    let d := if d.bit offSNJRNL 63 then d.lineRead (d.phys (d.ringPlace n)) else d
    match d.ringRecord n with
    | some r =>
      let a := place (recAddr r)
      if (r.kind == 1 || r.kind == 2) && line (recAddr r / 128) && decide (d.lineNumber a < n) then d.writeRecord r place else d
    | none => d) d

/-! ## Device-level faults (R468) -/

/-- A PAIRED device of a twin mode demotes itself (R468). -/
def Dev.demotes (d : Dev) : Bool := d.mode != 0 && d.pair == 2 && d.bit offFHCFG 16

/-- Whether a lost unit lies on die 0: what a self-twin pair promotes on (R435). -/
def onDie0 : UnitRef → Bool
  | .device 2 x => decide (x.toNat < 6)
  | u => (lostPcs u).any fun p => decide (p < 128)

/-- The lock registry releases the locks of the cores that `sel` names: a release posting for each (R470). -/
def Dev.releaseLocks (d : Dev) (sel : Nat → Bool) : Dev :=
  (d.locks.filter fun l => sel (l.2.toNat / 2 ^ 27 % 128)).foldl (fun d l =>
    let p : Posting := { id := d.nextPost, who := .hub, op := 6, ty := 2, dsm := false, x := natCells 4 0, y := wordCells l.2,
                         loc := d.phys l.1, jr := d.bit offSNJRNL 63, segtag := 0 }
    { d with nextPost := d.nextPost + 1 }.launch p) d

/-- Caldera's subsystem number (R17). -/
def calderaSub : Nat := 12

/-- The banks of one owner go to OWNER 0 by forced handovers (R470). -/
def Dev.seizeBanks (d : Dev) (owner : Nat) : Dev :=
  (upto 192).foldl (fun d k => if d.fld (offBANKOWN (k / 16) (k % 16)) 2 0 = owner then d.force (k / 16) (k % 16) 0 else d) d

/-- A device-level fault of unit `u`: demotion when paired, self-twin promotion for die 0; what only the lost unit held is poisoned, a
lost island is fenced (R468), and the banks of a lost Sinter or Caldera are seized (R470). -/
def Dev.deviceLevel (d : Dev) (u : UnitRef) : Dev :=
  let (t, x) := d.unitCode u
  let d := (d.logEvent 0x0B t x 0 0 0).raise 1015
  let demote := d.demotes
  let d := if demote && d.mode != 3 then (d.send .dyingGasp).enterFenced else if demote && onDie0 u then d.promote else d
  let d := d.updHub fun h => { h with deadPc := h.deadPc ++ (lostPcs u).filter fun p => !h.deadPc.contains p }
  match u with
  | .device 2 x => (d.updIsl x.toNat fun i => { i with fenced := true }).releaseLocks fun c => c / 8 == x.toNat
  | .device 11 x => if x.toNat = sinterSub then d.seizeBanks 4 else if x.toNat = calderaSub then d.seizeBanks 5 else d
  | _ => d

/-! ## Core loss (R463) -/

/-- The resident slots of core `c` lose their registers: FHLOST names them, and they become free (R463, R494). -/
def Dev.loseResident (d : Dev) (c : Nat) : Dev :=
  let k := d.core c
  let lost := k.slots.filter fun s => s.2.valid && s.2.res
  let bits := lost.foldl (fun a s => a ||| 2 ^ s.1) 0
  let cus := lost.foldl (fun a s => if s.2.world then a ||| 2 ^ s.1 else a) 0
  let old := d.hub.lostCus.getD' c 0
  let d := d.wr (offFHLOST c) (d.rd (offFHLOST c) ||| bits)
  let d := d.updHub fun h => { h with lostCus := h.lostCus.put c ((old - (old &&& bits)) ||| cus) }
  d.setCore c { k with slots := k.slots.filter fun s => !(s.2.valid && s.2.res), runSlot := none }

/-- Move every non-resident VALID slot of core `c` to another core of its world (R463, R471). -/
def Dev.moveSlots (d : Dev) (c : Nat) : Dev :=
  (upto 64).foldl (fun d s =>
    if d.movable c s true then
      match d.bestCore ((d.core c).slot s).world ((upto 96).filter (· != c)) with
      | some b => d.moveTo c s b
      | none => d
    else d) d

/-- The fence of a core: its store buffer and pending operations are discarded, as the acknowledgements of its postings will be. -/
def Dev.loseCore (d : Dev) (c : Nat) : Dev :=
  let d := (d.loseResident c).updCore c fun k =>
    { k with fenced := true, sbuf := [], posts := [], ext := [], beside := [], exposed := [], entry := none, detWait := false,
             idle := false, micro := none, ovf := none }
  ({ d with ackNet := d.ackNet.filter (·.who != Requester.core c) }.moveSlots c).raise (768 + c)

/-- Whether a lock take of core `c` is still on its way. -/
def Dev.lockInFlight (d : Dev) (c : Nat) : Bool :=
  let take (p : Posting) : Bool := p.who == .core c && p.op == 5
  d.postNet.any take || d.pus.any fun u => u.2.queue.any take || u.2.cut.any fun a => take a.p

/-! ## Engine loss (R464) -/

/-- Every context of island `i`'s engine enters STATE 7, CAUSE 2, and source 3 is raised; the engine's banks go to OWNER 0 (R291, R464,
R470). The report of each is owed until the recovery ends. -/
def Dev.loseEngine (d : Dev) (i : Nat) : Dev :=
  let d := d.setBit (offGYCTL i) 0 true
  let d := d.updIsl i fun s => { s with
    ctxs := s.ctxs.map fun x => (x.1, { x.2.setFault (6 * 2 ^ 28 + 2 * 2 ^ 24) 0 0 0 with st := 7, ending := some 7, ext := [] })
    running := none, slice := 0, edge := false, order := [] }
  let d := d.geyRaise i 3
  (upto 16).foldl (fun d b => if d.fld (offBANKOWN i b) 2 0 = 2 then d.force i b 0 else d) d

/-- Write words 0 and 4 only of a context's SCB. -/
def scbWrite04 (i x st : Nat) (g : GeyCtx) : M Unit := do
  let rep : Rep := { opnd := 9 }
  let ps ← geyChunk i g .rmw false g.scbKey.toNat rep 64 (pageChunks 65 0 g.scbLin 64)
  let old ← geyRead i x g true rep { cells := ps.take 4, lin := g.scbLin }
  geyWrite i x { cells := ps.take 4, jr := g.scbJr, segtag := g.scbTag } (natCells 4 (scbWord0 (cellsNat old) st))
  geyWrite i x { cells := (ps.drop 16).take 4, jr := g.scbJr, segtag := g.scbTag } (natCells 4 (g.word 4))

/-- The hub writes the SCB of a context, all 16 words or, when the engine's copy does not read (a free choice), words 0 and 4; it raises
the completion event, and a stream of a queue is finished. The second part says whether this is done. -/
def Dev.hubReport (d : Dev) (i : Nat) (x : Nat × GeyCtx) : Dev × Bool :=
  let g := x.2
  let done (d : Dev) (owed : Bool) : Dev :=
    g.streamEnd ((d.bumpFree.updCtx i x.1 fun g => { g with ending := none, scbOwed := owed, ext := [] }).geyRaise i 0) 7
  let part := (Config.freeWord d.free).toNat % 2 == 1
  match ((if part then scbWrite04 i x.1 7 g else scbWrite i x.1 7 g) : M Unit) d with
  | (.ok (), d') => (done (d'.geyEvent i g) false, true)
  | (.error (.exc _), d') => ((done d' true).geyRaise i 2, true)
  | (.error .hold, d') => (d', false)
  | (.error .wait, _) => (d, false)

/-- Engine loss ends once every post is acknowledged and every SCB written. -/
def Dev.engineDone (d : Dev) (i : Nat) : Dev × Bool :=
  if (d.isl i).ctxs.any fun x => !x.2.posts.isEmpty then (d, false)
  else ((d.isl i).ctxs.filter fun x => x.2.ending == some 7).foldl (fun r x => if r.2 then r.1.hubReport i x else r) (d, true)

/-! ## Bank column (R465) -/

/-- A free field repair takes the column, or the bank enters degraded column mode; then the bank is released. The rebuilt words hold
what they held. -/
def Dev.columnDone (d : Dev) (i b col : Nat) : Dev :=
  let off := offBANKREP i b
  let room := decide (d.repairsOn (i / 6) < 16)
  let d :=
    if room && !d.bit off 15 then (d.setFld off 13 8 col).setBit off 15 true
    else if room && !d.bit off 23 then (d.setFld off 21 16 col).setBit off 23 true
    else (d.updIsl i fun x => { x with degraded := x.degraded ++ [(b, col)] }).log 1 0x01 4 (16 * i + b) 0 0 (2 ^ 63 + col)
  let d := d.updIsl i fun x => { x with heldBanks := x.heldBanks.erase b }
  let d := if col < 4 then { d with parity := d.parity.filter fun x => bankIsland x.1 != i || bankNo x.1 != b } else d
  let more := ((d.isl i).hand.any fun h => h.bank == b) || (d.isl i).heldBanks.contains b
  (d.recordRepair i b).setBit (offBANKOWN i b) 6 more

/-! ## Posting unit (R466) -/

/-- Acknowledge the applied postings of unit `u` in order; none while one must wait for Sinter or its requester. -/
def Dev.ackAll (d : Dev) (u : Nat) : Nat → Option Dev
  | 0 => some d
  | n + 1 =>
    let x := d.pus.getD' u {}
    match x.applied with
    | [] => some d
    | a :: t =>
      if d.mayAck a then ({ d with pus := d.pus.put u { x with applied := t } }.deliverAck a).bind fun d => d.ackAll u n else none

/-- Step 1, replay and acknowledgement of what has a record, with the status and the old value that the record holds; step 2, the requesters reissue the rest to the partner. -/
def Dev.unitDone (d : Dev) (u : Nat) : Option Dev :=
  let x := d.pus.getD' u {}
  let lines := (x.applied ++ x.cut).map (fun a => a.p.loc.addr / 128) ++ x.queue.map fun p => p.loc.addr / 128
  let d := d.replay (fun l => lines.contains l) id
  let d := { d with pus := d.pus.put u { x with applied := x.applied ++ x.cut, cut := [] } }
  (d.ackAll u (x.applied.length + x.cut.length)).map fun d =>
    let y := d.pus.getD' u {}
    { d with pus := d.pus.put u { y with queue := [] }, postNet := y.queue ++ d.postNet }

/-! ## Line remap (R469, R370) -/

/-- The move that remaps frame `f`, as its heat record describes what names it. -/
def Dev.remapMove (d : Dev) (f : Nat) : Move :=
  let w2 := d.heat f 2
  { source := f, pol := bitsOf (d.band (f / 8)) 9 8, mask := 255, world := bitOf w2 33, kind := bitsOf w2 32 31,
    copyB := bitOf w2 30, pidx := bitsOf (d.heat f 1) 27 19, back := d.heat f 3, begun := d.now }

/-- In self-twin mode a line that cannot be read is supplied from its mirror. -/
def Dev.mirrorLine (d : Dev) (a : Nat) : Dev :=
  let q := mirrorOf a
  if d.poisoned (d.phys q) then d
  else ((d.pokes (d.physN a 128) (d.cells (d.physN q 128))).setInfo (d.phys a) (d.lineInfo (d.phys q)))

/-- Supply line `l` of frame `f`: the old line corrected, else the twin's (asked for, or read from the mirror), else poison. -/
def Dev.supply (d : Dev) (f l : Nat) : Dev :=
  let a := f * 4096 + 128 * l
  let d := d.lineRead (d.phys a)
  if (d.lineInfo (d.phys a)).poison && d.pair == 2 then
    (if d.mode == 3 then d.mirrorLine a else d.send (.lineRequest (a / 128)))
  else d

/-- Remap frame `f` in recovery place `k`: its lines are supplied and copied, and what names it is rewritten; none without a free
frame of its band policy, for a frame that is free or excluded (R356), and for one whose move is past step 3. No two moves of a frame
overlap: a move of Caldera's before step 4 is abandoned (R363). -/
def Dev.remapFrame (d : Dev) (k f : Nat) : Option Dev :=
  let m := d.remapMove f
  if bitsOf (d.heat f 2) 35 34 ∉ [0, 2] ∨ d.cal.moves.any (fun x => x.2.source == f && decide (4 ≤ x.2.step)) then none
  else
  let d := d.cal.moves.foldl (fun d x => if x.2.source = f then d.abandon x.1 x.2 else d) d
  (d.pick (d.targets m)).map fun n =>
    let d := ((d.setHeat f 2 (setBits (d.heat f 2) 35 34 2)).setFree n false).bumpFree
    let d := (upto 32).foldl (fun d l => d.supply f l) d
    d.moveOver k { m with target := n }

/-- Accesses that were held to frame `s` are repeated on frame `n`. -/
def Dev.redirect (d : Dev) (s n : Nat) : Dev :=
  let at' (a : Nat) : Nat := if a / 4096 = s then n * 4096 + a % 4096 else a
  let post (p : Posting) : Posting := { p with loc := { p.loc with addr := at' p.loc.addr } }
  { d with
    cores := d.cores.map fun k => (k.1, { k.2 with sbuf := k.2.sbuf.map fun e => { e with block := at' (16 * e.block) / 16 } })
    postNet := d.postNet.map post
    pus := d.pus.map fun u => (u.1, { u.2 with queue := u.2.queue.map post }) }

/-- The moves that remap the frames of a recovery: its own, and one that Caldera had brought past step 3. -/
def Dev.remaps (d : Dev) (fs : List Nat) : List (Nat × Move) := d.cal.moves.filter fun m => decide (4 ≤ m.2.step) && fs.contains m.2.source

/-- Line remap ends once the invalidations of step 5 are done: replay, the held accesses go on, and step 6. -/
def Dev.remapDone (d : Dev) (fs : List Nat) : Option Dev :=
  let ms := d.remaps fs
  if ms.length < (fs.filter fun f => bitsOf (d.heat f 2) 35 34 != 3).length || ms.any (fun m => d.invalidating m.2) then none
  else
    let d := ms.foldl (fun d m =>
      let src := m.2.source
      let d := d.replay (fun l => l / 32 == src) fun a => m.2.target * 4096 + a % 4096
      (d.redirect src m.2.target).endMove m.1 m.2) d
    some (d.updHub fun h => { h with held := h.held.filter fun f => !fs.contains f })

/-! ## Custody loss (R471) -/

/-- SUBCORE takes the custody duties in CS at level 7; where its image starts the manual does not say, and the value is free. -/
def Dev.substitute (d : Dev) : Dev :=
  let c := d.fld offFHCFG 14 8 % 96
  let d := d.updCore c fun k =>
    let k := if k.runSlot.isSome then k.yieldTask else k
    { k with cstat := BitVec.ofNat 36 (setBits k.cstat.toNat 35 28 0xFF), pc := Config.freeWord d.free, idle := false, ext := [], micro := none }
  let d := { d.formXav c with cust := { d.cust with lost := true } }
  ((d.setBit offCUSTSTAT 10 true).raise 1013).bumpFree

/-- Custody loss ends once the substitute has spilled its resident slots; Caldera then moves its slots. -/
def Dev.custodyDone (d : Dev) : Option Dev :=
  let c := d.fld offFHCFG 14 8 % 96
  if (d.core c).slots.any fun s => s.2.valid && s.2.res then none else some (d.moveSlots c)

/-! ## Fencing and the ends of recoveries -/

/-- The width below a link width (R374): failed lanes leave ×8, ×4 or ×1. -/
def narrower : LinkWidth → LinkWidth
  | .x16 => .x8
  | .x8 => .x4
  | _ => .x1

/-- Fence unit `u` and do what its path does at once (R457). -/
def Dev.fenceUnit (d : Dev) (u : UnitRef) : Dev :=
  match u with
  | .corePort c => d.updCore c fun k => { k with sharedPort := true }
  | .core c => (d.loseCore c).releaseLocks fun k => k == c.val
  | .islandEntry i .codeWay n => d.updIsl i fun x => { x with ccache := x.ccache.filter fun e => e.2 != n % 8 }
  | .geyser i => d.loseEngine i
  | .postingUnit p =>
    let d := d.setBit (offPUSTAT p) 63 true
    if d.puFenced (Nat.xor p 1) then d.deviceLevel u else d
  | .lines _ fs =>
    let ks := (fromN 8 64).filter fun k => (d.cal.moves.find k).isNone
    (ks.zip (fs.map BitVec.toNat)).foldl (fun d x => (d.remapFrame x.1 x.2).getD d) d
  | .twinLane n =>
    let m := n + 16
    let d := d.updHub fun h => { h with fenced := h.fenced ++ if h.fenced.contains (.twinLane m) then [] else [.twinLane m] }
    (d.setBit offSNSTAT 24 true).raise 258
  | .ethLane p _ => d.ethLink p false
  | .custodyCore => d.substitute
  | .device _ _ => d.deviceLevel u
  | _ => d

/-- Whether a fenced unit's fault is followed by a recovery path of R462: a device-level fault only when paired. -/
def Dev.recovers (d : Dev) (u : UnitRef) : Bool :=
  match u with
  | .device _ _ => d.demotes
  | .postingUnit p => !d.puFenced (Nat.xor p 1) || d.demotes
  | _ => true

/-- FAULT_FENCE: the oldest lasting error's unit is fenced, source 1008, and its recovery starts. -/
def execFaultFence : State → Host.Outcome State Fault Refusal :=
  onDev fun d =>
    match d.hub.lasting with
    | [] => d
    | (u, t) :: rest =>
      if !d.active then d
      else
        let r : List Recovery := if d.recovers u then [{ u := u, start := t, total := pathTotal u }] else []
        let d := d.updHub fun h => { h with lasting := rest, fenced := h.fenced ++ [u], recoveries := h.recoveries ++ r }
        (d.raise 1008).fenceUnit u

/-- A step that is done, or has changed nothing. -/
def Dev.try (d : Dev) (r : Option Dev) : Dev × Bool :=
  match r with
  | some d' => (d', true)
  | none => (d, false)

/-- What a recovery path has still to do when it ends, and whether it can end yet. -/
def Dev.finishPath (d : Dev) (u : UnitRef) : Dev × Bool :=
  match u with
  | .core c => if d.lockInFlight c then (d, false) else (d.releaseLocks fun k => k == c.val, true)
  | .geyser i => d.engineDone i
  | .bankColumn i b c => (d.columnDone i b c, true)
  | .postingUnit p => if d.puFenced (Nat.xor p 1) then (d, true) else d.try (d.unitDone p)
  | .lines _ fs => d.try (d.remapDone (fs.map BitVec.toNat))
  | .pcieLane _ => ({ d with board := { d.board with width := narrower d.board.width } }, true)
  | .custodyCore => d.try d.custodyDone
  | _ => (d, true)

/-- A recovery leaves the list of those in progress. -/
def Dev.dropRecovery (d : Dev) (r : Recovery) : Dev := d.updHub fun h => { h with recoveries := h.recoveries.erase r }

/-- A recovery over its budget: CLASS 0x09, source 1010, and the fault is device-level (R462). -/
def Dev.overBudget (d : Dev) (r : Recovery) : Dev :=
  let (t, x) := d.unitCode r.u
  let d := ((d.dropRecovery r).logEvent 0x09 t x 0 0 ((d.now - r.start) % 2 ^ 32)).raise 1010
  match r.u with
  | .device _ _ => d
  | u => d.deviceLevel u

/-- The end of the first recovery that can end. -/
def Dev.endRecovery (d : Dev) : List Recovery → Dev
  | [] => d
  | r :: t =>
    match d.finishPath r.u with
    | (d', false) => d'.endRecovery t
    | (d', true) =>
      if d.now ≤ r.start + r.total then
        let (k, x) := d.unitCode r.u
        ((d'.dropRecovery r).logEvent 0x08 k x 0 0 (d.now - r.start)).raise 1009
      else d'.overBudget r

/-- RECOVERY_COMPLETE: CLASS 0x08 and source 1009 within the total; else as RECOVERY_OVER_BUDGET. -/
def execRecoveryComplete : State → Host.Outcome State Fault Refusal :=
  onDev fun d => if d.active then d.endRecovery d.hub.recoveries else d

/-- RECOVERY_OVER_BUDGET: a recovery has exceeded its total. -/
def execRecoveryOverBudget : State → Host.Outcome State Fault Refusal :=
  onDev fun d =>
    match d.hub.recoveries.find? fun r => decide (r.start + r.total < d.now) with
    | some r => if d.active then d.overBudget r else d
    | none => d

end Sys2Proof.Machine
end

