-- ==== Sys2Proof/Machine/Reset.lean ====
section
/-!
DEFINITION. Resets (R493 to R495, R458) and the starts that follow them (R478 to R481, R484 to R486).
-/

namespace Sys2Proof.Machine

/-- Registers of Fumarole's block (R505). -/
def fumReg (off : Nat) : Bool := decide (0x10000 ≤ off) && decide (off < 0x20000)

/-! ## Core and island resets (R494) -/

/-- Whether a fence is on a part of core `c`. -/
def fenceOfCore (c : Nat) : UnitRef → Bool
  | .coreEntry k _ _ | .corePort k | .core k | .microWord k => k.val == c
  | _ => false

/-- Whether a fence is on a part of island `i` that an island reset reaches. -/
def fenceOfIsland (i : Nat) : UnitRef → Bool
  | .coreEntry k _ _ | .corePort k | .core k | .microWord k => k.val / 8 == i
  | .islandEntry k _ _ | .walker k _ | .geyser k | .bankColumn k _ _ => k.val == i
  | .device t x => t == 2 && x.toNat == i
  | _ => false

/-- Clear the fences that `sel` names (R458). -/
def Dev.unfence (d : Dev) (sel : UnitRef → Bool) : Dev := d.updHub fun h => { h with fenced := h.fenced.filter fun u => !sel u }

/-- A core as a reset leaves it: slot 0 runs at RSTVEC, and the control store is the verified copy's. Its forwarding entries are
Caldera's, and its DTLB, which the core reset does not reach, stays. -/
def Dev.freshCore (d : Dev) (k : Core) : Core :=
  { pc := BitVec.ofNat 36 (d.rd offRSTVEC), csgen := d.cust.gen, started := true, fwd := k.fwd, dtlb := k.dtlb, mcWait := k.mcWait }

/-- What a reset of core `c` does to it: FHLOST for its resident slots, acknowledgements of its postings discarded, requests that it had
not accepted sent afresh. -/
def Dev.restartCore (d : Dev) (c : Nat) : Dev :=
  let k := d.core c
  let d := d.loseResident c
  let d := { d with ackNet := d.ackNet.filter (·.who != Requester.core c), irqNet := d.irqNet ++ k.reqs.map fun r => (c, r) }
  if k.started then d.setCore c (d.freshCore k) else d

/-- A reset of core `c`. -/
def Dev.resetCore (d : Dev) (c : Nat) : Dev :=
  ((d.restartCore c).resetRegs .island (offOfCore c)).unfence (fenceOfCore c)

/-- A reset of island `i`: operations already with its bank atomic unit, and their records, are carried to their end. -/
def Dev.resetIsland (d : Dev) (i : Nat) : Dev :=
  let d := (fromN (8 * i) 8).foldl (fun d c => (d.restartCore c).updCore c fun k => { k with dtlb := [] }) d
  let d := d.updIsl i fun x => { atomics := x.atomics, atomDone := x.atomDone, tags := x.tags, cap := x.cap }
  (d.resetRegs .island (offOfIsland i)).unfence (fenceOfIsland i)

/-! ## Cold and warm resets (R493) -/

/-- What a cold reset leaves of the device: the fuses, what the boot flash holds, Fumarole's latched trip, and, while only the rails
have dropped, Fumarole's registers. -/
def Dev.coldReset (d : Dev) (keepFum : Bool) : Dev :=
  { regs := if keepFum then d.regs.filter fun r => fumReg r.1 else [], c192 := d.c192, xgrade := d.xgrade, serial := d.serial,
    dbglock := d.dbglock, out := d.out, free := d.free, now := d.now, nextPost := d.nextPost, epochBase := d.now / 64000,
    cust := { flashA := d.cust.flashA, flashB := d.cust.flashB, prefB := d.cust.prefB, repairLog := d.cust.repairLog,
              fieldLog := d.cust.fieldLog },
    board := { rails := d.board.rails, clocks := d.board.clocks, tripped := d.board.tripped, thermtrip := d.board.thermtrip,
               wdExpired := keepFum && d.board.wdExpired } }

/-- What a warm reset leaves (R493): device memory with its metadata and placement, the error log, BANKREP, Fumarole, and the debug
paths that DEBUG-UNLOCK opened; the numbering of records continues (R421). -/
def Dev.warmReset (d : Dev) : Dev :=
  let d := if d.isStandby then d.wr offSNSEQ (d.sn.applied + 1) else d
  { d with
    regs := (d.resetRegs .warm fun _ => true).regs
    cores := [], islands := [], pus := [], queues := [], locks := [], postNet := [], ackNet := [], sigNet := [], irqNet := [],
    regNet := [], sn := {}, cal := {}, hub := {}, peers := [], farHeld := [], scrubAt := [], pf0 := {}, pf1 := {},
    epochBase := d.now / 64000
    cust := { flashA := d.cust.flashA, flashB := d.cust.flashB, prefB := d.cust.prefB, repairLog := d.cust.repairLog,
              fieldLog := d.cust.fieldLog, debugOpen := d.cust.debugOpen }
    board := { d.board with dormant := false, stopped := true, perst := true, ledgerOk := false, linkUp := false, eth0 := false, eth1 := false,
                             kick := false, step := none } }

/-- A warm reset by PERST_N, a hot reset or a lost link. One that meets a start in progress, or a halted one, restarts that start from
step 2 (R495). -/
def Dev.enterWarm (d : Dev) : Dev :=
  let again := (d.cust.starting || d.phase == 15) && !d.cust.warm
  let d := d.warmReset
  let d := { d with cust := { d.cust with starting := true, warm := !again } }
  if again then d.setFld offCUSTSTAT 3 0 1 else d

/-- WARM_RESET: without power there is nothing to reset, and a hot reset or a lost link needs a link. -/
def execWarmReset (cause : WarmCause) : State → Host.Outcome State Fault Refusal :=
  onDev fun d =>
    if d.board.railsDropped || (cause != .perst && !d.board.linkUp) then d else d.enterWarm

/-- WARM_START: PERST_N is released after a warm reset. -/
def execWarmStart : State → Host.Outcome State Fault Refusal :=
  onDev fun d => if d.board.railsDropped then d else { d with board := { d.board with perst := false } }

/-- ISLAND_RESET and CORE_RESET reach their registers in RegWrite; COLD_START: rails and clocks are in range and PERST_N is released for
the first time. -/
def execColdStart (s : State) : Host.Outcome State Fault Refusal :=
  if !s.dev.board.railsDropped || !s.fum.on then .next s
  else
    let d := { s.dev with now := s.fum.time }.coldReset false
    let d := { d with
      board := { d.board with perst := false, railsDropped := false, rails := [], clocks := d.board.clocks.filter (· != .pcie), thermtrip := false }
      cust := { d.cust with starting := true, warm := false } }
    .next { s with dev := d, fum := { s.fum with wdLeft := 64000000 } }

/-! ## The steps of a start (R478, R481) -/

/-- The image checks of R484 on a copy. -/
def imageOk (f : Fuses) (x : ImageInfo) : Bool :=
  x.readable && x.keyHashOk && !f.krev.getLsbD x.keySlot && x.signed && decide (f.svn ≤ x.svn.toNat)

/-- The step in which ERR code `e` arises (R480). -/
def errStep (e : Nat) : Nat := match e with | 1 => 1 | 2 => 3 | 3 => 4 | 4 => 5 | 5 => 6 | 6 => 7 | 7 => 8 | _ => 0

/-- The step that is to end next. -/
def Dev.nextStep (d : Dev) : Nat :=
  let p := d.phase
  if d.cust.warm && p = 0 then 2 else if d.cust.warm && p = 6 then 8 else p + 1

/-- A failed step halts the start (R480). -/
def Dev.haltStart (d : Dev) (err : Nat) : Dev :=
  let d := (d.setFld offCUSTSTAT 7 4 err).setFld offCUSTSTAT 3 0 15
  { d with cust := { d.cust with starting := false }, board := { d.board with ledgerOk := false, stopped := true } }

/-- Step 4: the preferred copy if it is accepted, else the other; none when neither is. -/
def Dev.chooseImage (d : Dev) (f : Fuses) : Option (Bool × ImageInfo) :=
  let copy (b : Bool) : ImageInfo := if b then d.cust.flashB else d.cust.flashA
  if imageOk f (copy d.cust.prefB) then some (d.cust.prefB, copy d.cust.prefB)
  else if imageOk f (copy !d.cust.prefB) then some (!d.cust.prefB, copy !d.cust.prefB)
  else none

/-- The image that runs, as CUSTSTAT.IMG names it. -/
def Dev.runningImage (d : Dev) : ImageInfo := if d.bit offCUSTSTAT 11 then d.cust.flashB else d.cust.flashA

/-- Storage places of local device memory and of the island banks. -/
def localPlace (k : Nat) : Bool := decide (k < 2 ^ 38)

/-- Step 8: banks cleared, every core at RSTVEC, the units initialised. -/
def Dev.startCores (d : Dev) : Dev :=
  let d := { d with mem := d.mem.filter fun p => localPlace p.1, parity := [], board := { d.board with stopped := false },
                    cal := { winAt := d.now, lastMs := d.now / 1000000 } }
  (upto 96).foldl (fun d c => d.setCore c { d.freshCore {} with mcWait := false }) d

/-- Step 6 of a cold start: the recorded field repairs are applied again (R475, R478). -/
def Dev.reapply (d : Dev) : Dev :=
  (upto 192).foldl (fun d k =>
    let off := offBANKREP (k / 16) (k % 16)
    match d.cust.fieldLog.find off with
    | some v => d.wr off v.toNat
    | none => d) d

/-- What step `n` does when it does not fail; none when it cannot end well, with its ERR code. -/
def Dev.startStep (d : Dev) (f : Fuses) (n : Nat) (prefB : Bool) (a b : ImageInfo) : Except Nat Dev :=
  match n with
  | 1 => .ok { d with board := { d.board with tripped := false } }
  | 2 => .ok { d with board := { d.board with linkUp := !d.board.clocks.contains .pcie } }
  | 3 => if a.readable || b.readable then .ok { d with cust := { d.cust with prefB := prefB, flashA := a, flashB := b } } else .error 2
  | 4 =>
    match d.chooseImage f with
    | some (c, x) => .ok ((d.setBit offCUSTSTAT 11 c).setFld offCUSTSTAT 23 12 x.svn.toNat)
    | none => .error 3
  | 5 =>
    let x := d.runningImage
    if x.patchTagOk then .ok { d.setFld offCUSTSTAT 31 24 x.plvl.toNat with cust := { d.cust with gen := x.plvl, loads := 0 } }
    else .error 4
  | 6 => .ok (if d.cust.warm then d else d.reapply)
  | 7 => .ok { d with mem := [], info := [], upsets := [], bandPol := [] }
  | 8 => .ok d.startCores
  | 10 => .ok { d with cust := { d.cust with starting := false }, board := { d.board with ledgerOk := true } }
  | _ => .ok d

/-- START_STEP_COMPLETE: the step in progress ends well, or with an error of that step; none while a trip has stopped the clocks, until the
next cold start (R536). -/
def execStartStepComplete (err : Fin 8) (prefB : Bool) (a b : ImageInfo) (s : State) : Host.Outcome State Fault Refusal :=
  let d := { s.dev with now := s.fum.time }
  let n := d.nextStep
  if !d.cust.starting || d.board.perst || d.board.thermtrip || (err != 0 && errStep err != n) then .next { s with dev := d }
  else if err != 0 then .next { s with dev := d.haltStart err }
  else match d.startStep s.fuses n prefB a b with
    | .ok d => .next { s with dev := d.setFld offCUSTSTAT 3 0 n }
    | .error e => .next { s with dev := d.haltStart e }

end Sys2Proof.Machine
end

