-- ==== Sys2Proof/Machine/Custody.lean ====
section
/-!
DEFINITION. The custody controller in service: mailboxes and their commands (R489, R490), live microcode loads (R486), measurements
and SPDM (R377, R492), configuration space (R479, R521), the test access port (R507, R508) and custody debug (R509).
-/

namespace Sys2Proof.Machine

/-! ## Mailboxes (R489) -/

/-- Offset of a mailbox's MBSTAT. -/
def mbStat (led : Bool) : Nat := if led then offLMB + 8 else offMBSTAT

/-- A command has ended with a status: BUSY falls, DONE, TAG and STATUS, and the message of R489. -/
def Dev.mbEnd (d : Dev) (led : Bool) (tag : Byte) (status : Nat) : Dev :=
  let d := ((d.setBit (mbStat led) 17 false).setBit (mbStat led) 16 true).setFld (mbStat led) 15 8 tag.toNat
  (d.setFld (mbStat led) 7 0 status).msix (!led) (if led then 479 else 0)

/-- A write of MBCMD that is not ignored: BUSY until the command ends (R489). -/
def Dev.mbStart (d : Dev) (c : MbCmd) : Dev :=
  { d.setBit (mbStat c.led) 17 true with cust := { d.cust with mbWait := d.cust.mbWait ++ [c] } }

/-- The values that measurement block `k` covers (R492). -/
def State.measured (s : State) (k : Nat) : List Nat :=
  let d := s.dev
  match k with
  | 2 | 4 => [flagNat (d.bit offCUSTSTAT 11), d.fld offCUSTSTAT 23 12]
  | 3 => [d.fld offCUSTSTAT 31 24, d.cust.gen.toNat, d.cust.loads]
  | 5 => [s.fuses.krev.toNat, s.fuses.svn, flagNat d.dbglock] ++ s.fuses.rootkh.map fun h => flagNat (h != 0)
  | 6 =>
    (if d.bit offFHLOCK 0 then [1, d.fld offFHCFG 14 8] else [0]) ++ (if d.bit offCPLOCK 0 then [1, d.rd offRSTVEC] else [0]) ++
    (if d.bit offCVCTL 0 then 1 :: (fromN 1 63).map (fun n => d.rd (offCVPROF n)) ++
        (upto 512).map (fun k => d.rd (offCVTBL (k / 32) (k % 32))) ++ (upto 1024).map (fun f => d.rd (offCVFLD f)) else [0])
  | _ => []

/-- The digest of measurement block `k`. -/
def State.digest (s : State) (k : Nat) : BitVec 384 := Config.measurement k (s.measured k)

/-- Put bytes into a mailbox's MBDATA from its first byte. -/
def Dev.putMbData (d : Dev) (led : Bool) (bs : List Byte) : Dev :=
  let put (m : AMap Byte) : AMap Byte := (bs.zip (upto bs.length)).foldl (fun m x => m.put x.2 x.1) m
  if led then { d with cust := { d.cust with ledData := put d.cust.ledData } }
  else { d with cust := { d.cust with hostData := put d.cust.hostData } }

/-! ## Commands (R490) -/

/-- STATUS: CUSTSTAT, then the six digests. -/
def State.mbStatus (s : State) (led : Bool) : Dev :=
  s.dev.putMbData led (natBytes 8 (s.dev.value offCUSTSTAT) ++ (fromN 1 6).flatMap fun k => natBytes 48 (s.digest k).toNat)

/-- The status of a command that the mailbox or the present state does not permit: none when it is permitted (R480, R490). -/
def Dev.mbRefused (d : Dev) (c : MbCmd) : Option Nat :=
  if c.opc = 0 ∨ 7 < c.opc.toNat ∨ (c.led ∧ c.opc ≠ 1) then some 1
  else if d.phase = 15 ∧ ¬ (c.opc = 1 ∨ c.opc = 2 ∨ c.opc = 6) then some 3
  else if c.opc = 3 ∧ d.phase ≠ 10 then some 3
  else none

/-- FLASH-WRITE: a verified image goes to the copy not in use. -/
def Dev.flash (d : Dev) (x : ImageInfo) : Dev :=
  { d with cust := if d.bit offCUSTSTAT 11 then { d.cust with flashA := x } else { d.cust with flashB := x } }

/-- MC-LOAD begins: every core is to be loaded with the named copy's patches. -/
def Dev.mcBegin (d : Dev) (tag : Byte) (x : ImageInfo) : Dev :=
  { d with
    cores := (upto 96).foldl (fun m c => m.put c { m.getD' c {} with mcWait := true }) d.cores
    cust := { d.cust with mcRun := true, mcTag := tag, mcPlvl := x.plvl } }

/-- Soft post-package repairs that stack `k` has had. -/
def Dev.repairsOf (d : Dev) (k : Nat) : Nat := (d.cust.repairLog.filter (·.1 == k)).length

/-- SOFT-REPAIR with a resource left: the repair log takes its record (R506). -/
def Dev.softRepair (d : Dev) (k ch row : Nat) : Dev :=
  { d with cust := { d.cust with repairLog := d.cust.repairLog ++ [(k, ch, row, false, d.now)] } }

/-- Set the lock bit of every block that has one (R519). -/
def Dev.lockAll (d : Dev) : Dev := ((d.setBit offCVCTL 0 true).setBit offFHLOCK 0 true).setBit offCPLOCK 0 true

/-- Run one mailbox command. -/
def State.mbRun (s : State) (c : MbCmd) : State :=
  let d := s.dev
  let fin (d : Dev) (st : Nat) : State := { s with dev := d.mbEnd c.led c.tag st }
  match d.mbRefused c with
  | some st => fin d st
  | none =>
    match c.opc.toNat with
    | 1 => fin (s.mbStatus c.led) 0
    | 2 => if imageOk s.fuses c.image then fin (d.flash c.image) 0 else fin d 4
    | 3 =>
      let x := if c.copyB then d.cust.flashB else d.cust.flashA
      if imageOk s.fuses x && x.patchTagOk then { s with dev := d.mcBegin c.tag x } else fin d 4
    | 4 => { fin d 0 with fuses := { s.fuses with svn := Nat.max s.fuses.svn (Nat.min 64 (d.fld offCUSTSTAT 23 12)) } }
    | 5 =>
      if Config.stackHasSpare c.stack c.channel (d.repairsOf c.stack) then fin (d.softRepair c.stack c.channel c.row) 0 else fin d 3
    | 6 =>
      if c.signed && c.serial == d.serial && !s.fuses.krev.getLsbD c.slot then
        fin { d with cust := { d.cust with debugOpen := true } } 0
      else fin d 4
    | _ => fin d.lockAll 0

/-- Run the commands that mailboxes have taken; while dormant they wait (R489). -/
def State.mailboxes (s : State) : State :=
  if s.dev.board.dormant then s
  else
    let cs := s.dev.cust.mbWait
    cs.foldl State.mbRun { s with dev := { s.dev with cust := { s.dev.cust with mbWait := [] } } }

/-- MC_LOAD_CORE: at an instruction boundary with no micro-routine in progress the core takes the new control store; after the last core
the command ends (R486). -/
def execMcLoadCore (c : CoreId) : State → Host.Outcome State Fault Refusal :=
  onDev fun d =>
    let k := d.core c
    if !d.active || !d.cust.mcRun || !k.mcWait || k.micro.isSome || !k.ext.isEmpty || k.entry.isSome then d
    else
      let gen := d.cust.mcPlvl + BitVec.ofNat 8 d.cust.loads
      let d := d.setCore c { k with csgen := gen, mcWait := false }
      if (upto 96).any fun j => (d.core j).mcWait then d
      else
        let d := d.setFld offCUSTSTAT 31 24 d.cust.mcPlvl.toNat
        { d with cust := { d.cust with mcRun := false, loads := d.cust.loads + 1, gen := gen } }.mbEnd false d.cust.mcTag 0

/-! ## Attestation -/

/-- The SPDM request code, as a number for the response's free bytes. -/
def spdmNumber : SpdmCode → Nat
  | .getVersion => 0
  | .getCapabilities => 1
  | .negotiateAlgorithms => 2
  | .getDigests => 3
  | .getCertificate => 4
  | .challenge => 5
  | .getMeasurements => 6
  | .unsupported => 7

/-- Whether the custody core answers: it has booted and is neither reset, tripped nor dormant. -/
def Dev.custodyUp (d : Dev) : Bool :=
  decide (2 ≤ d.phase) && !d.board.perst && !d.board.railsDropped && !d.board.dormant && !d.board.thermtrip

/-- SPDM_REQUEST: a response of version 1.2 on the same transport; an unsupported request is answered as such, NEGOTIATE_ALGORITHMS selects
ECDSA P-384 and SHA-384, and GET_MEASUREMENTS carries the digests of the blocks that its parameter names, an index
or 0xFF for all (R377, R492). -/
def execSpdmRequest (transport : Transport) (code : SpdmCode) (param : Byte) (s : State) : Host.Outcome State Fault Refusal :=
  let d := { s.dev with now := s.fum.time }
  if !d.custodyUp || (transport == .pcieVdm && !d.board.linkUp) then .next { s with dev := d }
  else
    let blocks := if code = .getMeasurements then
        (if param = 0xFF then fromN 1 6 else if 1 ≤ param.toNat ∧ param.toNat ≤ 6 then [param.toNat] else [])
      else []
    let r : SpdmReply :=
      if code = .unsupported then { version := 0x12, supported := false }
      else { version := 0x12, supported := true, algs := if code = .negotiateAlgorithms then [.ecdsaP384, .sha384] else [],
             digests := blocks.map s.digest, rest := Config.spdmBody (spdmNumber code) param d.free }
    .next { s with dev := (d.send (.spdm transport r)).bumpFree }

/-! ## Configuration space -/

/-- log2 of the size of a function's base address register, and whether it is prefetchable (R376); none: the function has no such BAR. -/
def barInfo (f : Bool) : Nat → Option (Nat × Bool)
  | 0 => some (if f then 28 else 25, false)
  | 2 => some (if f then 16 else 20, false)
  | 4 => if f then none else some (36, true)
  | _ => none

/-- Dword `n` of the base address registers: each is 64-bit and takes two dwords. The places of the type and prefetchable bits are those of
PCI Express (log entry 131, PRESUMED). -/
def Dev.barRead (d : Dev) (f : Bool) (n : Nat) : Nat :=
  match barInfo f (n / 2 * 2) with
  | some (_, pre) =>
    let a := (d.fn f).bars.getD' (n / 2 * 2) 0
    if n % 2 = 0 then a % 2 ^ 32 + 4 + 8 * flagNat pre else a / 2 ^ 32 % 2 ^ 32
  | none => 0

/-- A write of that dword: the address bits above the size are kept. -/
def PcieFn.barWrite (x : PcieFn) (f : Bool) (n v : Nat) : PcieFn :=
  match barInfo f (n / 2 * 2) with
  | some (k, _) =>
    let a := x.bars.getD' (n / 2 * 2) 0
    let a := if n % 2 = 0 then a / 2 ^ 32 * 2 ^ 32 + v else v * 2 ^ 32 + a % 2 ^ 32
    { x with bars := x.bars.put (n / 2 * 2) (a / 2 ^ k * 2 ^ k) }
  | none => x

/-- The value of a configuration field of a function (R374, R376, R521); sizes are in bytes. -/
def Dev.cfgRead (d : Dev) (f : Bool) : CfgField → Nat
  | .vendorId => 0x1C6B
  | .deviceId => if f then 0x0937 else 0x0936
  | .revisionId => 0x11
  | .classCode => 0x120000
  | .maxPayload => 512
  | .maxReadRequest => 4096
  | .aer | .aspmSupport => 1
  | .ecrcGeneration => flagNat (d.fn f).ecrcGeneration
  | .ecrcCheck => flagNat (d.fn f).ecrcCheck
  | .aspmL1 => flagNat (d.fn f).aspmL1
  | .serialLow => d.serial.toNat % 2 ^ 32
  | .serialHigh => d.serial.toNat / 2 ^ 32
  | .bar n => d.barRead f n
  | .subsystemVendorId => 0x1C6B
  | .subsystemId => 1 + flagNat d.c192 + 2 * flagNat d.xgrade
  | .busMaster => flagNat (d.fn f).busMaster
  | .msixEnable => flagNat (d.fn f).msixEnable
  | .msixMask => flagNat (d.fn f).msixMask
  | .d3hot => flagNat (d.fn f).d3hot
  | .completionTimeout => (d.fn f).timeout.toNat

/-- Send the pending messages of vectors that nothing masks any more. -/
def Dev.sendPending (d : Dev) (f : Bool) : Dev :=
  let x := d.fn f
  if !x.msixEnable || x.msixMask then d
  else
    let open' := x.pba.filter fun v => !(x.table.getD' v (0, 0, true)).2.2
    open'.foldl (fun d v => d.msix f v) (d.setFn f { x with pba := x.pba.filter fun v => !open'.contains v })

/-- A configuration write: identity and capabilities are read-only. -/
def Dev.cfgWrite (d : Dev) (f : Bool) (k : CfgField) (v : BitVec 32) : Dev :=
  let x := d.fn f
  let b := v.getLsbD 0
  match k with
  | .busMaster => d.setFn f { x with busMaster := b }
  | .msixEnable => (d.setFn f { x with msixEnable := b }).sendPending f
  | .msixMask => (d.setFn f { x with msixMask := b }).sendPending f
  | .d3hot => d.setFn f { x with d3hot := b }
  | .ecrcGeneration => d.setFn f { x with ecrcGeneration := b }
  | .ecrcCheck => d.setFn f { x with ecrcCheck := b }
  | .aspmL1 => d.setFn f { x with aspmL1 := b }
  | .bar n => d.setFn f (x.barWrite f n v.toNat)
  | .completionTimeout => d.setFn f { x with timeout := BitVec.ofNat 4 v.toNat }
  | _ => d

/-- CONFIGURATION_REQUEST: retry status until step 2 has ended (R479); without power or with PERST_N low nothing answers (R25). -/
def execConfigurationRequest (fn : Bool) (r : CfgReq) : State → Host.Outcome State Fault Refusal :=
  onDev fun d =>
    if d.board.perst || d.board.railsDropped || d.board.thermtrip then d
    else if !d.board.linkUp then d.send .cfgRetry
    else match r with
      | .read f => d.send (.cfgData (BitVec.ofNat 32 (d.cfgRead fn f)))
      | .write f v => d.cfgWrite fn f v

/-! ## Test access and custody debug -/

/-- Whether the TAP accepts an operation (R507, R508). -/
def Dev.tapOk (d : Dev) : TapOp → Bool
  | .idcode | .bypass | .samplePreload => true
  | .extest => d.board.perst
  | .ieee1500 => !d.debugLocked
  | .bist => !d.debugLocked && d.board.perst

/-- TAP_INSTRUCTION: a refused operation leaves the TAP in BYPASS; without power there is no TAP (R25, R527). -/
def execTapInstruction (t : TapOp) : State → Host.Outcome State Fault Refusal :=
  onDev fun d =>
    let u := if d.tapOk t then t else .bypass
    if d.board.railsDropped then d else { d with board := { d.board with tap := u } }.send (.tap u)

/-- Whether custody debug reaches a cell address: local device memory or an island bank (R509). -/
def Dev.debugReach (d : Dev) (a : Nat) : Bool :=
  match d.region a with
  | .localMem | .bank _ => true
  | _ => false

/-- A custody debug write: banks only while OWNER is 6, after a handover to it that is PENDING (R321, R323); device memory without a
record (R420). It invalidates the copies of the lines in the code caches, as every custody write into code space does (R245). -/
def Dev.debugWrite (d : Dev) (ps : List PLoc) (cs : List Cell) : Dev :=
  if ps.any fun p => d.ownCheck p.addr 6 == .refused then d.send .debugRefused
  else if ps.any fun p => d.ownCheck p.addr 6 == .waits then d
  else (ps.map (·.addr / 64)).eraseDups.foldl Dev.dropCode (d.writeLoc { cells := ps } cs 12 none)

/-- The metadata of the lines of local memory that hold the listed cells (R42). -/
def Dev.debugInfos (d : Dev) (ps : List PLoc) : List (BitVec 128) :=
  (lineRuns (ps.filter (·.isLocal))).filterMap fun r => r.head?.map fun p => metaBits (d.lineInfo p)

/-- What a custody debug read delivers: a bank read that meets a write of the other port delivers undefined cells, flagged BUSY (R324). -/
def Dev.debugRead (d : Dev) (ps : List PLoc) (busy : Bool) : Dev :=
  let d := d.readLines ps
  if busy && ps.any fun p => !p.isLocal then
    (d.send (.debugData ((upto ps.length).map fun k => Config.freeCell (d.free + k)) (d.debugInfos ps) true)).bumpFree
  else d.send (.debugData (d.cells ps) (d.debugInfos ps) false)

/-- CUSTODY_DEBUG_ACCESS: refused while debug is locked; it waits behind postings and holds. -/
def execCustodyDebugAccess (addr : BitVec 44) (data : Option (List Cell)) (n : Nat) (busy : Bool) (s : State) :
    Host.Outcome State Fault Refusal :=
  let d := { s.dev with now := s.fum.time }
  let len := match data with | some cs => cs.length | none => n
  let ps := d.physN addr.toNat len
  if d.debugLocked then .next { s with dev := d.send .debugRefused }
  else match ps.find? fun p => !d.debugReach p.addr with
    | some p => .fault (.noStorage p.addr)
    | none =>
      if !d.active || d.postQueued ps || ps.any fun p => !p.isLocal && d.bankHeld p.addr then .next { s with dev := d }
      else match data with
        | some cs => .next { s with dev := d.debugWrite ps cs }
        | none => .next { s with dev := d.debugRead ps busy }

end Sys2Proof.Machine
end

