-- ==== Sys2Proof/Machine/Power.lean ====
section
/-!
DEFINITION. Power states and clocks (R496 to R501), Fumarole's comparators, watchdog and time steps (R502 to R505), temperature (R535,
R536), rails and reference clocks (R532, R534).
-/

namespace Sys2Proof.Machine

/-! ## Dormant (R498, R499) -/

/-- The first cause that refuses dormant; 0 for none (R498, R501). -/
def Dev.dormantRefusal (d : Dev) : Nat :=
  if d.pair = 1 ∨ d.pair = 2 then 1
  else if d.islands.any fun i => !i.2.ctxs.isEmpty then 2
  else if !d.quiet || d.islands.any (fun i => !i.2.atomics.isEmpty || !i.2.atomDone.isEmpty) then 3
  else if !d.cal.moves.isEmpty then 4
  else 0

/-- A request for dormant. -/
def Dev.requestDormant (d : Dev) : Dev :=
  if d.board.dormant then d
  else
    let r := d.dormantRefusal
    let d := d.setFld offPWRSTAT 11 8 r
    if r ≠ 0 then d
    else { d.setFld offPWRSTAT 1 0 1 with board := { d.board with dormant := true }, cust := { d.cust with retained := true } }

/-- FUM_WAKE_ASSERT: at least 1 µs. -/
def execFumWakeAssert (ns : Nat) : State → Host.Outcome State Fault Refusal :=
  onDev fun d => if 1000 ≤ ns then d.wake else d

/-- The device is Active again: latched doorbells are raised, and idle cores look for work (R499). -/
def Dev.resume (d : Dev) : Dev :=
  let d := { d.setFld offPWRSTAT 1 0 0 with
    board := { d.board with dormant := false }, cust := { d.cust with retained := false }
    queues := d.queues.map fun q => (q.1, { q.2 with latched := false }) }
  (upto 96).foldl Dev.wakeIdle d

/-- WAKE_COMPLETE: a mismatch of the retained hash turns the wake into a warm start (R499). -/
def execWakeComplete (hashOk : Bool) (s : State) : Host.Outcome State Fault Refusal :=
  let d := { s.dev with now := s.fum.time }
  if !d.board.dormant || d.fld offPWRSTAT 1 0 != 2 then .next { s with dev := d }
  else if hashOk then .next { s with dev := d.resume }.mailboxes
  else
    let d := d.enterWarm
    .next { s with dev := { d with board := { d.board with perst := false } } }

/-! ## Island clocks (R497, R535) -/

/-- Whether an island may be gated. -/
def Dev.mayGate (d : Dev) (i : Nat) : Bool :=
  d.bit (offISLCLK i) 8 && ((fromN (8 * i) 8).all fun c => ((d.core c).idle || (d.core c).fenced) && (d.core c).sbuf.isEmpty) &&
  (d.isl i).running.isNone && (d.isl i).order.isEmpty && (d.isl i).atomics.isEmpty

/-- ISLAND_GATE. -/
def execIslandGate (i : IslandId) : State → Host.Outcome State Fault Refusal :=
  onDev fun d => if d.active && d.mayGate i then d.setBit (offISLCLK i) 9 true else d

/-- ISLAND_UNGATE. -/
def execIslandUngate (i : IslandId) : State → Host.Outcome State Fault Refusal :=
  onDev fun d => d.setBit (offISLCLK i) 9 false

/-- THROTTLE_STEP: at the throttle point the cap of every island of the die falls, 3 °C below it the cap rises to FREQ at most. -/
def execThrottleStep (die : Bool) (tempHalfC : Int) : State → Host.Outcome State Fault Refusal :=
  onDev fun d =>
    let top : Int := if d.xgrade then 196 else 186
    (fromN (if die then 6 else 0) 6).foldl (fun d i =>
      let freq := d.fld (offISLCLK i) 4 0
      let cap := (d.isl i).cap
      let new := if top ≤ tempHalfC then Nat.max 4 (Nat.min cap freq - 1) else if tempHalfC ≤ top - 6 then Nat.min freq (cap + 1) else cap
      d.updIsl i fun x => { x with cap := new }) d

/-- A paired primary sends its dying gasp (R439). -/
def Dev.gasp (d : Dev) : Dev := if d.pair = 2 ∧ !d.roleStandby ∧ d.mode ≠ 3 then d.send .dyingGasp else d

/-- THERMAL_TRIP (R536): gasp, clocks stop, LEDGER_OK and TWIN_ARB released, THERMTRIP_N low, the trip latched. -/
def execThermalTrip (stack : Bool) (tempHalfC : Int) : State → Host.Outcome State Fault Refusal :=
  onDev fun d =>
    let limit : Int := if !stack && d.xgrade then 220 else 210
    if tempHalfC < limit || d.board.railsDropped then d
    else
      let d := d.gasp
      let b := { d.board with stopped := true, ledgerOk := false, linkUp := false, eth0 := false, eth1 := false }
      { d with board := { b with thermtrip := true, tripped := true }, sn := { d.sn with arbLow := false } }

/-! ## Comparators, watchdog and time (R502 to R505) -/

/-- The time-comparator event of comparator `n`: 0 to 7 name ledger slots only (R503). -/
def Dev.comparatorEvent (d : Dev) (n : Nat) : Dev :=
  let c := d.fld (offFCMPC n) 23 17
  let s := d.fld (offFCMPC n) 16 11
  if 96 ≤ c || (decide (n < 8) && ((d.core c).slot s).world && ((d.core c).slot s).valid) then d.logEvent 0x17 1 c 0 0 (s * 256 + 3)
  else d.schedEvent c s 3 d.now

/-- The actions of a match. -/
def Dev.matchActions (d : Dev) (n : Nat) : Dev :=
  let v := d.rd (offFCMPC n)
  let d := if bitOf v 1 then d.raise (896 + n) else d
  let d := if bitOf v 2 then d.comparatorEvent n else d
  if bitOf v 3 then d.wake else d

/-- A one-shot comparator clears EN; a periodic one advances past the time base and counts the periods skipped, and `extra`. -/
def Dev.rearm (d : Dev) (n extra : Nat) : Dev :=
  let p := d.fld (offFCMPC n) 63 32
  let t := d.rd (offFCMPT n)
  if p = 0 then (d.setBit (offFCMPC n) 0 false).addSat (offFCMPC n) 31 24 extra
  else
    let k := (d.now - t) / p + 1
    (d.wr (offFCMPT n) (t + k * p)).addSat (offFCMPC n) 31 24 (k - 1 + extra)

/-- COMPARATOR_MATCH: the time base is at or beyond TARGET. In Off a match is recorded as MISS and raises nothing (R500). -/
def execComparatorMatch (n : Fin 16) : State → Host.Outcome State Fault Refusal :=
  onDev fun d =>
    if !d.bit (offFCMPC n) 0 || decide (d.now < d.rd (offFCMPT n)) then d
    else if d.board.railsDropped then d.rearm n 1
    else (d.matchActions n).rearm n 0

/-- ANALOG_ALARM: input `k` crosses THRESH in direction DIR, or has returned by HYST (R504). -/
def execAnalogAlarm (k : Fin 4) (input : BitVec 10) : State → Host.Outcome State Fault Refusal :=
  onDev fun d =>
    let v := d.rd (offFANA k)
    let x := input.toNat
    let th := bitsOf v 9 0
    let hy := bitsOf v 25 16
    let below := bitOf v 30
    if !bitOf v 31 then
      if (if below then decide (x < th) else decide (th < x)) then
        let d := (d.setBit (offFANA k) 31 true).raise (912 + k)
        if k = 3 then d.gasp else d
      else d
    else if (if below then decide (th + hy ≤ x) else decide (x + hy ≤ th)) then d.setBit (offFANA k) 31 false
    else d

/-- The watchdog's period in ns. -/
def Dev.wdPeriod (d : Dev) : Nat := d.fld offFWD 15 0 * 64000

/-- WATCHDOG_EXPIRY: the count has run out; the second time without a kick, the custody core is lost (R505). -/
def execWatchdogExpiry (s : State) : Host.Outcome State Fault Refusal :=
  let d := { s.dev with now := s.fum.time }
  if !d.bit offFWD 16 || s.fum.wdLeft ≠ 0 then .next { s with dev := d }
  else
    let d' := if !d.board.wdExpired then { d with board := { d.board with wdExpired := true } }.raise 916
              else if d.hub.fenced.contains .custodyCore || d.hub.lasting.any (fun u => u.1 == UnitRef.custodyCore) then d
              else d.updHub fun h => { h with lasting := h.lasting ++ [(.custodyCore, d.now)] }
    .next { s with dev := d', fum := { s.fum with wdLeft := d.wdPeriod } }

/-- A step of the time base (R502): positive at once, negative absorbed at half rate. -/
def Fumarole.stepBy (f : Fumarole) (v : BitVec 32) : Fumarole :=
  let x := v.toInt
  if 0 ≤ x then { f with time := f.time + x.toNat } else { f with absorb := f.absorb + (-x).toNat * 2 ^ 32 }

/-- What a command has sent on to Fumarole and to the custody controller: a step, a kick, mailbox commands. -/
def State.settle (s : State) : State :=
  let b := s.dev.board
  let f := match b.step with | some v => s.fum.stepBy v | none => s.fum
  let f := if b.kick then { f with wdLeft := s.dev.wdPeriod } else f
  let b := { b with step := none, kick := false, wdExpired := b.wdExpired && !b.kick }
  { s with fum := f, dev := { s.dev with board := b } }.mailboxes

/-- VAON_POWER_UP: the time base starts at 0. -/
def execVaonPowerUp (s : State) : Host.Outcome State Fault Refusal :=
  if s.fum.on then .next s else .next { s with fum := { on := true } }

/-- VAON_REMOVAL: the device is reset, and Fumarole stops and loses its time (R532). -/
def execVaonRemoval (s : State) : Host.Outcome State Fault Refusal :=
  let d := { s.dev with now := 0 }.coldReset false
  .next { s with dev := { d with board := { d.board with tripped := false, thermtrip := false } }, fum := { on := false } }

/-! ## Rails and clocks (R532, R534) -/

/-- RAIL_DROP: an immediate internal reset; the next start is cold. -/
def execRailDrop (rail : Rail) : State → Host.Outcome State Fault Refusal :=
  onDev fun d =>
    let d := d.coldReset true
    { d with board := { d.board with rails := if d.board.rails.contains rail then d.board.rails else d.board.rails ++ [rail] } }

/-- What the loss of a reference clock does to the device. -/
def Dev.clockLoss (d : Dev) (clk : RefClock) : Dev :=
  let d := { d with board := { d.board with clocks := if d.board.clocks.contains clk then d.board.clocks else d.board.clocks ++ [clk] } }
  match clk with
  | .sysclk => if d.active then d.deviceLevel (.device 0 0) else d
  | .pcie => if d.board.linkUp then d.enterWarm else d
  | .eth => (d.ethLink false false).ethLink true false
  | .fum => d

/-- REFCLOCK_LOSS. -/
def execRefclockLoss (clk : RefClock) (s : State) : Host.Outcome State Fault Refusal :=
  let d := { s.dev with now := s.fum.time }.clockLoss clk
  .next { s with dev := d, fum := if clk = .fum then { s.fum with clockLost := true } else s.fum }

end Sys2Proof.Machine
end

