-- ==== Sys2Proof/Machine/RegWrite.lean ====
section
/-!
DEFINITION. Writes of registers through the views (R479, R511 to R519): which part of an access reaches a register, and what a write does
beside the common rules of its fields.
-/

namespace Sys2Proof.Machine

/-! ## Registers whose writes act on their unit -/

/-- Routing fields of ISRC: EN, WORLD, LEVEL, VECTOR, CORE (R221). -/
def isrcRouting (v : Nat) : Nat := bitsOf v 61 42

/-- ISRC`n` takes its fields: LEVEL 7 becomes 0 but for the fault hub's sources, and a routing change while PEND is 1 sends the request
afresh (R221, R222). SWSET raises the source, a reserved one too, of which R220 says that no unit raises it (log entry 135, DESIGN
CHOICE). -/
def Dev.isrcWrite (d : Dev) (n nv : Nat) (sw : Bool) : Dev :=
  let nv := if decide (n < 1008) && bitsOf nv 59 57 == 7 then setBits nv 59 57 0 else nv
  let moved := bitOf nv 63 && isrcRouting nv != isrcRouting (d.rd (offISRC n))
  let d := d.wr (offISRC n) nv
  let d := if moved then
      let d := d.withdraw n
      match d.routed n with
      | some r => { d with irqNet := d.irqNet ++ [r] }
      | none => d
    else d
  if sw then d.raise n else d

/-- FWD: TIMEOUT 0 is stored as 1, EN stays set once FWDLOCK is, and a kick or a new EN reloads the count (R505). -/
def Dev.fwdWrite (d : Dev) (nv w : Nat) (kick : Bool) : Dev :=
  let old := d.rd offFWD
  let nv := if bitsOf nv 15 0 = 0 then setBits nv 15 0 1 else nv
  let refuse := bitOf old 32 && bitOf old 16 && !bitOf nv 16
  let nv := if refuse then setBits nv 16 16 1 else nv
  let d := d.wr offFWD nv
  let d := if refuse then d.logIgnored offFWD w else d
  if kick || (bitOf nv 16 && !bitOf old 16) then { d with board := { d.board with kick := true } } else d

/-- FTBADJ: RATE, and a step on its way to the time base (R502). -/
def Dev.ftbadjWrite (d : Dev) (nv w : Nat) (step : Bool) : Dev :=
  let d := d.wr offFTBADJ nv
  if step then { d with board := { d.board with step := some (BitVec.ofNat 32 w) } } else d

/-- Image facts that no rule gives a place in MBDATA: bits of a free value (log entry 5). -/
def freeImage (n : Nat) : ImageInfo :=
  let v := (Config.freeWord n).toNat
  { readable := bitOf v 0, keySlot := Fin.ofNat 4 (bitsOf v 2 1), keyHashOk := bitOf v 3, signed := bitOf v 4,
    svn := BitVec.ofNat 12 (bitsOf v 16 5), plvl := BitVec.ofNat 8 (bitsOf v 24 17), patchTagOk := bitOf v 25 }

/-- The command that MBCMD starts, with parameters read from MBDATA at places that the manual does not give. -/
def Dev.mbCommand (d : Dev) (led : Bool) (opc tag : Byte) : MbCmd :=
  let v := (Config.freeWord (d.free + 1)).toNat
  { led := led, opc := opc, tag := tag, image := freeImage d.free, copyB := bitOf v 0, stack := bitsOf v 3 1, channel := bitsOf v 8 4,
    row := bitsOf v 35 9, serial := BitVec.ofNat 64 (Config.freeWord (d.free + 2)).toNat, slot := Fin.ofNat 4 (bitsOf v 10 9),
    signed := bitOf v 11 }

/-- A command at a mailbox: ignored and logged while BUSY is 1 (R489). -/
def Dev.mbWrite (d : Dev) (off w : Nat) (c : MbCmd) : Dev :=
  if d.bit (mbStat c.led) 17 then d.logIgnored off w else d.mbStart c

/-- BANKOWN.OWNER: 7 changes nothing and is logged; FORCE makes the handover a forced one (R322, R323). -/
def Dev.bankownWrite (d : Dev) (i b w : Nat) (force : Bool) : Dev :=
  let o := bitsOf w 2 0
  if o = 7 then d.logIgnored (offBANKOWN i b) w
  else if force then d.force i b (BitVec.ofNat 3 o) else d.handover i b (BitVec.ofNat 3 o)

/-- CCPIN: PINW 5 to 7 is stored as 4; PINCLR invalidates the lines in pinned ways, those below PINW as it was before the write
(R239; log entry 120, DESIGN CHOICE). -/
def Dev.ccpinWrite (d : Dev) (i nv : Nat) (clear : Bool) : Dev :=
  let old := d.fld (offCCPIN i) 2 0
  let d := d.wr (offCCPIN i) (setBits nv 2 0 (Nat.min 4 (bitsOf nv 2 0)))
  d.updIsl i fun x => { x with ccache := if clear then x.ccache.filter fun e => decide (old ≤ e.2) else x.ccache }

/-- SNCFG: values out of range as stored, and MODE and ROLE change in SOLO only (R417, R451). -/
def Dev.sncfgWrite (d : Dev) (nv w : Nat) : Dev :=
  if d.pair ≠ 0 ∧ bitsOf nv 2 0 ≠ d.fld offSNCFG 2 0 then d.logIgnored offSNCFG w
  else
    let lag := Nat.max 1 (Nat.min 150 (bitsOf nv 47 40))
    let nv := setBits nv 47 40 lag
    let nv := if 4 ≤ bitsOf nv 39 36 then setBits nv 39 36 0 else nv
    d.wr offSNCFG nv

/-- SNCMD: a whole CMD field is a command (R451). -/
def Dev.sncmdWrite (d : Dev) (w : Nat) (cmd force : Bool) : Dev :=
  if cmd then d.sncmd (bitsOf w 3 0) (force && bitOf w 8) w else d

/-- ISLRST: every named island (R494, R501). -/
def Dev.islrst (d : Dev) (mask : Nat) : Dev := (upto 12).foldl (fun d i => if bitOf mask i then d.resetIsland i else d) d

/-- CORERST: bit 7 starts the reset of the named core. -/
def Dev.corerst (d : Dev) (w : Nat) : Dev :=
  if !bitOf w 7 then d else if bitsOf w 6 0 < 96 then d.resetCore (bitsOf w 6 0) else d.logIgnored offCORERST w

/-- DBGC: HALT halts the core at the next point at which events are taken, or resumes it; STEP acts while HALTED is 1 (R523). -/
def Dev.dbgcWrite (d : Dev) (c nv : Nat) (step : Bool) : Dev :=
  let d := d.wr (offDBGC c) nv
  let k := d.core c
  let d := if bitOf nv 0 then (if k.ext.isEmpty && k.entry.isNone then d.setBit (offDBGC c) 1 true else d)
           else if d.bit (offDBGC c) 1 then (d.setBit (offDBGC c) 1 false).wakeIdle c else d
  if step && d.bit (offDBGC c) 1 then d.updCore c fun k => { k with stepArmed := true } else d

/-- TRCTL: NFRM 0 is stored as 1, and EN from 0 to 1 restarts the buffer (R523). -/
def Dev.trctlWrite (d : Dev) (i nv : Nat) : Dev :=
  let nv := if bitsOf nv 31 16 = 0 then setBits nv 31 16 1 else nv
  let start := bitOf nv 0 && !d.bit (offTRCTL i) 0
  let d := d.wr (offTRCTL i) nv
  if start then d.setFld (offTRBASE i) 63 32 0 else d

/-- Aged entries of every island go (R352). -/
def Dev.ageAll (d : Dev) : Dev := (upto 12).foldl Dev.ageIsland d

/-- A field's value, or `m` where it is 0. -/
def nonzeroFld (nv hi lo m : Nat) : Nat := if bitsOf nv hi lo = 0 then setBits nv hi lo m else nv

/-! ## Writes by register -/

/-- What a write of bits `bhi:blo` does at the register `key`, whose fields would take `nv`; `w` holds the written bits in place. -/
def Dev.regEffect (d : Dev) (v : View) (key bhi blo w nv : Nat) : Dev :=
  let ok (hi lo : Nat) : Bool := d.actionOk v key hi lo bhi blo
  if key = offEPOCHAGE then (d.wr key nv).ageAll
  else if key = offFTBADJ then d.ftbadjWrite nv w (ok 31 0)
  else if key = offFWD then d.fwdWrite nv w (ok 31 24 && bitsOf w 31 24 == 0xA5)
  else if key = offMBCMD ∨ key = offLMB then
    if ok 7 0 then
      d.bumpFree.mbWrite (key % 0x10000000) w (d.mbCommand (key == offLMB) (BitVec.ofNat 8 w) (BitVec.ofNat 8 (bitsOf w 15 8)))
    else d
  else if key = offFHCFG then d.wr key (nonzeroFld nv 7 0 1)
  else if key = offPWRCTL then (if ok 0 0 && bitOf w 0 then d.requestDormant else d)
  else if key = offISLRST then (if ok 11 0 then d.islrst w else d)
  else if key = offCORERST then (if ok 7 7 then d.corerst w else d)
  else if key = offSNCFG then d.sncfgWrite nv w
  else if key = offSNCMD then d.sncmdWrite w (ok 3 0) (ok 8 8)
  else if key = offSNJRNL then d.wr key (setBits nv 36 32 (Nat.max 10 (Nat.min 24 (bitsOf nv 36 32))))
  else if key = offCLCTL then d.wr key (nonzeroFld nv 31 24 1)
  else if key = offCLTHR then d.wr key (nonzeroFld (setBits nv 19 16 (Nat.max 9 (bitsOf nv 19 16))) 51 48 1)
  else if key = offCLFRZ then (d.wr key nv).clfrzWritten
  else if key = offCLHTB then (let d' := d.wr key nv; if bhi = 63 ∧ bitOf nv 63 then d'.loadBands else d')
  else match regIdx key (offISRC 0) 8 1024 with
  | some n => d.isrcWrite n nv (ok 62 62 && bitOf w 62)
  | none => match regIdx key (offQ 0 0) 8 2176 with
  | some k =>
    let q := k / 8
    match k % 8 with
    | 2 => d.qcfgWrite q nv (ok 57 57 && bitOf w 57) key w
    | 7 => if ok 15 0 && ok 23 16 then d.qdoneWrite q (if bhi = 63 then w else w % 2 ^ 24) key else d
    | r => d.queueRegWrite q r nv key w
  | none => match regIdx key (offISLCLK 0) 8 12 with
  | some _ => d.wr key (setBits nv 4 0 (Nat.max 4 (Nat.min 22 (bitsOf nv 4 0))))
  | none => match regIdx key (offPLWIN 0) 8 32 with
  | some p => (let d' := d.wr key nv; if d.bit key 63 && !bitOf nv 63 then d'.windowCleared p else d')
  | none => match regIdx key (offMCSCRUB 0) 0x40000 8 with
  | some _ => d.wr key (nonzeroFld nv 15 0 1)
  | none => match regIdx key (offDBGC 0) 0x100 96 with
  | some c => d.dbgcWrite c nv (ok 2 2 && bitOf w 2)
  | none => match regIdx key (offTRCTL 0) 0x100 12 with
  | some i => d.trctlWrite i nv
  | none =>
    if 0x1000000 ≤ key ∧ key < 0x1C00000 then
      let i := (key - 0x1000000) / 0x100000
      let o := (key - 0x1000000) % 0x100000
      if o = 0x200 then d.ccpinWrite i nv (ok 16 16 && bitOf w 16)
      else match regIdx o 0x10000 8 16, regIdx o 0x10080 8 16 with
      | some b, _ => if blo = 0 then d.bankownWrite i b w (ok 7 7 && bitOf w 7) else d
      | none, some b => if blo = 0 then d.bankrep i b nv w key else d
      | none, none => d.wr key nv
    else d.wr key nv

/-- Whether the register block at `key` lets this view write any of it: a view that may not (R512) takes no action there. -/
def Dev.viewWrites (d : Dev) (v : View) (key : Nat) : Bool :=
  !viewPf0 v || ((regFields key).getD []).any fun f => d.pf0May key f true

/-! ## Accesses -/

/-- Whether the register block answers a view: before ledger ready PF0 reaches nothing, and before the cores start PF1 reaches the
identity block and the mailbox block only (R479); the windows answer the device's own cores. -/
def Dev.answers (d : Dev) (v : View) (off : Nat) : Bool :=
  match v with
  | .cwin | .lwin => !d.board.stopped
  | .bells _ => false
  | .pf0 => d.board.linkUp && d.phase == 10
  | .pf1 => d.board.linkUp && (!d.board.stopped || (decide (2 ≤ d.phase) && (decide (off < 0x1000) || (decide (0x20000 ≤ off) && decide (off < 0x30000)))))

/-- Whether an access through a view reaches the device at all: the host's while the link is up, a core's while the cores run (R25). -/
def Dev.reaches (d : Dev) : View → Bool
  | .cwin | .lwin => !d.board.stopped
  | _ => d.board.linkUp

/-- A dword of a function's MSI-X table takes a value; clearing the mask sends a pending message (R376, R402). -/
def Dev.msixWrite (d : Dev) (fn : Bool) (k w : Nat) : Dev :=
  let x := d.fn fn
  let (a, dt, m) := x.table.getD' (k / 4) (0, 0, true)
  let put (e : Nat × BitVec 32 × Bool) : Dev := d.setFn fn { x with table := x.table.put (k / 4) e }
  match k % 4 with
  | 0 => put (a / 2 ^ 32 * 2 ^ 32 + w % 2 ^ 32, dt, m)
  | 1 => put (w % 2 ^ 32 * 2 ^ 32 + a % 2 ^ 32, dt, m)
  | 2 => put (a, BitVec.ofNat 32 w, m)
  | _ => if bitOf w 0 then put (a, dt, true) else d.unmask fn (k / 4)

/-- Bytes of MBDATA from byte `k`. -/
def Dev.mbDataWrite (d : Dev) (led : Bool) (k : Nat) (bs : List Byte) : Dev :=
  let put (m : AMap Byte) : AMap Byte := (bs.zip (fromN k bs.length)).foldl (fun m x => m.put x.2 x.1) m
  if led then { d with cust := { d.cust with ledData := put d.cust.ledData } }
  else { d with cust := { d.cust with hostData := put d.cust.hostData } }

/-- Offsets that a chapter assigns and that take nothing: profile 0 and window 0 (R414, R452). -/
def offVoid (off : Nat) : Bool := off == offCVPROF 0 || off == offPLWIN 0

/-- A write of 8 bytes, or of an aligned 4, of the register at `base`, a multiple of 8: bits `bhi:blo`, written in place as `w`. -/
def Dev.writeReg (d : Dev) (v : View) (base bhi blo w : Nat) : Dev :=
  let n := (bhi + 1 - blo) / 8
  if 0x1F00000 ≤ base ∧ base < 0x1F00000 + 16 * msixSize (!viewPf0 v) then
    let k := (base - 0x1F00000) / 4
    let d := if blo = 0 then d.msixWrite (!viewPf0 v) k w else d
    if bhi = 63 then d.msixWrite (!viewPf0 v) (k + 1) (w / 2 ^ 32) else d
  else if 0x1F80000 ≤ base ∧ base < 0x1F80000 + 64 then d
  else match mbData v base with
  | some (led, k) => d.mbDataWrite led (k + blo / 8) (natBytes n (w / 2 ^ blo))
  | none =>
    let key := regKey v base
    if offVoid base then d
    else if (0x2000000 ≤ base ∧ (viewPf0 v ∨ d.debugLocked)) ∨ (regFields key).isNone then d.logIgnored base w
    else
      let (nv, d) := d.mergeWrite v base key bhi blo w
      if d.viewWrites v key then d.regEffect v key bhi blo w nv else d

/-- One register's part of an access: `n` bytes from byte `b` of the register at `base`; sizes and alignments other than 8 and aligned 4
are discarded and logged (R514). -/
def Dev.writePart (d : Dev) (v : View) (base b n x : Nat) : Dev :=
  let w := x % 2 ^ (8 * n) * 2 ^ (8 * b)
  if n = 0 ∨ !d.answers v base then d
  else if n = 8 ∨ (n = 4 ∧ b % 4 = 0) then d.writeReg v base (8 * (b + n) - 1) (8 * b) w
  else d.logIgnored base w

/-- A write of up to 8 bytes at a byte offset: each register touched takes its own bytes, in ascending order (R514). -/
def Dev.write (d : Dev) (v : View) (off size x : Nat) : Dev :=
  match v with
  | .bells f => d.pageWrite f off size x
  | _ =>
    let b := off % 8
    let n := Nat.min size (8 - b)
    (d.writePart v (off / 8 * 8) b n x).writePart v (off / 8 * 8 + 8) 0 (size - n) (x / 2 ^ (8 * n))

/-- A store to a register window reaches its register (R329). -/
def Dev.landStore (d : Dev) (r : RegStore) : Dev := d.write r.v r.off r.size r.value.toNat

/-- Every store on its way to a register, in order. -/
def Dev.landStores (d : Dev) : Dev :=
  let rs := d.regNet
  rs.foldl Dev.landStore { d with regNet := [] }

end Sys2Proof.Machine
end

