-- ==== Sys2Proof/Machine/Commands.lean ====
section
/-!
DEFINITION. The commands that are writes or reads of registers, and the events that distributor sources report. A write that the table
gives a row of its own is a write of its register in full; fields that the row does not name keep their present values.
-/

namespace Sys2Proof.Machine

/-- A command that writes registers: the time base is latched, and what the write sends to Fumarole and to the custody controller
arrives. -/
def regCmd (f : Dev → Dev) (s : State) : Host.Outcome State Fault Refusal :=
  .next { s with dev := f { s.dev with now := s.fum.time } }.settle

/-- The value that a view reads of a register without RC fields. -/
def Dev.seen (d : Dev) (v : View) (off : Nat) : Nat := (d.readReg v off 63 0).1

/-! ## Distributor (R220 to R222) -/

/-- Whether events of source `n` come from a unit: sources below 128 are software's, and some numbers are reserved (R220). -/
def unitSource (n : Nat) : Bool :=
  !(decide (n < 128) || (decide (265 ≤ n) && decide (n ≤ 287)) || (decide (324 ≤ n) && decide (n ≤ 383)) ||
    (decide (480 ≤ n) && decide (n ≤ 511)) || (decide (917 ≤ n) && decide (n ≤ 1007)) || (decide (1016 ≤ n) && decide (n ≤ 1023)))

/-- SOURCE_EVENT (R222). -/
def execSourceEvent (n : SourceId) : State → Host.Outcome State Fault Refusal :=
  onDev fun d => if unitSource n && !d.inReset then d.raise n else d

/-- SWSET (R221): the write sets SWSET beside the fields as they read. -/
def execSwset (v : View) (n : SourceId) : State → Host.Outcome State Fault Refusal :=
  regCmd fun d => d.write v (offISRC n) 8 (setBits (d.seen v (offISRC n)) 62 62 1)

/-- ISRC_ROUTE_CHANGE (R222). -/
def execIsrcRouteChange (v : View) (n : SourceId) (value : Reg) : State → Host.Outcome State Fault Refusal :=
  regCmd fun d => d.write v (offISRC n) 8 value.toNat

/-! ## Translation, banks, Caldera -/

/-- EPOCHAGE_WRITE (R352). -/
def execEpochageWrite (v : View) (value : Reg) : State → Host.Outcome State Fault Refusal :=
  regCmd fun d => d.write v offEPOCHAGE 8 value.toNat

/-- BANK_HANDOVER (R323): OWNER without FORCE. -/
def execBankHandover (v : View) (i : IslandId) (b : BankId) (owner : BitVec 3) : State → Host.Outcome State Fault Refusal :=
  regCmd fun d => d.write v (offBANKOWN i b) 8 owner.toNat

/-- FORCED_HANDOVER (R323): OWNER with FORCE. -/
def execForcedHandover (v : View) (i : IslandId) (b : BankId) (owner : BitVec 3) : State → Host.Outcome State Fault Refusal :=
  regCmd fun d => d.write v (offBANKOWN i b) 8 (128 + owner.toNat)

/-- BANKREP_WRITE (R326). -/
def execBankrepWrite (v : View) (i : IslandId) (b : BankId) (value : Reg) : State → Host.Outcome State Fault Refusal :=
  regCmd fun d => d.write v (offBANKREP i b) 8 value.toNat

/-- CLMOVE_READ: a read of `size` bytes from the register's first byte; only a full one removes the record (R373, R514). -/
def execClmoveRead (v : View) (size : Fin 9) : State → Host.Outcome State Fault Refusal :=
  onDev fun d =>
    if size.val = 0 || !d.reaches v then d
    else if d.answers v offCLMOVE then
      let (x, d) := d.readReg v offCLMOVE (8 * size.val - 1) 0
      d.send (.mmioData (BitVec.ofNat 64 (x % 2 ^ (8 * size.val))))
    else d.send (.mmioData 0)

/-- CLFRZ_WRITE (R372). -/
def execClfrzWrite (v : View) (value : Reg) : State → Host.Outcome State Fault Refusal :=
  regCmd fun d => d.write v offCLFRZ 8 value.toNat

/-- CLHTB_ENABLE (R539): V is written 1. -/
def execClhtbEnable (v : View) (value : Reg) : State → Host.Outcome State Fault Refusal :=
  regCmd fun d => d.write v offCLHTB 8 (setBits value.toNat 63 63 1)

/-! ## Queues -/

/-- QUEUE_ENABLE (R384): QCFG with EN 1 and QRST 0. -/
def execQueueEnable (v : View) (q : QueueId) (value : Reg) : State → Host.Outcome State Fault Refusal :=
  regCmd fun d => d.write v (offQCFG q) 8 (setBits (setBits value.toNat 63 63 1) 57 57 0)

/-- QUEUE_RESET (R385): EN written 0, or QRST 1. -/
def execQueueReset (v : View) (q : QueueId) (value : Reg) : State → Host.Outcome State Fault Refusal :=
  regCmd fun d => d.write v (offQCFG q) 8 (if bitOf value.toNat 63 then setBits value.toNat 57 57 1 else value.toNat)

/-- QDONE (R397). -/
def execQdone (v : View) (q : QueueId) (value : Reg) : State → Host.Outcome State Fault Refusal :=
  regCmd fun d => d.write v (offQDONE q) 8 value.toNat

/-! ## Sinter's commands (R451) -/

/-- JOIN, with what the identity exchange tells of the twin (R444). -/
def execJoin (v : View) (twin : TwinId) : State → Host.Outcome State Fault Refusal :=
  regCmd fun d => if viewPf0 v then d.write v offSNCMD 8 1 else if d.answers v offSNCMD then d.join twin 1 else d

/-- PROMOTE (R439). -/
def execPromote (v : View) (force : Bool) : State → Host.Outcome State Fault Refusal :=
  regCmd fun d => d.write v offSNCMD 8 (2 + 256 * flagNat force)

/-- DEMOTE (R445). -/
def execDemote (v : View) : State → Host.Outcome State Fault Refusal := regCmd fun d => d.write v offSNCMD 8 3

/-- RESOLVE_CONTINUE (R434). -/
def execResolveContinue (v : View) : State → Host.Outcome State Fault Refusal := regCmd fun d => d.write v offSNCMD 8 4

/-- RESOLVE_YIELD (R434). -/
def execResolveYield (v : View) : State → Host.Outcome State Fault Refusal := regCmd fun d => d.write v offSNCMD 8 5

/-- LEAVE (R417). -/
def execLeave (v : View) : State → Host.Outcome State Fault Refusal := regCmd fun d => d.write v offSNCMD 8 6

/-! ## Resets (R494) -/

/-- ISLAND_RESET. -/
def execIslandReset (v : View) (mask : BitVec 12) : State → Host.Outcome State Fault Refusal :=
  regCmd fun d => d.write v offISLRST 8 mask.toNat

/-- CORE_RESET. -/
def execCoreReset (v : View) (c : CoreId) : State → Host.Outcome State Fault Refusal :=
  regCmd fun d => d.write v offCORERST 8 (128 + c.val)

/-! ## Mailbox commands (R489, R490) -/

/-- A command with its parameters reaches the mailbox of the view: the ledger's through PF0 and the ledger window, else the host's. -/
def mailboxCmd (v : View) (c : MbCmd) : State → Host.Outcome State Fault Refusal :=
  regCmd fun d =>
    let off := if viewPf0 v then 0x21000 else offMBCMD
    if d.answers v off then d.mbWrite off (c.tag.toNat * 256 + c.opc.toNat) { c with led := viewPf0 v } else d

/-- MAILBOX_STATUS. -/
def execMailboxStatus (v : View) (tag : Byte) : State → Host.Outcome State Fault Refusal :=
  mailboxCmd v { led := false, opc := 1, tag := tag }

/-- FLASH_WRITE. -/
def execFlashWrite (v : View) (tag : Byte) (image : ImageInfo) : State → Host.Outcome State Fault Refusal :=
  mailboxCmd v { led := false, opc := 2, tag := tag, image := image }

/-- MC_LOAD (R486). -/
def execMcLoad (v : View) (tag : Byte) (copyB : Bool) : State → Host.Outcome State Fault Refusal :=
  mailboxCmd v { led := false, opc := 3, tag := tag, copyB := copyB }

/-- FUSE_SVN. -/
def execFuseSvn (v : View) (tag : Byte) : State → Host.Outcome State Fault Refusal :=
  mailboxCmd v { led := false, opc := 4, tag := tag }

/-- SOFT_REPAIR (R506). -/
def execSoftRepair (v : View) (tag : Byte) (k : StackId) (ch : Fin 32) (row : Nat) : State → Host.Outcome State Fault Refusal :=
  mailboxCmd v { led := false, opc := 5, tag := tag, stack := k, channel := ch, row := row }

/-- DEBUG_UNLOCK (R507). -/
def execDebugUnlock (v : View) (tag : Byte) (serial : Reg) (slot : Fin 4) (signed : Bool) : State → Host.Outcome State Fault Refusal :=
  mailboxCmd v { led := false, opc := 6, tag := tag, serial := serial, slot := slot, signed := signed }

/-- LOCK_FIELDS (R519). -/
def execLockFields (v : View) (tag : Byte) : State → Host.Outcome State Fault Refusal :=
  mailboxCmd v { led := false, opc := 7, tag := tag }

/-! ## Locks, power, Fumarole -/

/-- The register that holds a block's lock bit (R519). -/
def lockReg : LockBlock → Nat
  | .conversion => offCVCTL
  | .faultHub => offFHLOCK
  | .clockPower => offCPLOCK

/-- BLOCK_LOCK_SET. -/
def execBlockLockSet (v : View) (b : LockBlock) : State → Host.Outcome State Fault Refusal :=
  regCmd fun d => d.write v (lockReg b) 8 1

/-- DORMANT_REQUEST (R498). -/
def execDormantRequest (v : View) : State → Host.Outcome State Fault Refusal := regCmd fun d => d.write v offPWRCTL 8 1

/-- FREQ_CHANGE (R501). -/
def execFreqChange (v : View) (i : IslandId) (value : Reg) : State → Host.Outcome State Fault Refusal :=
  regCmd fun d => d.write v (offISLCLK i) 8 value.toNat

/-- WATCHDOG_KICK (R505): KICK beside the fields as they stand. -/
def execWatchdogKick (v : View) (value : Byte) : State → Host.Outcome State Fault Refusal :=
  regCmd fun d => d.write v offFWD 8 (setBits (d.seen v offFWD) 31 24 value.toNat)

/-- TIME_STEP (R502): STEP beside RATE as it stands. -/
def execTimeStep (v : View) (value : BitVec 32) : State → Host.Outcome State Fault Refusal :=
  regCmd fun d => d.write v offFTBADJ 8 (setBits (d.seen v offFTBADJ) 31 0 value.toNat)

/-! ## Debug and trace (R523), through PF1 -/

/-- DEBUG_HALT. -/
def execDebugHalt (c : CoreId) : State → Host.Outcome State Fault Refusal := regCmd fun d => d.write .pf1 (offDBGC c) 8 1

/-- DEBUG_RESUME. -/
def execDebugResume (c : CoreId) : State → Host.Outcome State Fault Refusal := regCmd fun d => d.write .pf1 (offDBGC c) 8 0

/-- DEBUG_STEP: STEP with HALT as it stands. -/
def execDebugStep (c : CoreId) : State → Host.Outcome State Fault Refusal :=
  regCmd fun d => d.write .pf1 (offDBGC c) 8 (4 + flagNat (d.bit (offDBGC c) 0))

/-- TRACE_ENABLE: EN is written 0 and then 1. -/
def execTraceEnable (i : IslandId) : State → Host.Outcome State Fault Refusal :=
  regCmd fun d =>
    let v := setBits (d.rd (offTRCTL i)) 63 32 0
    (d.write .pf1 (offTRCTL i) 8 (setBits v 0 0 0)).write .pf1 (offTRCTL i) 8 (setBits v 0 0 1)

/-! ## Every other write -/

/-- REGISTER_WRITE. -/
def execRegisterWrite (v : View) (offset : BitVec 28) (size : Fin 9) (value : Reg) : State → Host.Outcome State Fault Refusal :=
  regCmd fun d => d.write v offset.toNat size value.toNat

end Sys2Proof.Machine
end

