-- ==== Sys2Proof/Machine/Lanes.lean ====
section
/-!
DEFINITION. Vector instructions (chapter 7, rows 0o21x and 0o22x): lanes and elements (R182 to R186), loads and stores (R187,
R188), operations (R189 to R195). A vector register is taken as its 64 cells, lane 0 first, so that element `e` of `s` cells
stands at cells `e s` to `e s + s - 1` and its governing mask bit is that of lane `e s / 4`.
-/

namespace Sys2Proof.Machine

/-- VL, in word lanes (R182). -/
def vLen : Nat := 16

/-- VCFG.EW (R183). -/
def Core.ew (k : Core) : Nat := bitsOf k.vcfg.toNat 35 34

/-- VCFG.AVL (R183). -/
def Core.avl (k : Core) : Nat := bitsOf k.vcfg.toNat 15 0

/-- Cells of an element (R182). -/
def elemCells (ew : Nat) : Nat := 2 ^ ew

/-- The largest AVL (R182). -/
def maxAvl (ew : Nat) : Nat := 4 * vLen / elemCells ew

/-- The cells of V`r`. -/
def Core.vCells (k : Core) (r : Nat) : List Cell := (upto vLen).flatMap fun l => wordCells (k.v.getD' (16 * r + l) 0)

/-- Write the cells of V`r`. -/
def Core.setV (k : Core) (r : Nat) (cs : List Cell) : Core :=
  { k with v := ((cellsWords cs).zip (upto vLen)).foldl (fun v p => v.put (16 * r + p.2) p.1) k.v }

/-- M`r`. -/
def Core.mReg (k : Core) (r : Nat) : Nat := (k.m.getD' r 0).toNat

/-- Element `e` of a register's cells, of `s` cells. -/
def elem (cs : List Cell) (s e : Nat) : List Cell := (cs.drop (e * s)).take s

/-- A register's cells with element `e` replaced. -/
def setElem (cs : List Cell) (s e : Nat) (x : List Cell) : List Cell := cs.take (e * s) ++ x ++ cs.drop (e * s + s)

/-- A vector instruction as fetched. -/
def vecIns (c op : Nat) (ob : BitVec 6) (ss : List Spec) : Ins := { c := c, op := op, ob := ob.toNat, specs := ss }

/-- The variant: bits 1:0. -/
def vecVar (ob : BitVec 6) : Nat := ob.toNat % 4

/-- Whether the instruction is masked: bit 5. -/
def vecMasked (ob : BitVec 6) : Bool := bitOf ob.toNat 5

/-- Bits 4:2 name a mask register, and are 0 when bit 5 is 0 (R76). -/
def vecForm (ob : BitVec 6) : Bool := vecMasked ob || bitsOf ob.toNat 4 2 == 0

/-- The governing mask. -/
def vecMask (k : Core) (ob : BitVec 6) : Nat := if vecMasked ob then k.mReg (bitsOf ob.toNat 4 2) else 2 ^ vLen - 1

/-- Whether element `e` of `s` cells is active under a mask (R185). -/
def vecActive (k : Core) (s mask e : Nat) : Bool :=
  decide (k.vresume.toNat % 2 ^ 16 ≤ e) && decide (e < k.avl) && bitOf mask (e * s / 4)

/-- The first raised and enabled flag's trap in the order of R195. -/
def vecTrap (te sf : Nat) : Option Exc :=
  if bitOf te fDD && bitOf sf fDD then some { vec := 18 } else trapOf te sf

/-- Raise flags and end a vector instruction: VRESUME := 0 (R185, R195). -/
def vecDone (c sf : Nat) : M Done := do
  let k ← getCore c
  modCore c fun k => { k.raiseSf sf with vresume := 0 }
  return { trap := vecTrap k.te sf }

/-! ## Loads and stores (R187, R188) -/

/-- Load element `e` at offset `off` into V`r`. -/
def vecLoad (c : Nat) (p : Spec) (r s e off : Nat) : M Unit := do
  let loc ← memAccess c 1 (specSeg p) off s .read
  let cs ← readLoc c { opnd := 1, seg := specSeg p, off := off } loc
  modCore c fun k => k.setV r (setElem (k.vCells r) s e cs)

/-- Store element `e` of V`r` at offset `off`. -/
def vecStore (c : Nat) (p : Spec) (r s e off : Nat) : M Unit := do
  let loc ← memAccess c 2 (specSeg p) off s .write
  storeLoc c loc (elem ((← getCore c).vCells r) s e)

/-- Handle the active elements of a list in ascending order; VRESUME names the one in progress, where a fault leaves it (R188). -/
def vecEach (c : Nat) (act : Nat → Bool) (f : Nat → M Unit) : List Nat → M Unit
  | [] => return ()
  | e :: t => do
    if act e then
      modCore c fun k => { k with vresume := BitVec.ofNat 36 e }
      f e
    vecEach c act f t

/-- VLD and VST: memory operand `p`, operand number `i`, and the element's transfer at an offset. -/
def vecMem (c i : Nat) (ob : BitVec 6) (p : Spec) (f : Nat → Nat → Nat → M Unit) : M Done := do
  needFP c
  let k ← getCore c
  let s := elemCells k.ew
  let (ea, upd) ← evalEA c i (k.avl * s) p []
  let mask := vecMask k ob
  vecEach c (vecActive k s mask) (fun e => f s e (ea + e * s)) (upto k.avl)
  commitUpd c upd
  vecDone c 0

/-- VLD. -/
def execVld (c : CoreId) (ob : BitVec 6) (a d : Spec) : State → Host.Outcome State Fault Refusal :=
  instr (vecIns c 0o210 ob [a, d]) do
    need (vecForm ob && vecVar ob == 0 && okMem a && okReg d) illegal
    vecMem c 1 ob a fun s e off => vecLoad c a d.reg.toNat s e off

/-- VST. -/
def execVst (c : CoreId) (ob : BitVec 6) (a d : Spec) : State → Host.Outcome State Fault Refusal :=
  instr (vecIns c 0o211 ob [a, d]) do
    need (vecForm ob && vecVar ob == 0 && okReg a && okMem d) illegal
    vecMem c 2 ob d fun s e off => vecStore c d a.reg.toNat s e off

/-! ## Operations on elements (R189, R190) -/

/-- What an element operation answers: the destination element, none when it stays, and flags. -/
abbrev ElemOp := List Cell → List Cell → List Cell → Option (List Cell) × Nat

/-- A binary integer operation at the element's width (R190, R89). -/
def intElem (s : Nat) (f : Int → Int → Int) : ElemOp := fun x y _ =>
  let (v, sf) := exactS (9 * s) (f (signed (9 * s) (cellsNat x)) (signed (9 * s) (cellsNat y)))
  (some (natCells s v), sf)

/-- A binary64 operation under a rounding (R190). -/
def b64Elem (f : Fp → Fp → Nat × Nat) : ElemOp := fun x y _ =>
  let (v, fl) := f (b64Dec (cellsNat x % 2 ^ 64)) (b64Dec (cellsNat y % 2 ^ 64))
  (some (natCells 8 v), fl)

/-- A result for a P-type destination: its data over the marks that stand there, or unchanged with OV (R37, R190). -/
def pPut (old : List Cell) (v : Int) (dsm : Bool) : Option (List Cell) × Nat :=
  let (data, ov) := fieldResult false old.length v dsm
  if ov then (none, 2 ^ fOV) else (some (keepMarks old data), 0)

/-- A decimal operation on P-type elements (R37, R190). -/
def decElem (dsm : Bool) (f : Int → Int → Int) : ElemOp := fun x y old =>
  match packedVal x, packedVal y with
  | some (m, s), some (n, t) => pPut old (f (signedMag m s) (signedMag n t)) dsm
  | _, _ => (none, 2 ^ fDD)

/-- A bitwise operation. -/
def bitElem (f : Nat → Nat → Nat) : ElemOp := fun x y _ => (some (natCells x.length (f (cellsNat x) (cellsNat y))), 0)

/-- Apply an element operation to the active elements of a list: the destination's cells and the flags. -/
def vecMap (op : ElemOp) (s : Nat) (act : Nat → Bool) (xs ys : List Cell) : List Nat → List Cell × Nat → List Cell × Nat
  | [], r => r
  | e :: t, (ds, sf) =>
    if act e then
      let (x, fl) := op (elem xs s e) (elem ys s e) (elem ds s e)
      vecMap op s act xs ys t ((match x with | some x => setElem ds s e x | none => ds), sf ||| fl)
    else vecMap op s act xs ys t (ds, sf)

/-- An element-by-element instruction; `pick` gives the operation for the width and core, none where the variant or width is
illegal. -/
def vecBin (c op : Nat) (ob : BitVec 6) (a b d : Spec) (pick : Nat → Core → Option ElemOp) :
    State → Host.Outcome State Fault Refusal :=
  instr (vecIns c op ob [a, b, d]) do
    need (vecForm ob && okReg a && okReg b && okReg d) illegal
    need ((upto 4).any fun w => (pick w {}).isSome) illegal
    needFP c
    let k ← getCore c
    match pick k.ew k with
    | none => raiseE illegal
    | some f =>
      let s := elemCells k.ew
      let (ds, sf) := vecMap f s (vecActive k s (vecMask k ob)) (k.vCells a.reg.toNat) (k.vCells b.reg.toNat) (upto k.avl)
        (k.vCells d.reg.toNat, 0)
      modCore c fun k => k.setV d.reg.toNat ds
      vecDone c sf

/-- VADD and VSUB variants. -/
def addPick (var : Nat) (f : Int → Int → Int) (g : Nat → Fp → Fp → Nat × Nat) (ew : Nat) (k : Core) : Option ElemOp :=
  match var with
  | 0 => some (intElem (elemCells ew) f)
  | 1 => if ew = 2 ∨ ew = 3 then some (decElem k.dsm f) else none
  | 2 => if ew = 3 then some (b64Elem (g k.frm)) else none
  | _ => none

/-- VADD. -/
def execVadd (c : CoreId) (ob : BitVec 6) (a b d : Spec) : State → Host.Outcome State Fault Refusal :=
  vecBin c 0o212 ob a b d (addPick (vecVar ob) (· + ·) (fpAdd .b64))

/-- VSUB. -/
def execVsub (c : CoreId) (ob : BitVec 6) (a b d : Spec) : State → Host.Outcome State Fault Refusal :=
  vecBin c 0o213 ob a b d (addPick (vecVar ob) (· - ·) (fpSub .b64))

/-- VMUL. -/
def execVmul (c : CoreId) (ob : BitVec 6) (a b d : Spec) : State → Host.Outcome State Fault Refusal :=
  vecBin c 0o214 ob a b d fun ew k => if vecVar ob = 1 then none else addPick (vecVar ob) (· * ·) (fpMul .b64) ew k

/-- VAND. -/
def execVand (c : CoreId) (ob : BitVec 6) (a b d : Spec) : State → Host.Outcome State Fault Refusal :=
  vecBin c 0o221 ob a b d fun _ _ => if vecVar ob = 0 then some (bitElem (· &&& ·)) else none

/-- VOR. -/
def execVor (c : CoreId) (ob : BitVec 6) (a b d : Spec) : State → Host.Outcome State Fault Refusal :=
  vecBin c 0o222 ob a b d fun _ _ => if vecVar ob = 0 then some (bitElem (· ||| ·)) else none

/-- VXOR. -/
def execVxor (c : CoreId) (ob : BitVec 6) (a b d : Spec) : State → Host.Outcome State Fault Refusal :=
  vecBin c 0o223 ob a b d fun _ _ => if vecVar ob = 0 then some (bitElem (· ^^^ ·)) else none

/-! ## Widening products and sums (R191, R192) -/

/-- An instruction that writes groups of cells of V`d`: `out` answers, for group `j` and its old cells, the new cells and flags. -/
def vecGroup (c op : Nat) (ob : BitVec 6) (a b d : Spec) (form : Bool) (ew n size : Nat)
    (out : Core → List Cell → List Cell → Nat → List Cell → Option (List Cell) × Nat) :
    State → Host.Outcome State Fault Refusal :=
  instr (vecIns c op ob [a, b, d]) do
    need (vecForm ob && form && okReg a && okReg b && okReg d) illegal
    needFP c
    let k ← getCore c
    need (k.ew == ew) illegal
    let xs := k.vCells a.reg.toNat
    let ys := k.vCells b.reg.toNat
    let (ds, sf) := (upto n).foldl (fun (r : List Cell × Nat) j =>
      let (x, fl) := out k xs ys j (elem r.1 size j)
      ((match x with | some x => setElem r.1 size j x | none => r.1), r.2 ||| fl)) (k.vCells d.reg.toNat, 0)
    modCore c fun k => k.setV d.reg.toNat ds
    vecDone c sf

/-- An element as an integer. -/
def elemInt (uns : Bool) (bits : Nat) (cs : List Cell) : Int :=
  if uns then (cellsNat cs : Int) else signed bits (cellsNat cs)

/-- VMULW (R191). -/
def execVmulw (c : CoreId) (ob : BitVec 6) (a b d : Spec) : State → Host.Outcome State Fault Refusal :=
  vecGroup c 0o215 ob a b d true 2 8 8 fun k xs ys i _ =>
    let e := vecVar ob / 2 * 8 + i
    let u := vecVar ob % 2 == 1
    if vecActive k 4 (vecMask k ob) e then
      (some (natCells 8 (wrap 72 (elemInt u 36 (elem xs 4 e) * elemInt u 36 (elem ys 4 e)))), 0)
    else (none, 0)

/-- VDMUL (R191). -/
def execVdmul (c : CoreId) (ob : BitVec 6) (a b d : Spec) : State → Host.Outcome State Fault Refusal :=
  vecGroup c 0o216 ob a b d (vecVar ob % 2 == 0) 2 8 8 fun k xs ys i old =>
    let e := vecVar ob / 2 * 8 + i
    if vecActive k 4 (vecMask k ob) e then decElem k.dsm (· * ·) (elem xs 4 e) (elem ys 4 e) old else (none, 0)

/-- VDOT (R192). -/
def execVdot (c : CoreId) (ob : BitVec 6) (a b d : Spec) : State → Host.Outcome State Fault Refusal :=
  vecGroup c 0o217 ob a b d (decide (vecVar ob ≤ 1)) 2 8 8 fun k xs ys j old =>
    let u := vecVar ob == 1
    let es := [2 * j, 2 * j + 1].filter (vecActive k 4 (vecMask k ob))
    if es.isEmpty then (none, 0)
    else
      let v := es.foldl (fun t e => t + elemInt u 36 (elem xs 4 e) * elemInt u 36 (elem ys 4 e)) (elemInt u 72 old)
      let ov := if u then decide ((2 ^ 72 : Nat) ≤ v) else ovSigned 72 v
      (some (natCells 8 (wrap 72 v)), flagBits [(fOV, ov)])

/-- The sum of an accumulator and the products of elements; none when one is invalid (R192). -/
def pDot (xs ys : List Cell) (s : Nat) : List Nat → Int → Option Int
  | [], t => some t
  | e :: es, t =>
    match packedVal (elem xs s e), packedVal (elem ys s e) with
    | some (m, a), some (n, b) => pDot xs ys s es (t + signedMag m a * signedMag n b)
    | _, _ => none

/-- VDDOT (R192). -/
def execVddot (c : CoreId) (ob : BitVec 6) (a b d : Spec) : State → Host.Outcome State Fault Refusal :=
  vecGroup c 0o220 ob a b d (decide (vecVar ob ≤ 1)) (2 + vecVar ob) 4 16 fun k xs ys j old =>
    let s := elemCells (2 + vecVar ob)
    let n := 16 / s
    let es := (fromN (n * j) n).filter (vecActive k s (vecMask k ob))
    if es.isEmpty then (none, 0)
    else match packedVal old with
      | none => (none, 2 ^ fDD)
      | some (m, neg) =>
        match pDot xs ys s es (signedMag m neg) with
        | none => (none, 2 ^ fDD)
        | some v => pPut old v k.dsm

/-! ## Compare, select, masks (R193, R194, R186) -/

/-- A compare's predicate on two elements, and its flags (R193). -/
def cmpElem (var : Nat) (x y : List Cell) : Bool × Nat :=
  let w := 9 * x.length
  match var with
  | 0 => (cellsNat x == cellsNat y, 0)
  | 1 => (decide (signed w (cellsNat x) < signed w (cellsNat y)), 0)
  | 2 => (decide (cellsNat x < cellsNat y), 0)
  | _ => match packedVal x, packedVal y with
    | some (m, s), some (n, t) => (decide (signedMag m s < signedMag n t), 0)
    | _, _ => (false, 2 ^ fDD)

/-- VCMP (R193). -/
def execVcmp (c : CoreId) (ob : BitVec 6) (a b d : Spec) : State → Host.Outcome State Fault Refusal :=
  instr (vecIns c 0o224 ob [a, b, d]) do
    need (vecForm ob && okReg a && okReg b && okMask d) illegal
    needFP c
    let k ← getCore c
    need (k.ew == 2 || k.ew == 3) illegal
    let s := elemCells k.ew
    let lanes := s / 4
    let kept := k.mReg d.reg.toNat % 2 ^ (Nat.min vLen (k.vresume.toNat % 2 ^ 16 * lanes))
    let (m, sf) := (upto k.avl).foldl (fun (r : Nat × Nat) e =>
      if vecActive k s (vecMask k ob) e then
        let (p, fl) := cmpElem (vecVar ob) (elem (k.vCells a.reg.toNat) s e) (elem (k.vCells b.reg.toNat) s e)
        (if p then setBits r.1 (e * lanes + lanes - 1) (e * lanes) (2 ^ lanes - 1) else r.1, r.2 ||| fl)
      else r) (kept, 0)
    modCore c fun k => { k with m := k.m.put d.reg.toNat (BitVec.ofNat 16 m) }
    vecDone c sf

/-- VSEL (R193). -/
def execVsel (c : CoreId) (ob : BitVec 6) (a b d : Spec) : State → Host.Outcome State Fault Refusal :=
  instr (vecIns c 0o225 ob [a, b, d]) do
    need (vecMasked ob && vecVar ob == 0 && okReg a && okReg b && okReg d) illegal
    needFP c
    let k ← getCore c
    let s := elemCells k.ew
    let xs := k.vCells a.reg.toNat
    let ys := k.vCells b.reg.toNat
    let mask := vecMask k ob
    let ds := (upto k.avl).foldl (fun ds e =>
      if vecActive k s (2 ^ vLen - 1) e then setElem ds s e (elem (if bitOf mask (e * s / 4) then xs else ys) s e) else ds)
      (k.vCells d.reg.toNat)
    modCore c fun k => k.setV d.reg.toNat ds
    vecDone c 0

/-- VMASK (R194). -/
def execVmask (c : CoreId) (ob : BitVec 6) (a b d : Spec) : State → Host.Outcome State Fault Refusal :=
  instr (vecIns c 0o226 ob [a, b, d]) do
    need (decide (ob.toNat < 4) && okMask b && if vecVar ob = 3 then okIntSrc 4 a && okIntDst 4 d else okMask a && okMask d) illegal
    needFP c
    let k ← getCore c
    let y := k.mReg b.reg.toNat
    if vecVar ob = 3 then
      let (x, upd) ← srcNat c 1 4 a []
      let (dst, upd) ← dstOpd c 3 4 d upd
      commitUpd c upd
      putDst c dst (natCells 4 y)
      modCore c fun k => { k with m := k.m.put b.reg.toNat (BitVec.ofNat 16 x) }
      return {}
    else
      let x := k.mReg a.reg.toNat
      let r := match vecVar ob with
        | 0 => x &&& y
        | 1 => x ||| y
        | _ => x &&& (2 ^ vLen - 1 - y)
      modCore c fun k => { k with m := k.m.put d.reg.toNat (BitVec.ofNat 16 r) }
      return {}

/-- SVL (R186): its write of VCFG replaces one still exposed. -/
def execSvl (c : CoreId) (ob : BitVec 6) (a d : Spec) : State → Host.Outcome State Fault Refusal :=
  instr (vecIns c 0o227 ob [a, d]) do
    need (decide (ob.toNat < 4) && okIntSrc 4 a && okReg d) illegal
    needFP c
    let (x, upd) ← srcNat c 1 4 a []
    let n := Nat.min x (maxAvl ob.toNat)
    commitUpd c upd
    wrG c d.reg.toNat (BitVec.ofNat 36 n)
    modCore c fun k => { k with
      vcfg := BitVec.ofNat 36 (ob.toNat * 2 ^ 34 + vLen * 2 ^ 16 + n)
      vresume := 0
      exposed := k.exposed.filter fun e => match e.w with | .vcfg _ => false | _ => true }
    return {}

end Sys2Proof.Machine
end

