-- ==== Sys2Proof/Machine/String.lean ====
section
/-!
DEFINITION. Moves, compares, searches, translates and edits (chapter 6, rows 0o14x and 0o15x), and CWR and CRD, which keep
their progress in registers as they do (R49, R144).
-/

namespace Sys2Proof.Machine

/-! ## Cell by cell (R144 to R146) -/

/-- The length register G`l` (R138). -/
def strL (ob : BitVec 6) : Nat := ob.toNat / 4
/-- The variant (R138). -/
def strV (ob : BitVec 6) : Nat := ob.toNat % 4

/-- Whether the numbers of a list are distinct. -/
def distinct (l : List Nat) : Bool := l.Nodup

/-- A string instruction as fetched. -/
def strIns (c op : Nat) (ob : BitVec 6) (ss : List Spec) : Ins := { c := c, op := op, ob := ob.toNat, specs := ss }

/-- Wait until no listed register has a result in flight. -/
def idleRegs (c : Nat) : List Nat → M Unit
  | [] => return ()
  | r :: t => do
    let _ ← rdG c r
    idleRegs c t

/-- A register's new value, cut to 36 bits. -/
def setReg (c r v : Nat) : M Unit := modCore c fun k => k.setG r (BitVec.ofNat 36 v)

/-- One cell of operand `i` at offset `off`, checked and read (R146). -/
def strCell (c i : Nat) (p : Spec) (off : Nat) : M Cell := do
  let rep : Rep := { opnd := i, seg := p.seg.toNat, off := off }
  let loc ← memAccess c i p.seg.toNat off 1 .read
  return (← readLoc c rep loc).headD 0

/-- Write one cell of operand `i` at offset `off`: `f` of the cell as it stands, which is looked at when `keep` (R28, R142). -/
def strPut (c i : Nat) (p : Spec) (off : Nat) (keep : Bool) (f : Nat → Nat) : M Unit := do
  let rep : Rep := { opnd := i, seg := p.seg.toNat, off := off }
  let loc ← memAccess c i p.seg.toNat off 1 .write
  let old ← if keep then peekLoc c rep loc else pure []
  storeLoc c loc [BitVec.ofNat 9 (f (old.headD 0).toNat)]

/-- Write a cell by a data variant (0), which keeps the mark, or a whole-cell variant (R142). -/
def strMove (c i : Nat) (p : Spec) (off var : Nat) (x : Nat) : M Unit :=
  strPut c i p off (var == 0) fun old => if var = 0 then old / 256 * 256 + x % 256 else x

/-- How a run of cells ends: all processed, stopped at a cell, or stopped at an acceptance point (R145). -/
inductive StrEnd where
  | all | hit | point
  deriving DecidableEq, Repr

/-- Process up to `n` cells, `step k` processing cell `k` from where the registers stood and answering whether the instruction stops
there; after each 64th cell of the execution it stops when a request or a pre-emption is due (R145, R228). A cell that waits for a read
of a window leaves the cells before it done; no read serves two cells (R149). -/
def strRun (c : Nat) (step : Nat → M Bool) : Nat → Nat → M StrEnd
  | 0, _ => return .all
  | n + 1, k => do
    if ← step k then return .hit
    modCore c fun x => { x with ext := [], strDone := x.strDone + 1 }
    if n ≠ 0 && (← getCore c).strDone % 64 == 0 && (← get).strDue c then return .point
    strRun c step n (k + 1)

/-- End an execution that stopped at an acceptance point: the PC stays at the instruction (R145). -/
def strPause (c : Nat) : M Done := do
  modCore c fun k => { k with ext := [], strDone := 0 }
  return { final := true }

/-- Run an instruction over `n` cells; `fin` writes its condition result (R143, R146). -/
def strBody (c n : Nat) (step : Nat → M Bool) (fin : StrEnd → M Unit) : M Done := do
  match ← strRun c step n 0 with
  | .point => strPause c
  | e => do
    fin e
    return {}

/-- No condition result. -/
def noFin (_ : StrEnd) : M Unit := return ()

/-! ## Moves (R149 to R152) -/

/-- A move of one cell from `s` at offset `a` to `d` at offset `b`. -/
def moveCell (c : Nat) (s d : Spec) (var a b : Nat) : M Unit := do
  let x ← strCell c 1 s a
  strMove c 2 d b var x.toNat

/-- An ascending move: cell `k` of `s` to cell `k` of `d` by `put`, then the registers (R144). -/
def ascend (c l : Nat) (s d : Spec) (gl gs gd : Nat) (put : Nat → Nat → M Unit) (k : Nat) : M Bool := do
  put (gs + k) (gd + k)
  setReg c s.reg.toNat (gs + k + 1)
  setReg c d.reg.toNat (gd + k + 1)
  setReg c l (gl - k - 1)
  return false

/-- MVA (R149). -/
def execMva (c : CoreId) (ob : BitVec 6) (s d : Spec) : State → Host.Outcome State Fault Refusal :=
  instr (strIns c 0o140 ob [s, d]) do
    let l := strL ob
    need (decide (strV ob ≤ 1) && okStr s && okStr d && distinct [l, s.reg.toNat, d.reg.toNat]) illegal
    idleRegs c [l, s.reg.toNat, d.reg.toNat]
    let k ← getCore c
    let gl := (k.gr l).toNat
    strBody c gl (ascend c l s d gl (k.gr s.reg.toNat).toNat (k.gr d.reg.toNat).toNat (moveCell c s d (strV ob))) noFin

/-- BASE of S`i` of the current bank, 0 for the null selector. -/
def segBase (k : Core) (i : Nat) : Nat :=
  match (k.segAt k.bankNo i).desc with
  | some x => x.base.toNat
  | none => 0

/-- MVL (R150). -/
def execMvl (c : CoreId) (ob : BitVec 6) (s d : Spec) : State → Host.Outcome State Fault Refusal :=
  instr (strIns c 0o141 ob [s, d]) do
    let l := strL ob
    need (decide (strV ob ≤ 1) && okStr s && okStr d && distinct [l, s.reg.toNat, d.reg.toNat]) illegal
    idleRegs c [l, s.reg.toNat, d.reg.toNat]
    let k ← getCore c
    let gl := (k.gr l).toNat
    let gs := (k.gr s.reg.toNat).toNat
    let gd := (k.gr d.reg.toNat).toNat
    let ls := segBase k s.seg.toNat + gs
    let ld := segBase k d.seg.toNat + gd
    let down := if k.strDone = 0 then decide (ls < ld) && decide (ld < ls + gl) else k.strDown
    modCore c fun k => { k with strDown := down }
    if down then
      strBody c gl (fun k => do
        let j := gl - k - 1
        moveCell c s d (strV ob) (gs + j) (gd + j)
        setReg c l j
        return false) noFin
    else strBody c gl (ascend c l s d gl gs gd (moveCell c s d (strV ob))) noFin

/-- MVF (R151). -/
def execMvf (c : CoreId) (ob : BitVec 6) (s d f : Spec) : State → Host.Outcome State Fault Refusal :=
  instr (strIns c 0o142 ob [s, d, f]) do
    let l := strL ob
    let rs := [l, l + 1, s.reg.toNat, d.reg.toNat, f.reg.toNat]
    need (decide (strV ob ≤ 1) && l % 2 == 0 && okStr s && okStr d && okReg f && distinct rs) illegal
    idleRegs c rs
    let k ← getCore c
    let gl := (k.gr l).toNat
    let gn := (k.gr (l + 1)).toNat
    let gs := (k.gr s.reg.toNat).toNat
    let gd := (k.gr d.reg.toNat).toNat
    let fill := (k.gr f.reg.toNat).toNat % 512
    strBody c gn (fun k => do
      if k < gl then
        moveCell c s d (strV ob) (gs + k) (gd + k)
        setReg c s.reg.toNat (gs + k + 1)
        setReg c l (gl - k - 1)
      else strMove c 2 d (gd + k) (strV ob) fill
      setReg c d.reg.toNat (gd + k + 1)
      setReg c (l + 1) (gn - k - 1)
      return false) noFin

/-- MVM (R152). -/
def execMvm (c : CoreId) (ob : BitVec 6) (s d : Spec) : State → Host.Outcome State Fault Refusal :=
  instr (strIns c 0o143 ob [s, d]) do
    let l := strL ob
    need (decide (strV ob ≤ 1) && okStr s && okStr d && distinct [l, s.reg.toNat, d.reg.toNat]) illegal
    idleRegs c [l, s.reg.toNat, d.reg.toNat]
    let k ← getCore c
    let gl := (k.gr l).toNat
    strBody c gl (ascend c l s d gl (k.gr s.reg.toNat).toNat (k.gr d.reg.toNat).toNat fun a b => do
      let x ← strCell c 1 s a
      let m := if strV ob = 0 then x.toNat / 256 else flagNat (x.toNat % 256 != 0)
      strPut c 2 d b true fun old => m * 256 + old % 256) noFin

/-! ## Compare and search (R153 to R155) -/

/-- Bits of a cell that a compare or search looks at: 7:0, or 8:0 when `whole`. -/
def strKey (whole : Bool) (x : Nat) : Nat := if whole then x % 512 else x % 256

/-- CMC (R153). -/
def execCmc (c : CoreId) (ob : BitVec 6) (a b d : Spec) : State → Host.Outcome State Fault Refusal :=
  instr (strIns c 0o144 ob [a, b, d]) do
    let l := strL ob
    let r := d.reg.toNat
    let rs := [l, a.reg.toNat, b.reg.toNat, r, r + 1]
    need (decide (strV ob ≤ 1) && okStr a && okStr b && okReg d && r % 2 == 0 && distinct rs) illegal
    idleRegs c rs
    let k ← getCore c
    let gl := (k.gr l).toNat
    let ga := (k.gr a.reg.toNat).toNat
    let gb := (k.gr b.reg.toNat).toNat
    let gn := (k.gr (r + 1)).toNat
    let whole := strV ob == 1
    let step (k : Nat) : M Bool := do
      let x ← strCell c 1 a (ga + k)
      let y ← strCell c 2 b (gb + k)
      if strKey whole x.toNat = strKey whole y.toNat then
        setReg c a.reg.toNat (ga + k + 1)
        setReg c b.reg.toNat (gb + k + 1)
        setReg c l (gl - k - 1)
        setReg c (r + 1) (gn + k + 1)
        return false
      else
        setReg c r (flagNat (decide (strKey whole x.toNat < strKey whole y.toNat)))
        return true
    strBody c gl step fun e => if e = .all then setReg c r 0 else return ()

/-- A search of `s` for the first cell that `hit` accepts, into G`r` (R154, R155). -/
def search (c l : Nat) (s : Spec) (r : Nat) (hit : Nat → Bool) : M Done := do
  let k ← getCore c
  let gl := (k.gr l).toNat
  let gs := (k.gr s.reg.toNat).toNat
  let step (k : Nat) : M Bool := do
    let x ← strCell c 1 s (gs + k)
    if hit x.toNat then return true
    setReg c s.reg.toNat (gs + k + 1)
    setReg c l (gl - k - 1)
    return false
  strBody c gl step fun e => setReg c r (flagNat (e == .hit))

/-- SRC (R154). -/
def execSrc (c : CoreId) (ob : BitVec 6) (s v d : Spec) : State → Host.Outcome State Fault Refusal :=
  instr (strIns c 0o147 ob [s, v, d]) do
    let l := strL ob
    let rs := [l, s.reg.toNat, v.reg.toNat, d.reg.toNat]
    need (decide (strV ob ≤ 2) && okStr s && okReg v && okReg d && distinct rs) illegal
    idleRegs c rs
    let x := ((← getCore c).gr v.reg.toNat).toNat
    let whole := strV ob == 1
    search c l s d.reg.toNat fun y => (strKey whole x == strKey whole y) != (strV ob == 2)

/-- SRM (R155). -/
def execSrm (c : CoreId) (ob : BitVec 6) (s d : Spec) : State → Host.Outcome State Fault Refusal :=
  instr (strIns c 0o150 ob [s, d]) do
    let l := strL ob
    let rs := [l, s.reg.toNat, d.reg.toNat]
    need (decide (strV ob ≤ 1) && okStr s && okReg d && distinct rs) illegal
    idleRegs c rs
    search c l s d.reg.toNat fun y => (y / 256 == 1) != (strV ob == 1)

/-! ## Translate (R156, R157) -/

/-- XLAT (R156). -/
def execXlat (c : CoreId) (ob : BitVec 6) (d t : Spec) : State → Host.Outcome State Fault Refusal :=
  instr (strIns c 0o145 ob [d, t]) do
    let l := strL ob
    let rs := [l, d.reg.toNat, t.reg.toNat]
    need (strV ob == 0 && okStr d && okStr t && distinct rs) illegal
    idleRegs c rs
    let k ← getCore c
    let gl := (k.gr l).toNat
    let gd := (k.gr d.reg.toNat).toNat
    let gt := (k.gr t.reg.toNat).toNat
    let step (k : Nat) : M Bool := do
      let x ← strCell c 1 d (gd + k)
      let e ← strCell c 2 t (gt + x.toNat % 256)
      strMove c 1 d (gd + k) 0 e.toNat
      setReg c d.reg.toNat (gd + k + 1)
      setReg c l (gl - k - 1)
      return false
    strBody c gl step noFin

/-- XTST (R157). -/
def execXtst (c : CoreId) (ob : BitVec 6) (s t d : Spec) : State → Host.Outcome State Fault Refusal :=
  instr (strIns c 0o146 ob [s, t, d]) do
    let l := strL ob
    let rs := [l, s.reg.toNat, t.reg.toNat, d.reg.toNat]
    need (strV ob == 0 && okStr s && okStr t && okReg d && distinct rs) illegal
    idleRegs c rs
    let k ← getCore c
    let gl := (k.gr l).toNat
    let gs := (k.gr s.reg.toNat).toNat
    let gt := (k.gr t.reg.toNat).toNat
    let step (k : Nat) : M Bool := do
      let x ← strCell c 1 s (gs + k)
      let e ← strCell c 2 t (gt + x.toNat % 256)
      if e.toNat % 256 = 0 then
        setReg c s.reg.toNat (gs + k + 1)
        setReg c l (gl - k - 1)
        return false
      else
        setReg c d.reg.toNat (e.toNat % 256)
        return true
    strBody c gl step fun e => if e = .all then setReg c d.reg.toNat 0 else return ()

/-! ## Edit (R160 to R166) -/

/-- A pattern cell's class (R160): text, suppressing digit, forced digit, field break. -/
inductive EditCell where
  | text (x : Nat)
  | suppress
  | force
  | brk
  deriving DecidableEq, Repr

/-- The class of a pattern cell after the fill cell; none for a reserved control cell. -/
def editClass (x : Cell) : Option EditCell :=
  if x.toNat < 256 then some (.text x.toNat)
  else match x.toNat % 256 with
    | 0 => some .suppress
    | 1 => some .force
    | 2 => some .brk
    | _ => none

/-- Whether a pattern cell consumes a digit. -/
def editDigit : EditCell → Bool
  | .suppress | .force => true
  | _ => false

/-- Whether a digit cell follows before the field ends. -/
def digitAhead : List EditCell → Bool
  | [] => false
  | x :: t => if editDigit x then true else if x = .brk then false else digitAhead t

/-- Where a pass stands (R163, R165). -/
structure EditPos where
  k : Nat
  i : Nat
  s : Bool := false
  met : Bool := false
  /-- Index of the first significant cell (R164). -/
  first : Option Nat := none
  deriving DecidableEq, Repr

/-- One pattern cell of the pass (R163): the byte put, whether it is a digit character, and the next position. `ds` holds the
source's digits, `rest` the pattern after this cell. -/
def editStep (zone fill : Nat) (neg : Bool) (ds : List Nat) (rest : List EditCell) (p : EditPos) (x : EditCell) :
    Nat × EditPos :=
  let digit (p : EditPos) : Nat × EditPos :=
    (zone * 16 + ds.getD p.i 0,
      { p with k := p.k + 1, i := p.i + 1, s := true, met := true, first := some (p.first.getD p.k) })
  match x with
  | .suppress =>
    if p.s || ds.getD p.i 0 != 0 then digit p else (fill, { p with k := p.k + 1, i := p.i + 1, met := true })
  | .force => digit p
  | .brk => (fill, { p with k := p.k + 1, s := false, met := false })
  | .text v =>
    let p' := { p with k := p.k + 1 }
    if p.met && !digitAhead rest then (if neg then v else fill, p') else (if p.s then v else fill, p')

/-- The pass over the cells that follow, at most `n` of them: bytes put and the position reached. -/
def editPass (zone fill : Nat) (neg : Bool) (ds : List Nat) : Nat → List EditCell → EditPos → List Nat × EditPos
  | 0, _, p => ([], p)
  | _, [], p => ([], p)
  | n + 1, x :: t, p =>
    let (b, p) := editStep zone fill neg ds t p x
    let (bs, p) := editPass zone fill neg ds n t p
    (b :: bs, p)

/-- The cells of operand `i` from offset `off`, each checked in turn, as one location (R166). -/
def eachAccess (c i seg : Nat) (acc : Access) (off : Nat) : Nat → M (List MemLoc)
  | 0 => return []
  | n + 1 => do
    let loc ← memAccess c i seg off 1 acc
    let rest ← eachAccess c i seg acc (off + 1) n
    return loc :: rest

/-- One location of several. -/
def joinLocs (ls : List MemLoc) : MemLoc :=
  match ls with
  | [] => { cells := [] }
  | l :: _ => { l with cells := ls.flatMap (·.cells) }

/-- Read `n` cells of operand `i`, one at a time, with their locations. -/
def readEach (c i : Nat) (p : Spec) (off n : Nat) : M (List Cell × MemLoc) :=
  go n off
where
  /-- `readEach` from an offset. -/
  go : Nat → Nat → M (List Cell × MemLoc)
    | 0, _ => return ([], { cells := [] })
    | m + 1, o => do
      let loc ← memAccess c i p.seg.toNat o 1 .read
      let cs ← readLoc c { opnd := i, seg := p.seg.toNat, off := o } loc
      let (rest, l) ← go m (o + 1)
      return (cs ++ rest, { loc with cells := loc.cells ++ l.cells })

/-- Read and class pattern cells; a reserved control cell is the edit pattern fault, cause 2 (R166). `fillFirst` takes the first
cell as the fill cell. -/
def readPattern (c : Nat) (p : Spec) (fillFirst : Bool) : Nat → Nat → M (Nat × List EditCell × List PLoc)
  | 0, _ => return (0, [], [])
  | n + 1, o => do
    let loc ← memAccess c 1 p.seg.toNat o 1 .read
    let x := (← readLoc c { opnd := 1, seg := p.seg.toNat, off := o } loc).headD 0
    if fillFirst then
      let (_, t, l) ← readPattern c p false n (o + 1)
      return (x.toNat, t, loc.cells ++ l)
    else match editClass x with
      | none => raiseE { vec := 11, cause := 2 }
      | some e =>
        let (_, t, l) ← readPattern c p false n (o + 1)
        return (0, e :: t, loc.cells ++ l)

/-- The physical cell of a location list's head. -/
def firstAddr (l : List PLoc) : Nat := match l with | p :: _ => p.addr | [] => 0

/-- An edit's registers and form. -/
structure EditForm where
  l : Nat
  p : Spec
  a : Spec
  d : Spec
  gs : Nat
  gm : Option Nat
  zone : Nat
  op : Nat
  deriving DecidableEq, Repr

/-- What a pass works with: fill cell, pattern from position on, source digits and sign, D, destination, digest. -/
structure EditRun where
  fill : Nat
  pat : List EditCell
  ds : List Nat
  neg : Bool
  nd : Nat
  dst : MemLoc
  dig : Word
  deriving DecidableEq, Repr

/-- Write bytes of the destination from cell `k` on: EDIT keeps marks, EDTM writes them (R164). -/
def editWrite (c : Nat) (f : EditForm) (r : EditRun) (k : Nat) (bs : List Nat) (first : Option Nat) : M Unit := do
  let loc := { r.dst with cells := (r.dst.cells.drop k).take bs.length }
  if f.gm.isSome then
    let mark (j : Nat) : Nat := if first = some (k + j) then 256 else 0
    storeLoc c loc ((bs.zip (upto bs.length)).map fun p => BitVec.ofNat 9 (p.1 + mark p.2))
  else
    let old ← peekLoc c { opnd := 3, seg := f.d.seg.toNat, off := ((← getCore c).gr f.d.reg.toNat).toNat + k } loc
    storeLoc c loc (keepMarks old bs)

/-- Micro-registers 1 and 2 of a pass (R165). -/
def editMicro (f : EditForm) (r : EditRun) (p : EditPos) : Nat × Nat :=
  (r.fill * 2 ^ 27 + p.i * 2 ^ 20 + flagNat p.s * 2 ^ 19 + flagNat r.neg * 2 ^ 18 + flagNat p.met * 2 ^ 17 + r.nd * 2 ^ 10,
   match f.gm, p.first with
   | some _, some j => 2 ^ 35 + j
   | _, _ => 0)

/-- Run the pass from a position (R163 to R165); `pre` holds bytes already put before it (the fill character of cell 0). -/
def editRun (c : Nat) (f : EditForm) (r : EditRun) (pre : List Nat) (p : EditPos) : M Done := do
  let due := (← get).pointDue c
  let n := if due then 16 - p.k % 16 else r.pat.length
  let (bs, q) := editPass f.zone (r.fill % 256) r.neg r.ds n r.pat p
  editWrite c f r (p.k - pre.length) (pre ++ bs) q.first
  if n < r.pat.length then
    let (u1, u2) := editMicro f r q
    microStop c f.op 1 (BitVec.ofNat 36 q.k) (BitVec.ofNat 36 u1) (BitVec.ofNat 36 u2) r.dig
  else
    setReg c f.gs (flagNat q.s)
    match f.gm, q.first with
    | some m, some j => setReg c m (((← getCore c).gr f.d.reg.toNat).toNat + j)
    | _, _ => pure ()
    return { trap := ← raiseFlags c (flagBits [(fOV, r.nd % 2 == 0 && r.ds.headD 0 != 0)]) }

/-- The digest of an edit (R165). -/
def editDigest (p a d gl : Nat) : Word := Config.operandDigest [p, a, d, gl]

/-- An edit from its start: the pre-check, then the pass (R162, R166). -/
def editFresh (c : Nat) (f : EditForm) : M Done := do
  let k ← getCore c
  let gl := (k.gr f.l).toNat
  let off (s : Spec) : Nat := (k.gr s.reg.toNat).toNat
  need (decide (gl ≤ 512)) { vec := 11, cause := 1 }
  if gl = 0 then
    setReg c f.gs 0
    return {}
  let due := (← get).pointDue c
  if due && decide (32 ≤ gl) then
    let _ ← readPattern c f.p true 32 (off f.p)
    microStop c f.op 0 0 0 0 0
  else
    let (fill, pat, pl) ← readPattern c f.p true gl (off f.p)
    let nd := (pat.filter editDigit).length
    need (decide (nd ≤ 127)) { vec := 11, cause := 3 }
    let len := nd / 2 + 1
    if due && decide (32 ≤ gl + len) then
      let _ ← readEach c 2 f.a (off f.a) (32 - gl)
      microStop c f.op 0 0 0 0 0
    else
      let (src, al) ← readEach c 2 f.a (off f.a) len
      let dst := joinLocs (← eachAccess c 3 f.d.seg.toNat .write (off f.d) gl)
      let pa := pl.map (·.addr)
      let aa := al.cells.map (·.addr)
      let da := dst.cells.map (·.addr)
      need (!(aa.any fun x => pa.contains x || da.contains x) && (pa == da || !(pa.any fun x => da.contains x)))
        { vec := 9 }
      match packedVal src with
      | none => return { trap := ← raiseFlags c (2 ^ fDD) }
      | some (_, neg) =>
        let r : EditRun := { fill := fill, pat := pat, ds := (nibbles src).dropLast, neg := neg, nd := nd, dst := dst,
                             dig := editDigest (firstAddr pl) (firstAddr al.cells) (firstAddr dst.cells) gl }
        editRun c f r [fill % 256] { k := 1, i := 1 - nd % 2 }

/-- A resumed pass (R165). The remaining pattern cells are read first and their faults and reserved controls reported; a digit cell beyond
the digits left, cause 3, comes after them: the manual gives no order (log entry 133, DESIGN CHOICE). -/
def editResume (c : Nat) (f : EditForm) (u : Micro) : M Done := do
  let k ← getCore c
  let gl := (k.gr f.l).toNat
  let off (s : Spec) : Nat := (k.gr s.reg.toNat).toNat
  let lp ← memAccess c 1 f.p.seg.toNat (off f.p) 1 .read
  let la ← memAccess c 2 f.a.seg.toNat (off f.a) 1 .read
  let ld ← memAccess c 3 f.d.seg.toNat (off f.d) 1 .write
  let dig := editDigest (firstAddr lp.cells) (firstAddr la.cells) (firstAddr ld.cells) gl
  need (dig == u.u3) { vec := 10, cause := 2 }
  need (decide (gl ≤ 512)) { vec := 11, cause := 1 }
  let j := u.u0.toNat
  let u1 := u.u1.toNat
  let nd := bitsOf u1 16 10
  let len := nd / 2 + 1
  let i := bitsOf u1 26 20
  let (_, pat, _) ← readPattern c f.p false (gl - j) (off f.p + j)
  need (decide ((pat.filter editDigit).length + i ≤ 2 * len - 1)) { vec := 11, cause := 3 }
  let (src, _) ← readEach c 2 f.a (off f.a) len
  let dst := joinLocs (← eachAccess c 3 f.d.seg.toNat .write (off f.d) gl)
  match packedVal src with
  | none => return { trap := ← raiseFlags c (2 ^ fDD) }
  | some _ =>
    let r : EditRun := { fill := bitsOf u1 35 27, pat := pat, ds := (nibbles src).dropLast, neg := bitOf u1 18, nd := nd,
                         dst := dst, dig := dig }
    let first := if bitOf u.u2.toNat 35 then some (u.u2.toNat % 512) else none
    editRun c f r [] { k := j, i := i, s := bitOf u1 19, met := bitOf u1 17, first := first }

/-- EDIT and EDTM. -/
def editIns (c op : Nat) (ob : BitVec 6) (p a d g : Spec) (m : Option Spec) : State → Host.Outcome State Fault Refusal :=
  instr (strIns c op ob ([p, a, d, g] ++ m.toList)) do
    let l := strL ob
    let rs := [l, p.reg.toNat, a.reg.toNat, d.reg.toNat, g.reg.toNat] ++ m.toList.map (·.reg.toNat)
    need (decide (strV ob ≤ 1) && okStr p && okStr a && okStr d && okReg g && (m.toList.all okReg) && distinct rs) illegal
    idleRegs c rs
    let f : EditForm := { l := l, p := p, a := a, d := d, gs := g.reg.toNat, gm := m.map (·.reg.toNat),
                          zone := if strV ob = 0 then 3 else 15, op := op }
    match (← getCore c).micro with
    | some u => if u.u0 = 0 then editFresh c f else editResume c f u
    | none => editFresh c f

/-- EDIT (R160 to R166). -/
def execEdit (c : CoreId) (ob : BitVec 6) (p a d g : Spec) : State → Host.Outcome State Fault Refusal :=
  editIns c 0o151 ob p a d g none

/-- EDTM (R160 to R166). -/
def execEdtm (c : CoreId) (ob : BitVec 6) (p a d g m : Spec) : State → Host.Outcome State Fault Refusal :=
  editIns c 0o152 ob p a d g (some m)

/-! ## CWR and CRD (R49, R60, R245) -/

/-- The cells of a code line that hold parcel `k`: the first and how many (R47). -/
def parcelCells (k : Nat) : Nat × Nat := (14 * k / 9, (14 * k + 13) / 9 + 1 - 14 * k / 9)

/-- The cells that hold parcel `off` of the code window in S`seg`, checked (R47, R60), and their place in the line. -/
def codeCells (c i seg off : Nat) (acc : Access) : M (MemLoc × Nat) := do
  let k ← getCore c
  let rep : Rep := { opnd := i, seg := seg, off := off }
  let x ← segCheck (k.segAt k.bankNo seg) acc rep 1
  let p := x.base.toNat + off
  let (a, n) := parcelCells (p % 32)
  let ps ← chunkAccess c k.world k.sup true acc x.key.toNat (k.wr k.world).pkr.toNat rep n 5 [(0, 64 * (p / 32) + a, n)]
  idleCells c ps
  return ({ cells := ps, lin := 64 * (p / 32) + a }, p % 32)

/-- Bits below parcel `k` in the cells that hold it. -/
def parcelShift (k : Nat) : Nat :=
  let (a, n) := parcelCells k
  9 * (a + n) - 14 * k - 14

/-- Write cells of a code line without passing through L1 (R245). -/
def codeWrite (c : Nat) (ps : List PLoc) (cs : List Cell) : M Unit := do
  match ps with
  | [] => return ()
  | p :: _ =>
    let d ← get
    match d.region p.addr with
    | .localMem | .bank _ => set (d.writeRun (ps.zip cs) false 0 (c / 8) none none)
    | _ =>
      let e : SbEntry := { block := p.addr / 16, pol := p.pol, se := p.se,
                           cells := (ps.zip cs).map fun q => (q.1.addr - p.addr / 16 * 16, { v := q.2 }) }
      set ((d.drainEntry c e).getD d)
    modify fun d => d.dropCode (p.addr / 64)

/-- CWR: parcels from data to code (R49). -/
def execCwr (c : CoreId) (ob : BitVec 6) (s d : Spec) : State → Host.Outcome State Fault Refusal :=
  instr (strIns c 0o32 ob [s, d]) do
    let l := strL ob
    need (strV ob == 0 && okStr s && okStr d) illegal
    idleRegs c [l, s.reg.toNat, d.reg.toNat]
    let k ← getCore c
    let gl := (k.gr l).toNat
    let gs := (k.gr s.reg.toNat).toNat
    let gd := (k.gr d.reg.toNat).toNat
    let step (k : Nat) : M Bool := do
      let rep : Rep := { opnd := 1, seg := s.seg.toNat, off := gs + 2 * k }
      let loc ← memAccess c 1 s.seg.toNat (gs + 2 * k) 2 .read
      let v := cellsNat (← readLoc c rep loc) % 2 ^ 14
      let (cl, j) ← codeCells c 2 d.seg.toNat (gd + k) .cwr
      let old := cellsNat (← peekLoc c { opnd := 2, seg := d.seg.toNat, off := gd + k } cl)
      let sh := parcelShift j
      codeWrite c cl.cells (natCells cl.cells.length (setBits old (sh + 13) sh v))
      setReg c s.reg.toNat (gs + 2 * k + 2)
      setReg c d.reg.toNat (gd + k + 1)
      setReg c l (gl - k - 1)
      return false
    strBody c gl step noFin

/-- CRD: parcels from code to data (R49). -/
def execCrd (c : CoreId) (ob : BitVec 6) (s d : Spec) : State → Host.Outcome State Fault Refusal :=
  instr (strIns c 0o33 ob [s, d]) do
    let l := strL ob
    need (strV ob == 0 && okStr s && okStr d) illegal
    idleRegs c [l, s.reg.toNat, d.reg.toNat]
    let k ← getCore c
    let gl := (k.gr l).toNat
    let gs := (k.gr s.reg.toNat).toNat
    let gd := (k.gr d.reg.toNat).toNat
    let step (k : Nat) : M Bool := do
      let (cl, j) ← codeCells c 1 s.seg.toNat (gs + k) .crd
      let cs ← readLoc c { opnd := 1, seg := s.seg.toNat, off := gs + k } cl
      let sh := parcelShift j
      let loc ← memAccess c 2 d.seg.toNat (gd + 2 * k) 2 .write
      storeLoc c loc (natCells 2 (bitsOf (cellsNat cs) (sh + 13) sh))
      setReg c s.reg.toNat (gs + k + 1)
      setReg c d.reg.toNat (gd + 2 * k + 2)
      setReg c l (gl - k - 1)
      return false
    strBody c gl step noFin

end Sys2Proof.Machine
end

