-- ==== Sys2Proof/Machine/Dispatch.lean ====
section
/-!
DEFINITION. Which meaning each command has: one arm for each constructor of `Instr`.
-/

namespace Sys2Proof.Machine

def exec (i : Instr) (s : State) : Host.Outcome State Fault Refusal :=
  match i with
  | .nop c ob => Sys2Proof.Machine.execNop c ob s
  | .fence c ob => Sys2Proof.Machine.execFence c ob s
  | .fenceP c ob => Sys2Proof.Machine.execFenceP c ob s
  | .iflush c ob => Sys2Proof.Machine.execIflush c ob s
  | .svc c ob => Sys2Proof.Machine.execSvc c ob s
  | .sret c ob => Sys2Proof.Machine.execSret c ob s
  | .rte c ob => Sys2Proof.Machine.execRte c ob s
  | .mfc c ob d => Sys2Proof.Machine.execMfc c ob d s
  | .mtc c ob a => Sys2Proof.Machine.execMtc c ob a s
  | .mfcw c ob d => Sys2Proof.Machine.execMfcw c ob d s
  | .mtcw c ob a => Sys2Proof.Machine.execMtcw c ob a s
  | .mfb c ob d => Sys2Proof.Machine.execMfb c ob d s
  | .mtb c ob a => Sys2Proof.Machine.execMtb c ob a s
  | .lseg c ob a => Sys2Proof.Machine.execLseg c ob a s
  | .sseg c ob d => Sys2Proof.Machine.execSseg c ob d s
  | .br c ob ps => Sys2Proof.Machine.execBr c ob ps s
  | .bz c ob ps => Sys2Proof.Machine.execBz c ob ps s
  | .bnz c ob ps => Sys2Proof.Machine.execBnz c ob ps s
  | .jmp c ob a => Sys2Proof.Machine.execJmp c ob a s
  | .call c ob mask ps => Sys2Proof.Machine.execCall c ob mask ps s
  | .ret c ob => Sys2Proof.Machine.execRet c ob s
  | .loop c ob ps a => Sys2Proof.Machine.execLoop c ob ps a s
  | .lbrk c ob => Sys2Proof.Machine.execLbrk c ob s
  | .tlbi c ob a => Sys2Proof.Machine.execTlbi c ob a s
  | .tlbsync c ob => Sys2Proof.Machine.execTlbsync c ob s
  | .cwr c ob a d => Sys2Proof.Machine.execCwr c ob a d s
  | .crd c ob a d => Sys2Proof.Machine.execCrd c ob a d s
  | .sgoStart c ob a => Sys2Proof.Machine.execSgoStart c ob a s
  | .sgoResume c ob a => Sys2Proof.Machine.execSgoResume c ob a s
  | .sgoCancel c ob a => Sys2Proof.Machine.execSgoCancel c ob a s
  | .twait c ob a => Sys2Proof.Machine.execTwait c ob a s
  | .tsig c ob a => Sys2Proof.Machine.execTsig c ob a s
  | .gateCall c ob a => Sys2Proof.Machine.execGateCall c ob a s
  | .tbrd c ob d => Sys2Proof.Machine.execTbrd c ob d s
  | .tslotRead c ob a d => Sys2Proof.Machine.execTslotRead c ob a d s
  | .tslotWrite c ob a d => Sys2Proof.Machine.execTslotWrite c ob a d s
  | .idle c ob => Sys2Proof.Machine.execIdle c ob s
  | .add c ob a b d => Sys2Proof.Machine.execAdd c ob a b d s
  | .sub c ob a b d => Sys2Proof.Machine.execSub c ob a b d s
  | .mul c ob a b d => Sys2Proof.Machine.execMul c ob a b d s
  | .mulu c ob a b d => Sys2Proof.Machine.execMulu c ob a b d s
  | .div c ob a b d => Sys2Proof.Machine.execDiv c ob a b d s
  | .divu c ob a b d => Sys2Proof.Machine.execDivu c ob a b d s
  | .neg c ob a d => Sys2Proof.Machine.execNeg c ob a d s
  | .abs c ob a d => Sys2Proof.Machine.execAbs c ob a d s
  | .besidePipeComplete c => Sys2Proof.Machine.execBesidePipeComplete c s
  | .mov c ob a d => Sys2Proof.Machine.execMov c ob a d s
  | .and c ob a b d => Sys2Proof.Machine.execAnd c ob a b d s
  | .or c ob a b d => Sys2Proof.Machine.execOr c ob a b d s
  | .xor c ob a b d => Sys2Proof.Machine.execXor c ob a b d s
  | .andn c ob a b d => Sys2Proof.Machine.execAndn c ob a b d s
  | .not c ob a d => Sys2Proof.Machine.execNot c ob a d s
  | .shl c ob a b d => Sys2Proof.Machine.execShl c ob a b d s
  | .shr c ob a b d => Sys2Proof.Machine.execShr c ob a b d s
  | .sha c ob a b d => Sys2Proof.Machine.execSha c ob a b d s
  | .rol c ob a b d => Sys2Proof.Machine.execRol c ob a b d s
  | .ror c ob a b d => Sys2Proof.Machine.execRor c ob a b d s
  | .ins c ob a b d => Sys2Proof.Machine.execIns c ob a b d s
  | .ext c ob a b d => Sys2Proof.Machine.execExt c ob a b d s
  | .extu c ob a b d => Sys2Proof.Machine.execExtu c ob a b d s
  | .clz c ob a d => Sys2Proof.Machine.execClz c ob a d s
  | .popc c ob a d => Sys2Proof.Machine.execPopc c ob a d s
  | .perm c ob a b d => Sys2Proof.Machine.execPerm c ob a b d s
  | .ceq c ob a b d => Sys2Proof.Machine.execCeq c ob a b d s
  | .cne c ob a b d => Sys2Proof.Machine.execCne c ob a b d s
  | .clt c ob a b d => Sys2Proof.Machine.execClt c ob a b d s
  | .cle c ob a b d => Sys2Proof.Machine.execCle c ob a b d s
  | .cltu c ob a b d => Sys2Proof.Machine.execCltu c ob a b d s
  | .cleu c ob a b d => Sys2Proof.Machine.execCleu c ob a b d s
  | .tst c ob a b d => Sys2Proof.Machine.execTst c ob a b d s
  | .dadd c ob lp a b d => Sys2Proof.Machine.execDadd c ob lp a b d s
  | .dsub c ob lp a b d => Sys2Proof.Machine.execDsub c ob lp a b d s
  | .dmul c ob lp a b d => Sys2Proof.Machine.execDmul c ob lp a b d s
  | .ddiv c ob lp a b d => Sys2Proof.Machine.execDdiv c ob lp a b d s
  | .dcmp c ob lp a b d => Sys2Proof.Machine.execDcmp c ob lp a b d s
  | .dsrp c ob lp a b d => Sys2Proof.Machine.execDsrp c ob lp a b d s
  | .dzad c ob lp a d => Sys2Proof.Machine.execDzad c ob lp a d s
  | .dtst c ob lp a d => Sys2Proof.Machine.execDtst c ob lp a d s
  | .cvzp c ob lp a d => Sys2Proof.Machine.execCvzp c ob lp a d s
  | .cvpz c ob lp a d => Sys2Proof.Machine.execCvpz c ob lp a d s
  | .cvdb c ob lp a d => Sys2Proof.Machine.execCvdb c ob lp a d s
  | .cvdx c ob lp a d => Sys2Proof.Machine.execCvdx c ob lp a d s
  | .cvbd c ob lp a d => Sys2Proof.Machine.execCvbd c ob lp a d s
  | .cvxd c ob lp a d => Sys2Proof.Machine.execCvxd c ob lp a d s
  | .cvdq c ob lp a d => Sys2Proof.Machine.execCvdq c ob lp a d s
  | .cvqd c ob lp a d => Sys2Proof.Machine.execCvqd c ob lp a d s
  | .daddm c ob lp a b d => Sys2Proof.Machine.execDaddm c ob lp a b d s
  | .dsubm c ob lp a b d => Sys2Proof.Machine.execDsubm c ob lp a b d s
  | .dcmpm c ob lp a b d => Sys2Proof.Machine.execDcmpm c ob lp a b d s
  | .dzadm c ob lp a d => Sys2Proof.Machine.execDzadm c ob lp a d s
  | .dtstm c ob lp a d => Sys2Proof.Machine.execDtstm c ob lp a d s
  | .cvzpm c ob lp a d => Sys2Proof.Machine.execCvzpm c ob lp a d s
  | .cvpzm c ob lp a d => Sys2Proof.Machine.execCvpzm c ob lp a d s
  | .dclz c ob lp a d => Sys2Proof.Machine.execDclz c ob lp a d s
  | .zadd c ob lp a b d => Sys2Proof.Machine.execZadd c ob lp a b d s
  | .zsub c ob lp a b d => Sys2Proof.Machine.execZsub c ob lp a b d s
  | .zmul c ob lp a b d => Sys2Proof.Machine.execZmul c ob lp a b d s
  | .zdiv c ob lp a b d => Sys2Proof.Machine.execZdiv c ob lp a b d s
  | .zcmp c ob lp a b d => Sys2Proof.Machine.execZcmp c ob lp a b d s
  | .zsrp c ob lp a b d => Sys2Proof.Machine.execZsrp c ob lp a b d s
  | .zzad c ob lp a d => Sys2Proof.Machine.execZzad c ob lp a d s
  | .ztst c ob lp a d => Sys2Proof.Machine.execZtst c ob lp a d s
  | .mva c ob a d => Sys2Proof.Machine.execMva c ob a d s
  | .mvl c ob a d => Sys2Proof.Machine.execMvl c ob a d s
  | .mvf c ob a d f => Sys2Proof.Machine.execMvf c ob a d f s
  | .mvm c ob a d => Sys2Proof.Machine.execMvm c ob a d s
  | .cmc c ob a b d => Sys2Proof.Machine.execCmc c ob a b d s
  | .xlat c ob d t => Sys2Proof.Machine.execXlat c ob d t s
  | .xtst c ob a t d => Sys2Proof.Machine.execXtst c ob a t d s
  | .src c ob a v d => Sys2Proof.Machine.execSrc c ob a v d s
  | .srm c ob a d => Sys2Proof.Machine.execSrm c ob a d s
  | .edit c ob p a d g => Sys2Proof.Machine.execEdit c ob p a d g s
  | .edtm c ob p a d g m => Sys2Proof.Machine.execEdtm c ob p a d g m s
  | .fadd c ob a b d => Sys2Proof.Machine.execFadd c ob a b d s
  | .fsub c ob a b d => Sys2Proof.Machine.execFsub c ob a b d s
  | .fmul c ob a b d => Sys2Proof.Machine.execFmul c ob a b d s
  | .fdiv c ob a b d => Sys2Proof.Machine.execFdiv c ob a b d s
  | .fma c ob a b e d => Sys2Proof.Machine.execFma c ob a b e d s
  | .fsqrt c ob a d => Sys2Proof.Machine.execFsqrt c ob a d s
  | .fcmp c ob a b d => Sys2Proof.Machine.execFcmp c ob a b d s
  | .fcvt c ob a d => Sys2Proof.Machine.execFcvt c ob a d s
  | .qadd c ob a b d => Sys2Proof.Machine.execQadd c ob a b d s
  | .qsub c ob a b d => Sys2Proof.Machine.execQsub c ob a b d s
  | .qmul c ob a b d => Sys2Proof.Machine.execQmul c ob a b d s
  | .qdiv c ob a b d => Sys2Proof.Machine.execQdiv c ob a b d s
  | .qfma c ob a b e d => Sys2Proof.Machine.execQfma c ob a b e d s
  | .qsqrt c ob a d => Sys2Proof.Machine.execQsqrt c ob a d s
  | .qcmp c ob a b d => Sys2Proof.Machine.execQcmp c ob a b d s
  | .qqua c ob a b d => Sys2Proof.Machine.execQqua c ob a b d s
  | .qcvt c ob a d => Sys2Proof.Machine.execQcvt c ob a d s
  | .fmov c ob a d => Sys2Proof.Machine.execFmov c ob a d s
  | .qmov c ob a d => Sys2Proof.Machine.execQmov c ob a d s
  | .vld c ob a d => Sys2Proof.Machine.execVld c ob a d s
  | .vst c ob a d => Sys2Proof.Machine.execVst c ob a d s
  | .vadd c ob a b d => Sys2Proof.Machine.execVadd c ob a b d s
  | .vsub c ob a b d => Sys2Proof.Machine.execVsub c ob a b d s
  | .vmul c ob a b d => Sys2Proof.Machine.execVmul c ob a b d s
  | .vmulw c ob a b d => Sys2Proof.Machine.execVmulw c ob a b d s
  | .vdmul c ob a b d => Sys2Proof.Machine.execVdmul c ob a b d s
  | .vdot c ob a b d => Sys2Proof.Machine.execVdot c ob a b d s
  | .vddot c ob a b d => Sys2Proof.Machine.execVddot c ob a b d s
  | .vand c ob a b d => Sys2Proof.Machine.execVand c ob a b d s
  | .vor c ob a b d => Sys2Proof.Machine.execVor c ob a b d s
  | .vxor c ob a b d => Sys2Proof.Machine.execVxor c ob a b d s
  | .vcmp c ob a b d => Sys2Proof.Machine.execVcmp c ob a b d s
  | .vsel c ob a b d => Sys2Proof.Machine.execVsel c ob a b d s
  | .vmask c ob a b d => Sys2Proof.Machine.execVmask c ob a b d s
  | .svl c ob a d => Sys2Proof.Machine.execSvl c ob a d s
  | .padd c ob a d => Sys2Proof.Machine.execPadd c ob a d s
  | .padf c ob a f d => Sys2Proof.Machine.execPadf c ob a f d s
  | .pswp c ob r d => Sys2Proof.Machine.execPswp c ob r d s
  | .pcas c ob e n d => Sys2Proof.Machine.execPcas c ob e n d s
  | .pbad c ob a d => Sys2Proof.Machine.execPbad c ob a d s
  | .lkt c ob lk g => Sys2Proof.Machine.execLkt c ob lk g s
  | .lkr c ob lk => Sys2Proof.Machine.execLkr c ob lk s
  | .postingStatusReturn c => Sys2Proof.Machine.execPostingStatusReturn c s
  | .interruptRequestArrival c => Sys2Proof.Machine.execInterruptRequestArrival c s
  | .interruptAccept c => Sys2Proof.Machine.execInterruptAccept c s
  | .schedulerEvent c slot ev seqno => Sys2Proof.Machine.execSchedulerEvent c slot ev seqno s
  | .signalArrival c => Sys2Proof.Machine.execSignalArrival c s
  | .preempt c => Sys2Proof.Machine.execPreempt c s
  | .detModeEnter c => Sys2Proof.Machine.execDetModeEnter c s
  | .storeBufferDrain c => Sys2Proof.Machine.execStoreBufferDrain c s
  | .lineBufferFill c world line demand => Sys2Proof.Machine.execLineBufferFill c world line demand s
  | .tableWalk isl q => Sys2Proof.Machine.execTableWalk isl q s
  | .invalidationArrival isl => Sys2Proof.Machine.execInvalidationArrival isl s
  | .epochAging isl => Sys2Proof.Machine.execEpochAging isl s
  | .epochageWrite v value => Sys2Proof.Machine.execEpochageWrite v value s
  | .descriptorCheck isl => Sys2Proof.Machine.execDescriptorCheck isl s
  | .elementCommit isl => Sys2Proof.Machine.execElementCommit isl s
  | .descriptorEnd isl => Sys2Proof.Machine.execDescriptorEnd isl s
  | .geyserFence isl => Sys2Proof.Machine.execGeyserFence isl s
  | .programEnd isl => Sys2Proof.Machine.execProgramEnd isl s
  | .contextSwitch isl => Sys2Proof.Machine.execContextSwitch isl s
  | .runFormation isl => Sys2Proof.Machine.execRunFormation isl s
  | .mergePass isl => Sys2Proof.Machine.execMergePass isl s
  | .postingArrival p => Sys2Proof.Machine.execPostingArrival p s
  | .groupService p => Sys2Proof.Machine.execGroupService p s
  | .postingAcknowledge p => Sys2Proof.Machine.execPostingAcknowledge p s
  | .bankAtomic isl => Sys2Proof.Machine.execBankAtomic isl s
  | .scrubRead p slot upset => Sys2Proof.Machine.execScrubRead p slot upset s
  | .refresh k management => Sys2Proof.Machine.execRefresh k management s
  | .bankHandover v isl b owner => Sys2Proof.Machine.execBankHandover v isl b owner s
  | .handoverComplete isl b => Sys2Proof.Machine.execHandoverComplete isl b s
  | .forcedHandover v isl b owner => Sys2Proof.Machine.execForcedHandover v isl b owner s
  | .bankrepWrite v isl b value => Sys2Proof.Machine.execBankrepWrite v isl b value s
  | .heatSample frame world src peer => Sys2Proof.Machine.execHeatSample frame world src peer s
  | .windowEnd => Sys2Proof.Machine.execWindowEnd s
  | .forwardingLapse c => Sys2Proof.Machine.execForwardingLapse c s
  | .moveBudgetTick => Sys2Proof.Machine.execMoveBudgetTick s
  | .pageMoveStart => Sys2Proof.Machine.execPageMoveStart s
  | .pageMoveCopyDone k => Sys2Proof.Machine.execPageMoveCopyDone k s
  | .pageMoveFinish k => Sys2Proof.Machine.execPageMoveFinish k s
  | .moveAbandon k => Sys2Proof.Machine.execMoveAbandon k s
  | .clmoveRead v size => Sys2Proof.Machine.execClmoveRead v size s
  | .clfrzWrite v value => Sys2Proof.Machine.execClfrzWrite v value s
  | .clhtbEnable v value => Sys2Proof.Machine.execClhtbEnable v value s
  | .sqDoorbell q value => Sys2Proof.Machine.execSqDoorbell q value s
  | .cqDoorbell q value => Sys2Proof.Machine.execCqDoorbell q value s
  | .queueEnable v q value => Sys2Proof.Machine.execQueueEnable v q value s
  | .queueReset v q value => Sys2Proof.Machine.execQueueReset v q value s
  | .queueResetDone q => Sys2Proof.Machine.execQueueResetDone q s
  | .descriptorFetch q bytes ok => Sys2Proof.Machine.execDescriptorFetch q bytes ok s
  | .nopDescriptor q => Sys2Proof.Machine.execNopDescriptor q s
  | .writeDescriptor q => Sys2Proof.Machine.execWriteDescriptor q s
  | .readDescriptor q => Sys2Proof.Machine.execReadDescriptor q s
  | .postDescriptor q => Sys2Proof.Machine.execPostDescriptor q s
  | .msgDescriptor q => Sys2Proof.Machine.execMsgDescriptor q s
  | .streamDescriptor q => Sys2Proof.Machine.execStreamDescriptor q s
  | .conversionRecord q => Sys2Proof.Machine.execConversionRecord q s
  | .hostDmaComplete q bytes ok => Sys2Proof.Machine.execHostDmaComplete q bytes ok s
  | .qdone v q value => Sys2Proof.Machine.execQdone v q value s
  | .completionWrite q => Sys2Proof.Machine.execCompletionWrite q s
  | .coalesceTimeout q => Sys2Proof.Machine.execCoalesceTimeout q s
  | .msixUnmask fn vector => Sys2Proof.Machine.execMsixUnmask fn vector s
  | .cellWindowWrite offset bytes => Sys2Proof.Machine.execCellWindowWrite offset bytes s
  | .cellWindowRead offset n => Sys2Proof.Machine.execCellWindowRead offset n s
  | .hostReadCompletion c bytes ok => Sys2Proof.Machine.execHostReadCompletion c bytes ok s
  | .functionLevelReset fn => Sys2Proof.Machine.execFunctionLevelReset fn s
  | .linkRetrain rate width => Sys2Proof.Machine.execLinkRetrain rate width s
  | .spdmRequest transport code param => Sys2Proof.Machine.execSpdmRequest transport code param s
  | .sourceEvent n => Sys2Proof.Machine.execSourceEvent n s
  | .swset v n => Sys2Proof.Machine.execSwset v n s
  | .isrcRouteChange v n value => Sys2Proof.Machine.execIsrcRouteChange v n value s
  | .join v twin => Sys2Proof.Machine.execJoin v twin s
  | .promote v force => Sys2Proof.Machine.execPromote v force s
  | .demote v => Sys2Proof.Machine.execDemote v s
  | .resolveContinue v => Sys2Proof.Machine.execResolveContinue v s
  | .resolveYield v => Sys2Proof.Machine.execResolveYield v s
  | .leave v => Sys2Proof.Machine.execLeave v s
  | .recordHandover => Sys2Proof.Machine.execRecordHandover s
  | .recordApply r => Sys2Proof.Machine.execRecordApply r s
  | .ackTimer => Sys2Proof.Machine.execAckTimer s
  | .twinAckReceive seq => Sys2Proof.Machine.execTwinAckReceive seq s
  | .asyncLagExceeded => Sys2Proof.Machine.execAsyncLagExceeded s
  | .heartbeatSend => Sys2Proof.Machine.execHeartbeatSend s
  | .heartbeatReceive standby epoch seq time => Sys2Proof.Machine.execHeartbeatReceive standby epoch seq time s
  | .twinArbToggle => Sys2Proof.Machine.execTwinArbToggle s
  | .twinArbSample level => Sys2Proof.Machine.execTwinArbSample level s
  | .twinArbEdge => Sys2Proof.Machine.execTwinArbEdge s
  | .heartbeatTimeout => Sys2Proof.Machine.execHeartbeatTimeout s
  | .dyingGaspReceive => Sys2Proof.Machine.execDyingGaspReceive s
  | .takeoverFrameReceive seq => Sys2Proof.Machine.execTakeoverFrameReceive seq s
  | .lineCopyRequest line => Sys2Proof.Machine.execLineCopyRequest line s
  | .lineCopyResponse line cells info => Sys2Proof.Machine.execLineCopyResponse line cells info s
  | .resyncComplete => Sys2Proof.Machine.execResyncComplete s
  | .forwardedDescriptor q index bytes => Sys2Proof.Machine.execForwardedDescriptor q index bytes s
  | .closeMarker => Sys2Proof.Machine.execCloseMarker s
  | .batchDigest digest => Sys2Proof.Machine.execBatchDigest digest s
  | .ppsOutPulse => Sys2Proof.Machine.execPpsOutPulse s
  | .ppsInEdge => Sys2Proof.Machine.execPpsInEdge s
  | .ptpMessage port event => Sys2Proof.Machine.execPtpMessage port event s
  | .poolDatagram peer seq ack body => Sys2Proof.Machine.execPoolDatagram peer seq ack body s
  | .poolResend peer => Sys2Proof.Machine.execPoolResend peer s
  | .farRequest peer req => Sys2Proof.Machine.execFarRequest peer req s
  | .promotionAnnounce peer => Sys2Proof.Machine.execPromotionAnnounce peer s
  | .ethernetLinkChange port up => Sys2Proof.Machine.execEthernetLinkChange port up s
  | .parityError u addr hasAddr got repeatOk => Sys2Proof.Machine.execParityError u addr hasAddr got repeatOk s
  | .faultFence => Sys2Proof.Machine.execFaultFence s
  | .recoveryComplete => Sys2Proof.Machine.execRecoveryComplete s
  | .recoveryOverBudget => Sys2Proof.Machine.execRecoveryOverBudget s
  | .coldStart => Sys2Proof.Machine.execColdStart s
  | .startStepComplete err prefB a b => Sys2Proof.Machine.execStartStepComplete err prefB a b s
  | .warmReset cause => Sys2Proof.Machine.execWarmReset cause s
  | .islandReset v mask => Sys2Proof.Machine.execIslandReset v mask s
  | .coreReset v c => Sys2Proof.Machine.execCoreReset v c s
  | .mailboxStatus v tag => Sys2Proof.Machine.execMailboxStatus v tag s
  | .flashWrite v tag image => Sys2Proof.Machine.execFlashWrite v tag image s
  | .mcLoad v tag copyB => Sys2Proof.Machine.execMcLoad v tag copyB s
  | .mcLoadCore c => Sys2Proof.Machine.execMcLoadCore c s
  | .fuseSvn v tag => Sys2Proof.Machine.execFuseSvn v tag s
  | .softRepair v tag k ch row => Sys2Proof.Machine.execSoftRepair v tag k ch row s
  | .debugUnlock v tag serial slot signed => Sys2Proof.Machine.execDebugUnlock v tag serial slot signed s
  | .lockFields v tag => Sys2Proof.Machine.execLockFields v tag s
  | .blockLockSet v b => Sys2Proof.Machine.execBlockLockSet v b s
  | .microwordReload c failsAgain => Sys2Proof.Machine.execMicrowordReload c failsAgain s
  | .dormantRequest v => Sys2Proof.Machine.execDormantRequest v s
  | .fumWakeAssert ns => Sys2Proof.Machine.execFumWakeAssert ns s
  | .wakeComplete hashOk => Sys2Proof.Machine.execWakeComplete hashOk s
  | .islandGate isl => Sys2Proof.Machine.execIslandGate isl s
  | .islandUngate isl => Sys2Proof.Machine.execIslandUngate isl s
  | .freqChange v isl value => Sys2Proof.Machine.execFreqChange v isl value s
  | .throttleStep die tempHalfC => Sys2Proof.Machine.execThrottleStep die tempHalfC s
  | .thermalTrip stack tempHalfC => Sys2Proof.Machine.execThermalTrip stack tempHalfC s
  | .comparatorMatch n => Sys2Proof.Machine.execComparatorMatch n s
  | .analogAlarm k input => Sys2Proof.Machine.execAnalogAlarm k input s
  | .watchdogExpiry => Sys2Proof.Machine.execWatchdogExpiry s
  | .watchdogKick v value => Sys2Proof.Machine.execWatchdogKick v value s
  | .timeStep v value => Sys2Proof.Machine.execTimeStep v value s
  | .vaonPowerUp => Sys2Proof.Machine.execVaonPowerUp s
  | .railDrop rail => Sys2Proof.Machine.execRailDrop rail s
  | .refclockLoss clk => Sys2Proof.Machine.execRefclockLoss clk s
  | .debugHalt c => Sys2Proof.Machine.execDebugHalt c s
  | .debugResume c => Sys2Proof.Machine.execDebugResume c s
  | .debugStep c => Sys2Proof.Machine.execDebugStep c s
  | .custodyDebugAccess addr data n busy => Sys2Proof.Machine.execCustodyDebugAccess addr data n busy s
  | .traceEnable isl => Sys2Proof.Machine.execTraceEnable isl s
  | .registerWrite v offset size value => Sys2Proof.Machine.execRegisterWrite v offset size value s
  | .warmStart => Sys2Proof.Machine.execWarmStart s
  | .vaonRemoval => Sys2Proof.Machine.execVaonRemoval s
  | .twinLinkChange up half => Sys2Proof.Machine.execTwinLinkChange up half s
  | .configurationRequest fn r => Sys2Proof.Machine.execConfigurationRequest fn r s
  | .tapInstruction t => Sys2Proof.Machine.execTapInstruction t s
  | .arbseenExpiry => Sys2Proof.Machine.execArbseenExpiry s
  | .journalRecordAged => Sys2Proof.Machine.execJournalRecordAged s

end Sys2Proof.Machine
end

