-- ==== Sys2Proof/Machine/Time.lean ====
section
/-!
DEFINITION. What passes while no command waits: one nanosecond of Fumarole's time base (R502), with RATE, the absorption of a negative
step and the watchdog's countdown (R505); stores to the register windows reach their registers (R329), Caldera takes a sample
(R353) and tells homes of removals (R371), queue enables that wait go on (R384), records that had to wait
are applied (R427), and a promotion or DEMOTE in progress goes on when its conditions hold (R440, R445).
-/

namespace Sys2Proof.Machine

/-- One nanosecond in units of 2⁻³². -/
def nsUnit : Nat := 2 ^ 32

/-- What one count adds to the time base, in units of 2⁻³² ns: RATE steers it (R502); after the loss of the Fumarole clock the
internal oscillator counts, within 2 % (R534). -/
def countUnits (rate : Nat) (lost : Bool) (n : Nat) : Nat :=
  let inc := ((nsUnit : Int) + signed 32 rate).toNat
  if lost then inc + Config.oscillator n % (2 * 85899345 + 1) - 85899345 else inc

/-- The time base after `inc` more units: a negative step still to absorb takes half of them (R502). -/
def Fumarole.advance (f : Fumarole) (inc : Nat) : Fumarole :=
  let used := Nat.min (inc / 2) f.absorb
  let t := f.frac + (inc - used)
  { f with time := f.time + t / nsUnit, frac := t % nsUnit, absorb := f.absorb - used }

/-- One nanosecond of Fumarole's clock: the time base, and the watchdog's count while it is enabled. -/
def Fumarole.count (f : Fumarole) (d : Dev) : Fumarole :=
  let f := f.advance (countUnits (d.fld offFTBADJ 63 32) f.clockLost d.free)
  { f with wdLeft := if d.bit offFWD 16 then f.wdLeft - 1 else f.wdLeft }

/-- What the device does of itself in that time. -/
def Dev.passing (d : Dev) : Dev := d.landStores.takeSample.reportRemovals.enableStep.applyWaiting.promoteStep.demoteStep

/-- The step on an empty queue (log entry 9); nothing passes without VAON. -/
def tick (s : State) : State :=
  if !s.fum.on then s
  else
    let f := s.fum.count s.dev
    let d := if s.fum.clockLost then s.dev.bumpFree else s.dev
    { s with fum := f, dev := { d with now := f.time }.passing }.settle

end Sys2Proof.Machine
end

