-- ==== Sys2Proof/Machine/Step.lean ====
section
/-!
DEFINITION. A step of the block: the command at the front of the queue runs with the queue's rest; on an empty queue one
nanosecond of Fumarole's clock passes (log entry 9).
-/

namespace Sys2Proof.Machine

/-- One step. -/
def step (s : State) : Host.Outcome State Fault Refusal :=
  match s.pending with
  | c :: rest => exec c { s with pending := rest }
  | [] => .next (tick s)

/-- `s` with the command that a word spells put at the front of its queue; no word spells one, because no row of the table gives
bits. -/
def State.withFetchWord (s : State) (nbits w : Nat) : State :=
  match Sys2Proof.decodeTableWord nbits w with
  | some i => { s with pending := i :: s.pending }
  | none => s

end Sys2Proof.Machine
end

