-- ==== Sys2Proof/Safety.lean ====
section
/-!
DEFINITION. What the statements hold safe of a step: memory in its canonical form, and a step that answers a next state.
-/

namespace Sys2Proof

/-- The invariant of device memory: addresses strictly rising, no zero cell listed. -/
def Safety.memOk (s : Machine.State) : Prop := Machine.Memory.wf s.dev.mem

/-- A command that completes: it answers a next state. -/
def Safety.completes (i : Instr) (s : Machine.State) : Prop := ∃ t, Machine.exec i s = .next t

end Sys2Proof
end

