-- ==== Sys2Proof/Certificates/Slice0/Obligations.lean ====
section
/-!
DEFINITION. The statements for the provers. Each `Obligations.<Name>` says what its name states; OBLIGATIONS.json gives its rules. A
statement about an instruction takes its operand steps by the operations that the machine uses for them, and gives the result by
the manual's own formula.
-/

namespace Sys2Proof.Claims

open Sys2Proof Sys2Proof.Machine

/-! ## How statements about instructions are put -/

/-- The device as a command finds it: the time base is latched (log entry 8). -/
def now (s : State) : Dev := { s.dev with now := s.fum.time }

/-- The state with device `d`, Fumarole and fuses untouched. -/
def withDev (s : State) (d : Dev) : State := { s with dev := d }

/-- Action `m` completes on `d`, answers `a` and leaves `d'`. -/
def Gives {α : Type} (m : M α) (d : Dev) (a : α) (d' : Dev) : Prop := m d = (.ok a, d')

/-- Core `x.c` may execute instruction `x` now: it runs and no event is due (R214); no micro-state is being resumed (R211); the
parcels were fetched without a fault (R48); and the instruction has at most ten parcels (R65). -/
def Ready (x : Ins) (d : Dev) : Prop :=
  d.canRun x.c = true ∧ (d.core x.c).micro = none ∧
  (d.core x.c).fetchFault (d.core x.c).pc.toNat (Nat.min x.len 10) = none ∧ x.len ≤ 10

/-- Execution goes on after an instruction of `len` parcels on core `c`, with the loop-back check of R101 and the distances of R80; the
line buffers that held it are used (R238), and a handler's first instruction is past (R249). -/
def goesOn (c len : Nat) (d : Dev) : Dev :=
  let k := d.core c
  let lb := loopBack k.bank k.pc.toNat ((k.pc.toNat + len) % 2 ^ 36)
  (d.updCore c fun x =>
    let y := ((x.setBank x.bankNo lb.1).countExp).useLines k.pc.toNat len
    { y with pc := BitVec.ofNat 36 lb.2, ext := [], micro := none, fresh := false, strDone := 0 }).endStep c

/-- Whether the branch-target buffer entry of a PC is fenced (R457). -/
def btbDead (c : Nat) (pc : Word) (d : Dev) : Bool :=
  d.hub.fenced.any fun u => match u with
    | .coreEntry x .btbEntry n => x.val == c && n == pc.toNat % 512
    | _ => false

/-- Execution goes on at parcel index `t` after an instruction of `len` parcels (R98, R99); a branch trains the branch-target buffer when
`btb` (R240). -/
def goesTo (c len t : Nat) (btb : Bool) (d : Dev) : Dev :=
  let pc := (d.core c).pc
  let tw := BitVec.ofNat 36 t
  ((d.updCore c fun k =>
    let k := { k.countExp.useLines pc.toNat len with pc := tw, ext := [], micro := none, fresh := false, strDone := 0 }
    if btb && !k.det && !btbDead c pc d then { k with btb := btbTaken k.btb k.world pc tw } else k).trace c 1 0 tw).endStep c

/-- The sticky flags `sf` are raised on core `c`. -/
def flagged (c sf : Nat) (d : Dev) : Dev := d.updCore c fun k => k.raiseSf sf

/-- No trap that is enabled follows from flags `sf` (R57). -/
def NoTrap (c sf : Nat) (d : Dev) : Prop := trapOf (d.core c).te sf = none

/-- The register updates of modes 4 and 5, then the cells of a result into its operand (R72). -/
def Writes (c : Nat) (upd : AMap Word) (dst : Dst) (cs : List Cell) (d d' : Dev) : Prop :=
  ∃ d1, Gives (commitUpd c upd) d () d1 ∧ Gives (putDst c dst cs) d1 () d'

/-- The register updates of modes 4 and 5, then a G register. -/
def WritesG (c : Nat) (upd : AMap Word) (r v : Nat) (d d' : Dev) : Prop :=
  ∃ d1, Gives (commitUpd c upd) d () d1 ∧ Gives (wrG c r (BitVec.ofNat 36 v)) d1 () d'

/-- How an instruction that takes many cycles ends (R91): in ordinary mode its writes `ws` and flags wait beside the pipe, none of their
targets having a result in flight, and the enables in effect now choose their trap (R57, R80); in deterministic mode they are made at
once. -/
def Ends (c : Nat) (ws : List Wr) (sf : Nat) (d d' : Dev) : Prop :=
  if (d.core c).det then ∃ d1, Gives (applyWrs c ws) d () d1 ∧ NoTrap c sf d1 ∧ d' = flagged c sf d1
  else ws.any (wrBusy (d.core c)) = false ∧
    d' = d.updCore c fun k => { k with beside := k.beside ++ [{ pc := k.pc, writes := ws, sf := BitVec.ofNat 8 sf, te := BitVec.ofNat 8 k.te }] }

/-- A source and a destination of `n` cells are read and checked (R69 to R72): the value, and where the result goes. -/
def One (c n : Nat) (a e : Spec) (d : Dev) (x : Nat) (dst : Dst) (upd : AMap Word) (d' : Dev) : Prop :=
  ∃ u d1, Gives (srcNat c 1 n a []) d (x, u) d1 ∧ Gives (dstOpd c 2 n e u) d1 (dst, upd) d'

/-- The two sources of an instruction, the second of `nb` cells. -/
def Sources (c n nb : Nat) (a b : Spec) (d : Dev) (x y : Nat) (upd : AMap Word) (d' : Dev) : Prop :=
  ∃ u d1, Gives (srcNat c 1 n a []) d (x, u) d1 ∧ Gives (srcNat c 2 nb b u) d1 (y, upd) d'

/-- Two sources and a destination of `n` cells. -/
def Two (c n nb : Nat) (a b e : Spec) (d : Dev) (x y : Nat) (dst : Dst) (upd : AMap Word) (d' : Dev) : Prop :=
  ∃ v d1, Sources c n nb a b d x y v d1 ∧ Gives (dstOpd c 3 n e v) d1 (dst, upd) d'

/-! ## Integer instructions -/

/-- Operand width in bits of an integer instruction (R82). -/
def bits (ob : BitVec 6) : Nat := 9 * widthCells ob

/-- OV of an exact signed result at `w` bits (R87). -/
def ovOf (w : Nat) (v : Int) : Nat := if -(2 ^ (w - 1) : Nat) ≤ v ∧ v < (2 ^ (w - 1) : Nat) then 0 else 128

/-- An exact signed result at `w` bits: its low bits, and OV (R87). -/
def fit (w : Nat) (v : Int) : Nat × Nat := (wrap w v, ovOf w v)

/-- An integer instruction of one source: constructor, opcode, allowed widths, result and flags from width and operand. -/
structure IntOne where
  cmd : CoreId → BitVec 6 → Spec → Spec → Instr
  op : Nat
  ok : BitVec 6 → Bool
  val : Nat → Nat → Nat × Nat

/-- Integer instructions of one source (R87, R92, R95). -/
def oneSource : List IntOne :=
  [⟨.neg, 0o046, fun _ => true, fun w x => fit w (-signed w x)⟩,
   ⟨.abs, 0o047, fun _ => true, fun w x => fit w (signed w x).natAbs⟩,
   ⟨.mov, 0o050, fun _ => true, fun _ x => (x, 0)⟩,
   ⟨.not, 0o055, fun _ => true, fun w x => (2 ^ w - 1 - x, 0)⟩,
   ⟨.clz, 0o066, fun ob => decide (32 ≤ ob.toNat), fun w x => (if x = 0 then w else w - 1 - Nat.log2 x, 0)⟩,
   ⟨.popc, 0o067, fun _ => true, fun w x => (((List.range w).filter fun i => x.testBit i).length, 0)⟩]

/-- An integer instruction of two sources: also whether the second source is a word. -/
structure IntTwo where
  cmd : CoreId → BitVec 6 → Spec → Spec → Spec → Instr
  op : Nat
  ok : BitVec 6 → Bool
  word : Bool
  val : Nat → Nat → Nat → Nat × Nat

/-- Integer instructions of two sources (R87, R92 to R96). -/
def twoSources : List IntTwo :=
  [⟨.add, 0o040, fun _ => true, false, fun w x y => fit w (signed w x + signed w y)⟩,
   ⟨.sub, 0o041, fun _ => true, false, fun w x y => fit w (signed w x - signed w y)⟩,
   ⟨.and, 0o051, fun _ => true, false, fun _ x y => (x &&& y, 0)⟩,
   ⟨.or, 0o052, fun _ => true, false, fun _ x y => (x ||| y, 0)⟩,
   ⟨.xor, 0o053, fun _ => true, false, fun _ x y => (x ^^^ y, 0)⟩,
   ⟨.andn, 0o054, fun _ => true, false, fun w x y => (x &&& (2 ^ w - 1 - y), 0)⟩,
   ⟨.shl, 0o056, fun _ => true, true, fun w x y => (x * 2 ^ (y % 256) % 2 ^ w, 0)⟩,
   ⟨.shr, 0o057, fun _ => true, true, fun _ x y => (x / 2 ^ (y % 256), 0)⟩,
   ⟨.sha, 0o060, fun _ => true, true, fun w x y => (wrap w (signed w x / (2 ^ (y % 256) : Nat)), 0)⟩,
   ⟨.rol, 0o061, fun _ => true, true, fun w x y => (x * 2 ^ (y % 256 % w) % 2 ^ w + x / 2 ^ (w - y % 256 % w), 0)⟩,
   ⟨.ror, 0o062, fun _ => true, true, fun w x y =>
      let s := (w - y % 256 % w) % w
      (x * 2 ^ s % 2 ^ w + x / 2 ^ (w - s), 0)⟩,
   ⟨.ext, 0o064, fun _ => true, true, fun w x f =>
      let (p, n) := fieldOf w f
      (if n = 0 then 0 else wrap w (signed n (x / 2 ^ p % 2 ^ n)), 0)⟩,
   ⟨.extu, 0o065, fun _ => true, true, fun w x f => (x / 2 ^ (fieldOf w f).1 % 2 ^ (fieldOf w f).2, 0)⟩,
   ⟨.perm, 0o070, fun ob => decide (48 ≤ ob.toNat), true, fun _ x y => (cellsNat (permCells x y), 0)⟩]

/-- An integer compare: constructor, opcode, predicate on width and operands. -/
structure IntCmp where
  cmd : CoreId → BitVec 6 → Spec → Spec → Spec → Instr
  op : Nat
  holds : Nat → Nat → Nat → Bool

/-- Integer compares and the test (R97). -/
def compares : List IntCmp :=
  [⟨.ceq, 0o071, fun _ x y => x == y⟩, ⟨.cne, 0o072, fun _ x y => !(x == y)⟩,
   ⟨.clt, 0o073, fun w x y => decide (signed w x < signed w y)⟩, ⟨.cle, 0o074, fun w x y => !decide (signed w y < signed w x)⟩,
   ⟨.cltu, 0o075, fun _ x y => decide (x < y)⟩, ⟨.cleu, 0o076, fun _ x y => !decide (y < x)⟩,
   ⟨.tst, 0o077, fun _ x y => !(x &&& y == 0)⟩]

/-- The multiplies (R87): constructor, opcode, product of the operands and flags. -/
def multiplies : List IntTwo :=
  [⟨.mul, 0o042, fun _ => true, false, fun w x y => fit w (signed w x * signed w y)⟩,
   ⟨.mulu, 0o043, fun _ => true, false, fun w x y => (x * y % 2 ^ w, if x * y < 2 ^ w then 0 else 128)⟩]

/-- A divide: quotient, remainder and flags from width and operands. -/
structure IntDiv where
  cmd : CoreId → BitVec 6 → Spec → Spec → Spec → Instr
  op : Nat
  val : Nat → Nat → Nat → Nat × Nat × Nat

/-- The divides (R87, R89): a zero divisor gives all ones and the dividend, and DZ. -/
def divides : List IntDiv :=
  [⟨.div, 0o044, fun w x y =>
      if signed w y = 0 then (2 ^ w - 1, x, 64)
      else
        let q := (signed w x).tdiv (signed w y)
        (wrap w q, wrap w (signed w x - signed w y * q), ovOf w q)⟩,
   ⟨.divu, 0o045, fun w x y => if y = 0 then (2 ^ w - 1, x, 64) else (x / y, x % y, 0)⟩]

end Sys2Proof.Claims

open Sys2Proof Sys2Proof.Machine Sys2Proof.Claims

/-- NEG, ABS, MOV, NOT, CLZ and POPC, and ADD, SUB, AND, OR, XOR, ANDN, SHL, SHR, SHA, ROL, ROR, EXT, EXTU and PERM write their
result, raise their flags and go on, when no enabled trap condition arises (R92, R93, R95, R96). -/
def Obligations.IntegerResultsComplete : Prop :=
  (∀ r ∈ oneSource, ∀ (s : State) (c : CoreId) (ob : BitVec 6) (a e : Spec) (x : Nat) (dst : Dst) (upd : AMap Word) (d1 d2 : Dev),
     let i : Ins := { c := c, op := r.op, ob := ob.toNat, specs := [a, e] }
     let n := widthCells ob
     let v := r.val (bits ob) x
     Ready i (now s) →
     (ob.toNat % 16 = 0 ∧ r.ok ob = true ∧ okIntSrc n a = true ∧ okIntDst n e = true) →
     One c n a e (now s) x dst upd d1 →
     Writes c upd dst (natCells n v.1) d1 d2 →
     NoTrap c v.2 d2 →
     exec (r.cmd c ob a e) s = .next (withDev s (goesOn c i.len (flagged c v.2 d2)))) ∧
  (∀ r ∈ twoSources, ∀ (s : State) (c : CoreId) (ob : BitVec 6) (a b e : Spec) (x y : Nat) (dst : Dst) (upd : AMap Word) (d1 d2 : Dev),
     let i : Ins := { c := c, op := r.op, ob := ob.toNat, specs := [a, b, e] }
     let n := widthCells ob
     let nb := if r.word then 4 else n
     let v := r.val (bits ob) x y
     Ready i (now s) →
     (ob.toNat % 16 = 0 ∧ r.ok ob = true ∧ okIntSrc n a = true ∧ okIntSrc nb b = true ∧ okIntDst n e = true) →
     Two c n nb a b e (now s) x y dst upd d1 →
     Writes c upd dst (natCells n v.1) d1 d2 →
     NoTrap c v.2 d2 →
     exec (r.cmd c ob a b e) s = .next (withDev s (goesOn c i.len (flagged c v.2 d2))))

/-- The compares and TST write 0 or 1 into all bits of a G register (R85, R97). -/
def Obligations.IntegerComparesComplete : Prop :=
  ∀ r ∈ compares, ∀ (s : State) (c : CoreId) (ob : BitVec 6) (a b e : Spec) (x y : Nat) (upd : AMap Word) (d1 d2 : Dev),
    let i : Ins := { c := c, op := r.op, ob := ob.toNat, specs := [a, b, e] }
    let n := widthCells ob
    Ready i (now s) →
    (ob.toNat % 16 = 0 ∧ okIntSrc n a = true ∧ okIntSrc n b = true ∧ okReg e = true) →
    Sources c n n a b (now s) x y upd d1 →
    WritesG c upd e.reg.toNat (if r.holds (bits ob) x y then 1 else 0) d1 d2 →
    exec (r.cmd c ob a b e) s = .next (withDev s (goesOn c i.len d2))

/-- MUL and MULU, DIV and DIVU with the remainder to G`q` after the quotient, and INS (R87 to R89, R91, R94). -/
def Obligations.MultiplyDivideInsertComplete : Prop :=
  (∀ r ∈ multiplies, ∀ (s : State) (c : CoreId) (ob : BitVec 6) (a b e : Spec) (x y : Nat) (dst : Dst) (upd : AMap Word) (d1 d2 d3 : Dev),
    let i : Ins := { c := c, op := r.op, ob := ob.toNat, specs := [a, b, e] }
    let n := widthCells ob
    let v := r.val (bits ob) x y
    Ready i (now s) →
    (ob.toNat % 16 = 0 ∧ okIntSrc n a = true ∧ okIntSrc n b = true ∧ okIntDst n e = true) →
    Two c n n a b e (now s) x y dst upd d1 →
    Gives (commitUpd c upd) d1 () d2 →
    Ends c (dstWrites (d2.core c) dst (natCells n v.1)) v.2 d2 d3 →
    exec (r.cmd c ob a b e) s = .next (withDev s (goesOn c i.len d3))) ∧
  (∀ r ∈ divides, ∀ (s : State) (c : CoreId) (ob : BitVec 6) (a b e : Spec) (x y : Nat) (dst : Dst) (upd : AMap Word)
      (old : List Cell) (d1 d2 d3 d4 : Dev),
    let i : Ins := { c := c, op := r.op, ob := ob.toNat, specs := [a, b, e] }
    let n := widthCells ob
    let q := ob.toNat % 16
    let v := r.val (bits ob) x y
    let ws := dstWrites (d3.core c) dst (natCells n v.1)
    Ready i (now s) →
    ((n ≠ 8 ∨ q % 2 = 0) ∧ okIntSrc n a = true ∧ okIntSrc n b = true ∧ okIntDst n e = true) →
    Two c n n a b e (now s) x y dst upd d1 →
    Gives (regCells c q n upd) d1 old d2 →
    Gives (commitUpd c upd) d2 () d3 →
    Ends c (ws ++ dstWrites ((d3.core c).afterWrites ws) (.g q n) (natCells n v.2.1)) v.2.2 d3 d4 →
    exec (r.cmd c ob a b e) s = .next (withDev s (goesOn c i.len d4))) ∧
  (∀ (s : State) (c : CoreId) (ob : BitVec 6) (a b e : Spec) (x f : Nat) (old : List Cell) (dst : Dst) (u upd : AMap Word) (d1 d2 d3 : Dev),
    let i : Ins := { c := c, op := 0o063, ob := ob.toNat, specs := [a, b, e] }
    let n := widthCells ob
    let (p, m) := fieldOf (bits ob) f
    let v := cellsNat old
    Ready i (now s) →
    (ob.toNat % 16 = 0 ∧ okIntSrc n a = true ∧ okIntSrc 4 b = true ∧ okIntDst n e = true) →
    Sources c n 4 a b (now s) x f u d1 →
    Gives (rmwOpd c 3 n e u) d1 (old, dst, upd) d2 →
    Writes c upd dst (natCells n (v / 2 ^ (p + m) * 2 ^ (p + m) + x % 2 ^ m * 2 ^ p + v % 2 ^ p)) d2 d3 →
    exec (.ins c ob a b e) s = .next (withDev s (goesOn c i.len d3)))

namespace Sys2Proof.Claims

open Sys2Proof Sys2Proof.Machine

/-! ## Control instructions -/

/-- Bits 1:0 of the opcode parcel count the in-line parcels, 1 to 3 (R76). -/
def Inline (ob : BitVec 6) (ps : List Parcel) : Prop := ob.toNat % 4 ≠ 0 ∧ ps.length = ob.toNat % 4

/-- The target of a displacement (R98). -/
def target (c : Nat) (ps : List Parcel) (d : Dev) : Nat := ((d.core c).pc.toNat + dispOf ps) % 2 ^ 36

/-- A conditional branch falls through: its branch-target buffer entry's counter falls, not below 0 (R240). -/
def fellThrough (c : Nat) (d : Dev) : Dev := d.updCore c fun k =>
  { k with btb := k.btb.map fun e => if e.pc = k.pc ∧ e.world = k.world then { e with ctr := BitVec.ofNat 2 (e.ctr.toNat - 1) } else e }

/-- The device with the exposed distances of core `c` ended (R80). -/
def settled (c : Nat) (d : Dev) : Dev := d.updCore c Core.flushExp

/-- Nothing of core `c` runs beside the pipe. -/
def PipeEmpty (c : Nat) (d : Dev) : Prop := (d.core c).beside = []

/-- Every register of `rs` has the value of `vs` at its place, with no result in flight. -/
def Regs (c : Nat) (rs : List Nat) (d : Dev) : Prop := ∀ r ∈ rs, (d.core c).gBusy (d.core c).bankNo r = false

/-- The task-level copy of core `c` from which execution leaves at `pc`, written in its own control state (R101). -/
def leavesTo (c kind : Nat) (pc : Word) (d : Dev) : Dev :=
  ((d.updCore c fun k => { k.useLines k.pc.toNat 1 with pc := pc, ext := [], micro := none, fresh := false }).trace c kind 0 pc).endStep c

end Sys2Proof.Claims

/-- NOP goes on; BR goes to its target; BZ and BNZ go there when all bits of G`t` are zero, or any is one, and else go on; JMP goes to the
parcel index that its operand gives (R73, R98, R99). CALL stores the mask, the return index and the registers that the mask names through
S1 below G15, and goes to its target; RET reads the mask, checks it, restores the registers and G15, and goes to the return index (R104,
R105). -/
def Obligations.TransfersOfControlComplete : Prop :=
(∀ (s : State) (c : CoreId), let i : Ins := { c := c, op := 0o001, ob := 0 }
    Ready i (now s) → exec (.nop c 0) s = .next (withDev s (goesOn c 1 (now s)))) ∧
  (∀ (s : State) (c : CoreId) (ob : BitVec 6) (ps : List Parcel), let i : Ins := { c := c, op := 0o020, ob := ob.toNat, inl := ps }
    Ready i (now s) → ob.toNat < 4 → Inline ob ps →
    exec (.br c ob ps) s = .next (withDev s (goesTo c i.len (target c ps (now s)) true (now s)))) ∧
  (∀ (s : State) (c : CoreId) (ob : BitVec 6) (ps : List Parcel) (z : Bool),
    let i : Ins := { c := c, op := if z then 0o021 else 0o022, ob := ob.toNat, inl := ps }
    Ready i (now s) → Inline ob ps → Regs c [ob.toNat / 4] (now s) →
    exec (if z then .bz c ob ps else .bnz c ob ps) s = .next (withDev s
      (if ((now s).core c).gr (ob.toNat / 4) = 0 ↔ z = true then goesTo c i.len (target c ps (now s)) true (now s)
       else goesOn c i.len (fellThrough c (now s))))) ∧
  (∀ (s : State) (c : CoreId) (a : Spec) (v : Nat) (upd : AMap Word) (d1 d2 : Dev),
    let i : Ins := { c := c, op := 0o023, ob := 0, specs := [a] }
    Ready i (now s) → okIntSrc 4 a = true → Gives (srcNat c 1 4 a []) (now s) (v, upd) d1 → Gives (commitUpd c upd) d1 () d2 →
    exec (.jmp c 0 a) s = .next (withDev s (goesTo c i.len v true d2))) ∧
(∀ (s : State) (c : CoreId) (ob : BitVec 6) (mask : Parcel) (ps : List Parcel) (loc : MemLoc) (d1 d2 d3 : Dev),
    let i : Ins := { c := c, op := 0o024, ob := ob.toNat, lp := [mask], inl := ps }
    let m := ob.toNat / 16 * 2 ^ 14 + mask.toNat
    let rs := (List.range 15).filter fun r => m.testBit r
    let k := (now s).core c
    let base := (k.gr 15 - BitVec.ofNat 36 (4 * (2 + rs.length))).toNat
    Ready i (now s) → (ob.toNat / 4 % 4 = 0 ∧ Inline ob ps ∧ m.testBit 15 = false) → Regs c (15 :: rs) d1 → Regs c [15] (now s) →
    Gives (memAccess c 0 1 base (4 * (2 + rs.length)) .write) (now s) loc d1 →
    Gives (storeLoc c loc (wordsCells (BitVec.ofNat 36 m :: (k.pc + BitVec.ofNat 36 i.len) :: rs.map (d1.core c).gr))) d1 () d2 →
    Gives (wrG c 15 (BitVec.ofNat 36 base)) d2 () d3 →
    exec (.call c ob mask ps) s = .next (withDev s (goesTo c i.len (target c ps (now s)) true d3))) ∧
  (∀ (s : State) (c : CoreId) (l1 l2 : MemLoc) (cs es : List Cell) (d1 d2 d3 d4 d5 d6 : Dev),
    let i : Ins := { c := c, op := 0o025, ob := 0 }
    let base := (((now s).core c).gr 15).toNat
    let rep : Rep := { opnd := 0, seg := 1, off := base }
    let rs := (List.range 15).filter fun r => (cellsNat cs).testBit r
    let ws := cellsWords es
    Ready i (now s) → Regs c [15] (now s) →
    Gives (memAccess c 0 1 base 4 .read) (now s) l1 d1 → Gives (readLoc c rep l1) d1 cs d2 → cellsNat cs < 2 ^ 15 →
    Gives (memAccess c 0 1 base (4 * (2 + rs.length)) .read) d2 l2 d3 → Gives (readLoc c rep l2) d3 es d4 →
    Gives (writeRegs c (rs.zip (ws.drop 2))) d4 () d5 → Gives (wrG c 15 (BitVec.ofNat 36 (base + 4 * (2 + rs.length)))) d5 () d6 →
    exec (.ret c 0) s = .next (withDev s (goesTo c i.len (ws.getD 1 0).toNat true d6)))

/-- LOOP with a count of 0 goes to the loop's end; with a count and room on the loop stack it pushes the loop and goes to its top;
LBRK ends the innermost loop and goes to its LEXIT (R100, R102). -/
def Obligations.LoopsComplete : Prop :=
  (∀ (s : State) (c : CoreId) (ob : BitVec 6) (ps : List Parcel) (a : Spec) (n : Nat) (upd : AMap Word) (d1 d2 : Dev),
    let i : Ins := { c := c, op := 0o026, ob := ob.toNat, inl := ps, specs := [a] }
    let b := ((now s).core c).pc.toNat + i.len
    let e : Int := ((now s).core c).pc.toNat + signed (14 * ps.length) (parcelsNat ps)
    Ready i (now s) → (ob.toNat < 4 ∧ Inline ob ps ∧ okIntSrc 4 a = true) → ((b : Int) < e ∧ e < (2 ^ 36 : Nat)) →
    Gives (srcNat c 1 4 a []) (now s) (n, upd) d1 → Gives (commitUpd c upd) d1 () d2 →
    (n = 0 → exec (.loop c ob ps a) s = .next (withDev s (goesTo c i.len e.toNat false d2))) ∧
    (n ≠ 0 → (d1.core c).bank.dep ≠ 4 → exec (.loop c ob ps a) s = .next (withDev s (goesTo c i.len b false (d2.updCore c fun k =>
      let l : LoopRegs := { top := BitVec.ofNat 36 b, exit := BitVec.ofNat 36 e.toNat, rem := BitVec.ofNat 36 n }
      let x := k.bank
      k.setBank k.bankNo (if x.dep = 0 then { x with cur := l, dep := 1 }
        else { x with cur := l, l1 := x.cur, l2 := x.l1, l3 := x.l2, dep := x.dep + 1 })))))) ∧
  (∀ (s : State) (c : CoreId), let i : Ins := { c := c, op := 0o027, ob := 0 }
    let b := ((now s).core c).bank
    Ready i (now s) → b.dep ≠ 0 →
    exec (.lbrk c 0) s = .next (withDev s (goesTo c i.len b.cur.exit.toNat false ((now s).updCore c fun k => k.setBank k.bankNo
      (if b.dep = 1 then { b with dep := 0 } else { b with cur := b.l1, l1 := b.l2, l2 := b.l3, dep := b.dep - 1 })))))

/-- FENCE, FENCE.P, IFLUSH and TLBSYNC end the exposed distances once what they wait for has come, IFLUSH empties the line buffers and
the branch-target buffer, and TLBI launches its invalidation toward every island (R80, R246, R316, R317, R348 to R350). -/
def Obligations.FencesComplete : Prop :=
  (∀ (s : State) (c : CoreId) (d1 : Dev), Ready { c := c, op := 0o002, ob := 0 } (now s) → Gives (storesVisible c) (now s) () d1 →
    ((d1.core c).posts.all fun p => d1.postAccepted p) = true →
    exec (.fence c 0) s = .next (withDev s (goesOn c 1 (settled c d1)))) ∧
  (∀ (s : State) (c : CoreId) (ob : BitVec 6) (d1 : Dev), ob.toNat < 2 → Ready { c := c, op := 0o003, ob := ob.toNat } (now s) →
    Gives (storesVisible c) (now s) () d1 → (d1.core c).posts = [] → (ob = 1 → d1.twinHas (d1.core c).twinSeq = true) →
    exec (.fenceP c ob) s = .next (withDev s (goesOn c 1 (settled c d1)))) ∧
  (∀ (s : State) (c : CoreId), Ready { c := c, op := 0o004, ob := 0 } (now s) → PipeEmpty c (now s) →
    exec (.iflush c 0) s = .next (withDev s (goesOn c 1 ((now s).updCore c fun k => { k.flushExp with lbuf := [], btb := [] })))) ∧
  (∀ (s : State) (c : CoreId) (d1 : Dev), Ready { c := c, op := 0o031, ob := 0 } (now s) → ((now s).core c).sup = true →
    Gives (storesVisible c) (now s) () d1 → (d1.islands.any fun i => i.2.inv.any fun v => v.core == some c.val) = false →
    d1.accessPending = false →
    exec (.tlbsync c 0) s = .next (withDev s (goesOn c 1 (settled c d1)))) ∧
  (∀ (s : State) (c : CoreId) (kind : Fin 4) (a : Spec) (x : Nat) (upd : AMap Word) (d1 d2 d3 : Dev),
    let ob : BitVec 6 := BitVec.ofNat 6 (8 * kind.val)
    let i : Ins := { c := c, op := 0o030, ob := ob.toNat, specs := [a] }
    let w0 := x / 2 ^ 36
    let w1 := x % 2 ^ 36
    let v : Inval := ⟨some c, kind, bitOf w0 35, bitsOf w0 34 33, bitOf w0 32, BitVec.ofNat 4 w0, w1⟩
    Ready i (now s) → okIntSrc 8 a = true → ((now s).core c).sup = true → Gives (srcNat c 1 8 a []) (now s) (x, upd) d1 →
    tlbiBad kind w0 w1 = false → ((d1.core c).world = true ∨ bitOf w0 35 = false ∧ bitOf w0 32 = false) →
    Gives (commitUpd c upd) d1 () d2 → Gives (storesVisible c) d2 () d3 →
    exec (.tlbi c ob a) s = .next (withDev s (goesOn c i.len (d3.broadcast v))))

namespace Sys2Proof.Claims

open Sys2Proof Sys2Proof.Machine

/-! ## System instructions -/

/-- The running code may use the extended state when it reaches for it (R52). -/
def Owns (c : Nat) (b : Prop) (d : Dev) : Prop := b → (d.core c).xav = true

/-- A control register read or written in the current context: rights, extended state, and a pipe that is empty for CSTAT (R58). -/
def CtlReady (c num : Nat) (write : Bool) (d : Dev) : Prop :=
  (ctlUser num write = true ∨ (d.core c).sup = true) ∧ Owns c (num = 7 ∨ num = 8) d ∧ (num = 0 → PipeEmpty c d)

/-- Core `c` is in CS (R77). -/
def InCS (c : Nat) (d : Dev) : Prop := (d.core c).sup = true ∧ (d.core c).world = true

/-- MFB and MTB may reach register `num` of the bank that BWIN selects (R53, R215). -/
def BankReady (c num : Nat) (d : Dev) : Prop :=
  (d.core c).bwin.toNat ≤ 10 ∧ num ≤ 36 ∧ (d.core c).sup = true ∧
  ((d.core c).world = true ∨ d.bankWorld c (d.core c).bwin.toNat = false)

/-- What MFB reads (R53): a G register, the selector of a segment register, or a loop register. -/
def bankReg (k : Core) (b num : Nat) : Word :=
  if num < 16 then k.gAt b num else if num < 24 then BitVec.ofNat 36 (k.segAt b (num - 16)).sel.toNat else (k.bankAt b).loopReg num

/-- One destination of `n` cells. -/
def Place (c n : Nat) (e : Spec) (d : Dev) (dst : Dst) (upd : AMap Word) (d' : Dev) : Prop := Gives (dstOpd c 1 n e []) d (dst, upd) d'

/-- Linear address of the SCB that an SGO names (R255). -/
def scbLinOf (c : Nat) (rep : Rep) (d : Dev) : Nat :=
  let k := d.core c
  ((k.segAt k.bankNo rep.seg).base' + rep.off) % 2 ^ 48

/-- The snapshot that an SGO takes of its core (R259), for a core that stands as `k`. -/
def sgoSnapshot (c : Nat) (rep : Rep) (loc : MemLoc) (cs : List Cell) (k : Core) (d : Dev) : GeyCtx :=
  let seg := k.segAt k.bankNo rep.seg
  { world := k.world, scbLin := (seg.base' + rep.off) % 2 ^ 48, scbKey := (match seg.desc with | some x => x.key | none => 0),
    scbJr := loc.jr, scbTag := loc.segtag, pseg := bitsOf (cellsNat (cs.take 4)) 32 30, segs := k.bank.s, pkr := (k.wr k.world).pkr,
    sup := k.sup, droot := BitVec.ofNat 64 (d.rd (offRoot1 k.world false)),
    croot := BitVec.ofNat 64 (d.rd (offRoot1 k.world true)), slot := k.runSlot.getD 0, core := c, st := 1,
    w := [(1, cellsWord ((cs.drop 4).take 4))], det := k.det }

/-- What an SGO stores into its SCB (R256, R258): word 0, and words 1 to 15 of a new context or word 4 where it is written. -/
def scbStores (c : Nat) (loc : MemLoc) (cs : List Cell) (r : SgoResult) (k : Core) : M Unit := do
  let w0 := natCells 4 (sgoWord0 (cellsNat (cs.take 4)) r.st (k.runSlot.getD 0) c k.world (c / 8))
  if r.clear then storeLoc c loc (w0 ++ (cs.drop 4).take 4 ++ List.replicate 56 0)
  else
    storeLoc c { loc with cells := loc.cells.take 4 } w0
    match r.w4 with
    | some v => storeLoc c { loc with cells := (loc.cells.drop 16).take 4 } (natCells 4 v)
    | none => pure ()

/-- The SGO row of a CMD. -/
def sgoCommand (cmd : Fin 3) : CoreId → BitVec 6 → Spec → Instr :=
  match cmd with
  | 0 => .sgoStart
  | 1 => .sgoResume
  | _ => .sgoCancel

end Sys2Proof.Claims

/-- MFC and MFCW read a control register into their operand, MTC and MTCW write one, of the current world or of the ledger world's
copy, subject to the rights of R58 and to the exposed distances of R79. -/
def Obligations.ControlRegistersComplete : Prop :=
  (∀ (s : State) (c : CoreId) (ob : BitVec 6) (e : Spec) (dst : Dst) (upd : AMap Word) (d1 d2 : Dev),
    let i : Ins := { c := c, op := 0o010, ob := ob.toNat, specs := [e] }
    Ready i (now s) → ob.toNat ≤ 16 → okIntDst 4 e = true → CtlReady c ob.toNat false (now s) → Place c 4 e (now s) dst upd d1 →
    Writes c upd dst (wordCells ((d1.core c).ctl c ob.toNat (d1.core c).world)) d1 d2 →
    exec (.mfc c ob e) s = .next (withDev s (goesOn c i.len d2))) ∧
  (∀ (s : State) (c : CoreId) (ob : BitVec 6) (a : Spec) (v : Nat) (upd : AMap Word) (d1 d2 : Dev),
    let i : Ins := { c := c, op := 0o011, ob := ob.toNat, specs := [a] }
    Ready i (now s) → ob.toNat ≤ 15 → okIntSrc 4 a = true → CtlReady c ob.toNat true (now s) →
    Gives (srcNat c 1 4 a []) (now s) (v, upd) d1 → (ob.toNat = 12 → v ≤ 4) → (ob.toNat = 0 → bitsOf v 24 22 ≤ 4) →
    Gives (commitUpd c upd) d1 () d2 →
    exec (.mtc c ob a) s = .next (withDev s (goesOn c i.len (d2.updCore c fun k => k.setCtl d2.lockMode ob.toNat k.world v)))) ∧
  (∀ (s : State) (c : CoreId) (ob : BitVec 6) (e : Spec) (dst : Dst) (upd : AMap Word) (d1 d2 : Dev),
    let i : Ins := { c := c, op := 0o012, ob := ob.toNat, specs := [e] }
    Ready i (now s) → ob.toNat ∈ [1, 3, 4, 5, 6, 13, 14, 15] → okIntDst 4 e = true → InCS c (now s) → Place c 4 e (now s) dst upd d1 →
    Writes c upd dst (wordCells ((d1.core c).ctl c ob.toNat false)) d1 d2 →
    exec (.mfcw c ob e) s = .next (withDev s (goesOn c i.len d2))) ∧
  (∀ (s : State) (c : CoreId) (ob : BitVec 6) (a : Spec) (v : Nat) (upd : AMap Word) (d1 d2 : Dev),
    let i : Ins := { c := c, op := 0o013, ob := ob.toNat, specs := [a] }
    Ready i (now s) → ob.toNat ∈ [1, 3, 4, 5, 6, 13, 14, 15] → okIntSrc 4 a = true → InCS c (now s) →
    Gives (srcNat c 1 4 a []) (now s) (v, upd) d1 → Gives (commitUpd c upd) d1 () d2 →
    exec (.mtcw c ob a) s = .next (withDev s (goesOn c i.len (d2.updCore c fun k => k.setCtl false ob.toNat false v))))

/-- MFB reads, and MTB writes, a register of the bank that BWIN selects; LSEG loads a segment register by its checks, the old value
exposed to the next three instructions; SSEG stores a selector (R53, R61, R79, R215). -/
def Obligations.BankAndSegmentRegistersComplete : Prop :=
  (∀ (s : State) (c : CoreId) (ob : BitVec 6) (e : Spec) (dst : Dst) (upd : AMap Word) (d1 d2 : Dev),
    let i : Ins := { c := c, op := 0o014, ob := ob.toNat, specs := [e] }
    let b := ((now s).core c).bwin.toNat
    Ready i (now s) → okIntDst 4 e = true → BankReady c ob.toNat (now s) → Place c 4 e (now s) dst upd d1 →
    (ob.toNat < 16 → (d1.core c).gBusy b ob.toNat = false) → Writes c upd dst (wordCells (bankReg (d1.core c) b ob.toNat)) d1 d2 →
    exec (.mfb c ob e) s = .next (withDev s (goesOn c i.len d2))) ∧
  (∀ (s : State) (c : CoreId) (ob : BitVec 6) (a : Spec) (v : Nat) (upd : AMap Word) (d1 d2 : Dev),
    let i : Ins := { c := c, op := 0o015, ob := ob.toNat, specs := [a] }
    let b := ((now s).core c).bwin.toNat
    Ready i (now s) → okIntSrc 4 a = true → BankReady c ob.toNat (now s) → Gives (srcNat c 1 4 a []) (now s) (v, upd) d1 →
    (ob.toNat < 16 → Gives (commitUpd c upd) d1 () d2 → (d2.core c).gBusy b ob.toNat = false →
      exec (.mtb c ob a) s = .next (withDev s (goesOn c i.len (d2.updCore c fun k => k.setGAt b ob.toNat (BitVec.ofNat 36 v))))) ∧
    (∀ (r : SegReg) (d3 : Dev), 16 ≤ ob.toNat → ob.toNat < 24 →
      Gives (loadSeg c (d1.core c).world false v { opnd := 1, seg := ob.toNat - 16 }) d1 r d3 → Gives (commitUpd c upd) d3 () d2 →
      exec (.mtb c ob a) s = .next (withDev s (goesOn c i.len (d2.updCore c fun k =>
        if b = (d1.core c).bankNo then k.expose 3 (.seg b (ob.toNat - 16) r) else k.setSegAt b (ob.toNat - 16) r)))) ∧
    (24 ≤ ob.toNat → (ob.toNat = 27 → v ≤ 4) → Gives (commitUpd c upd) d1 () d2 →
      exec (.mtb c ob a) s = .next (withDev s (goesOn c i.len (d2.updCore c fun k =>
        if b = (d1.core c).bankNo ∧ ob.toNat < 28 then k.expose 2 (.loopReg b ob.toNat (BitVec.ofNat 36 v))
        else k.setBank b ((k.bankAt b).setLoopReg ob.toNat (BitVec.ofNat 36 v))))))) ∧
  (∀ (s : State) (c : CoreId) (ob : BitVec 6) (a : Spec) (v : Nat) (upd : AMap Word) (r : SegReg) (d1 d2 d3 : Dev),
    let i : Ins := { c := c, op := 0o016, ob := ob.toNat, specs := [a] }
    Ready i (now s) → ob.toNat < 8 → okIntSrc 4 a = true → Gives (srcNat c 1 4 a []) (now s) (v, upd) d1 →
    Gives (loadSeg c (d1.core c).world (!(d1.core c).sup) v { opnd := 1, seg := ob.toNat }) d1 r d2 → Gives (commitUpd c upd) d2 () d3 →
    exec (.lseg c ob a) s = .next (withDev s (goesOn c i.len (d3.updCore c fun k => k.expose 3 (.seg k.bankNo ob.toNat r))))) ∧
  (∀ (s : State) (c : CoreId) (ob : BitVec 6) (e : Spec) (dst : Dst) (upd : AMap Word) (d1 d2 : Dev),
    let i : Ins := { c := c, op := 0o017, ob := ob.toNat, specs := [e] }
    let k := d1.core c
    Ready i (now s) → ob.toNat < 8 → okIntDst 4 e = true → Place c 4 e (now s) dst upd d1 →
    Writes c upd dst (natCells 4 (k.segAt k.bankNo ob.toNat).sel.toNat) d1 d2 →
    exec (.sseg c ob e) s = .next (withDev s (goesOn c i.len d2)))

/-- SVC saves the index after it and CSTAT in LNK and SSTAT, exchanges G15 with SCE_SP, enters supervisor level and goes to SCE_PC; SRET
exchanges G15 with SCE_SP, restores CSTAT from SSTAT, XAV apart, and goes to LNK (R106, R107). An accepted frame is restored by RTE: G15
moves past it, CSTAT and the PC come from it, and at task level the slot that it names takes its PC and status and runs, when it is valid,
running and resident (R209, R210). -/
def Obligations.SupervisorCallsAndReturnsComplete : Prop :=
(∀ (s : State) (c : CoreId), let k := ((now s).core c).flushExp
    let w := k.wr k.world
    Ready { c := c, op := 0o005, ob := 0 } (now s) → ((now s).core c).sup = false → PipeEmpty c (now s) → Regs c [15] (now s) →
    exec (.svc c 0) s = .next (withDev s (leavesTo c 1 w.scePc ((now s).updCore c fun _ =>
      ((k.setG 15 w.sceSp).setWr k.world { w with lnk := k.pc + 1, sstat := k.cstat, sceSp := k.gr 15 }).setStat 34 34 1)))) ∧
  (∀ (s : State) (c : CoreId), let k0 := (now s).core c
    let k := k0.flushExp
    let w := k.wr k.world
    let st := (k0.wr k0.world).sstat.toNat
    Ready { c := c, op := 0o006, ob := 0 } (now s) → k0.sup = true → (bitOf st 35 = k0.world ∧ bitsOf st 33 31 = k0.plev) →
    bitsOf st 24 22 ≤ 4 → PipeEmpty c (now s) → Regs c [15] (now s) →
    exec (.sret c 0) s = .next (withDev s (leavesTo c 1 w.lnk ((now s).updCore c fun _ =>
      ((k.setG 15 w.sceSp).setWr k.world { w with sceSp := k.gr 15 }).loadStat (now s).lockMode
        (setBits st 25 25 (flagNat k0.xav)))))) ∧
  (∀ (s : State) (c : CoreId) (loc : MemLoc) (cs : List Cell) (d1 d2 : Dev),
     let i : Ins := { c := c, op := 0o007, ob := 0 }
     let base := (((now s).core c).gr 15).toNat
     let ws := cellsWords cs
     let st := ws.getD 2 0
     let k := d2.core c
     Ready i (now s) → ((now s).core c).sup = true → PipeEmpty c (now s) → Regs c [15] (now s) →
     Gives (memAccess c 0 1 base 48 .read) (now s) loc d1 → Gives (readLoc c { opnd := 0, seg := 1, off := base } loc) d1 cs d2 →
     bitsOf (ws.getD 0 0).toNat 35 34 = 0 → rteCheck k ws = none →
     let y := (k.flushExp.setG 15 (BitVec.ofNat 36 (base + 48))).loadStat d2.lockMode st.toNat
     let k' := { y.useLines y.pc.toNat 1 with pc := ws.getD 1 0, ext := [], micro := none, fresh := false }
     let d3 := (d2.updCore c fun _ => k').trace c 3 0 (ws.getD 1 0)
     let n := bitsOf (ws.getD 8 0).toNat 6 0
     let x := { k'.slot n with pc := ws.getD 1 0, tstat := st }
     (0 < k'.plev → exec (.rte c 0) s = .next (withDev s ((d3.formXav c).endStep c))) ∧
     (k'.plev = 0 → x.valid = true → x.st = .running → x.res = true →
       exec (.rte c 0) s = .next (withDev s
         (((d3.updCore c fun k => { k.setSlot n x with runSlot := some n, lastSlot := n, taskBank := x.bank.toNat }).formXav c).endStep c))))

/-- TWAIT consumes awaited events, or yields on an empty mask, or blocks its slot; IDLE stops fetching (R226, R230). TSIG sends a signal
toward its core; a gate call delivers its custody gate; TBRD reads the time base (R75, R208, R227). TSLOT reads or writes a field of a
task slot, or XOWN, when its command word and value pass the checks of R224 and R218. -/
def Obligations.TaskInstructionsComplete : Prop :=
(∀ (s : State) (c : CoreId) (a : Spec) (n : Nat) (d1 : Dev),
    let i : Ins := { c := c, op := 0o035, ob := 0, specs := [a] }
    let k := (now s).core c
    let m := BitVec.ofNat 5 (k.gr a.reg.toNat).toNat
    let e := (k.slot n).evpend &&& m
    Ready i (now s) → okReg a = true → k.plev = 0 → k.runSlot = some n → PipeEmpty c (now s) → Regs c [a.reg.toNat] (now s) →
    (e ≠ 0 → Gives (wrG c a.reg.toNat (BitVec.ofNat 36 e.toNat)) (now s) () d1 →
      exec (.twait c 0 a) s = .next (withDev s (goesOn c i.len
        (d1.updCore c fun k => k.setSlot n { k.slot n with evpend := (k.slot n).evpend &&& ~~~e })))) ∧
    (m = 0 → Gives (do wrG c a.reg.toNat 0; complete c i.len {}) (now s) () d1 →
      exec (.twait c 0 a) s = .next (withDev s (((d1.updCore c Core.yieldTask).dispatch c).endStep c))) ∧
    (e = 0 → m ≠ 0 →
      exec (.twait c 0 a) s = .next (withDev s ((((now s).updCore c fun k =>
        let k := ({ k with ext := [] }).leave .blocked
        k.setSlot n { k.slot n with evmask := m }).dispatch c).endStep c)))) ∧
  (∀ (s : State) (c : CoreId) (d1 : Dev), let i : Ins := { c := c, op := 0o377, sec := 3, ob := 0 }
    Ready i (now s) → ((now s).core c).sup = true → PipeEmpty c (now s) → Gives (complete c i.len {}) (now s) () d1 →
    exec (.idle c 0) s = .next (withDev s (((d1.updCore c fun k => { k with idle := true }).wakeIdle c).endStep c))) ∧
(∀ (s : State) (c : CoreId) (a : Spec) (v : Nat) (upd : AMap Word) (d1 d2 : Dev),
    let i : Ins := { c := c, op := 0o036, ob := 0, specs := [a] }
    Ready i (now s) → okIntSrc 4 a = true → Gives (srcNat c 1 4 a []) (now s) (v, upd) d1 →
    (bitsOf v 35 23 = 0 ∧ bitsOf v 15 6 = 0 ∧ bitsOf v 22 16 < 96) → Gives (commitUpd c upd) d1 () d2 →
    exec (.tsig c 0 a) s = .next (withDev s (goesOn c i.len { d2 with
      sigNet := d2.sigNet ++ [⟨bitsOf v 22 16, v % 64, (d2.core c).world⟩] }))) ∧
  (∀ (s : State) (c : CoreId) (a : Spec) (v : Nat) (upd : AMap Word) (cs : List Cell) (d1 d2 d3 d4 : Dev),
    let i : Ins := { c := c, op := 0o036, ob := 0, specs := [a] }
    let k := d1.core c
    let w0 := ((cellsWords cs).getD 0 0).toNat
    Ready i (now s) → okIntSrc 4 a = true → Gives (srcNat c 1 4 a []) (now s) (v, upd) d1 →
    (bitsOf v 35 34 = 3 ∧ bitsOf v 33 8 = 0 ∧ 64 ≤ v % 256) → k.sup = true → k.world = false → PipeEmpty c d1 →
    Gives (readLin c true {} (k.cus.hdtb.toNat * 4096 + 16 * (v % 256)) 16) d1 cs d2 → (bitOf w0 35 = true ∧ bitsOf w0 34 33 = 1) →
    Gives (commitUpd c upd) d2 () d3 →
    Gives (deliverAfter c { vec := v % 256, world := true, gate := true, spc := BitVec.ofNat 36 (k.pc.toNat + i.len), fpc := k.pc }) d3 () d4 →
    exec (.gateCall c 0 a) s = .next (withDev s ((d4.updCore c fun k => { k with ext := [] }).endStep c))) ∧
  (∀ (s : State) (c : CoreId) (e : Spec) (dst : Dst) (upd : AMap Word) (d1 d2 : Dev),
    let i : Ins := { c := c, op := 0o377, sec := 1, ob := 0, specs := [e] }
    Ready i (now s) → okIntDst 8 e = true → Place c 8 e (now s) dst upd d1 →
    Writes c upd dst (natCells 8 (d1.now % 2 ^ 64)) d1 d2 →
    exec (.tbrd c 0 e) s = .next (withDev s (goesOn c i.len d2))) ∧
  (∀ (s : State) (c : CoreId) (a e : Spec) (v : Nat) (u : AMap Word) (d1 : Dev),
     let i : Ins := { c := c, op := 0o377, sec := 2, ob := 0, specs := [a, e] }
     let n := bitsOf v 13 8
     let f := bitsOf v 3 0
     let k := d1.core c
     Ready i (now s) → ((now s).core c).sup = true → okIntSrc 4 a = true → okIntSrc 4 e = true →
     Gives (srcNat c 1 4 a []) (now s) (v, u) d1 → (bitsOf v 34 14 = 0 ∧ bitsOf v 7 4 = 0 ∧ f < 8) →
     (∀ (dst : Dst) (upd : AMap Word) (d2 d3 : Dev), bitOf v 35 = false → okIntDst 4 e = true →
       (k.world = true ∨ f = 7 ∨ (k.slot n).world = false) → Gives (dstOpd c 2 4 e u) d1 (dst, upd) d2 →
       Writes c upd dst (natCells 4 (if f = 7 then d2.xown c else (k.slot n).field f)) d2 d3 →
       exec (.tslotRead c 0 a e) s = .next (withDev s (goesOn c i.len d3))) ∧
     (∀ (y : Nat) (upd : AMap Word) (d2 d3 : Dev), bitOf v 35 = true → Gives (srcNat c 2 4 e u) d1 (y, upd) d2 →
       tslotBad k n f y = false → ¬(f ≤ 2 ∧ k.plev = 0 ∧ k.runSlot = some n) →
       (k.world = true ∨ if f = 7 then d2.ledgerOwner c (d2.xown c) = true ∧ d2.ledgerOwner c y = true
         else (k.slot n).world = false ∧ (f = 0 → bitOf y 34 = false)) →
       Gives (commitUpd c upd) d2 () d3 →
       exec (.tslotWrite c 0 a e) s = .next (withDev s (goesOn c i.len (d3.writeSlotField c n f y)))))

/-- SGO with CMD 0 queues a new context that takes the core's snapshot, when its SCB names none and the engine takes one; with CMD 1
it queues a paused or stopped one again; with CMD 2 it frees one that does not run, or marks the running one (R258). -/
def Obligations.StreamCommandsComplete : Prop :=
  (∀ (d : Dev) (i n : Nat) (g : GeyCtx), findCtx (d.isl i) g.world g.scbLin = none → freeNumber (d.isl i) = some n →
    d.bit (offGYCTL i) 0 = false → d.bit (offGYCTL i) 1 = false →
    d.sgo i 0 g = (d.updIsl i fun x => { x with ctxs := x.ctxs.put n g, order := x.order ++ [n] }, ⟨1, some 0, true⟩)) ∧
  (∀ (d : Dev) (i n : Nat) (g h : GeyCtx), findCtx (d.isl i) g.world g.scbLin = some n → (d.isl i).ctxs.find n = some h →
    (h.st = 3 ∨ h.st = 4 → ∃ h' : GeyCtx, h'.segs = g.segs ∧ h'.pkr = g.pkr ∧ h'.slot = g.slot ∧ h'.core = g.core ∧ h'.st = 1 ∧
      h'.sup = g.sup ∧ h'.croot = g.croot ∧ h'.droot = g.droot ∧ h'.next = h.next ∧ d.sgo i 1 g = (d.updIsl i fun x => { x with ctxs := x.ctxs.put n h', order := x.order ++ [n] }, ⟨1, some 0, false⟩)) ∧
    ((d.isl i).running ≠ some n → d.sgo i 2 g = ((h.streamEnd d 6).freeCtx i n, ⟨6, none, false⟩)) ∧
    ((d.isl i).running = some n → d.sgo i 2 g = (d.updCtx i n fun h => { h with cancel := true }, ⟨1, none, false⟩))) ∧
  (∀ (cmd : Fin 3) (s : State) (c : CoreId) (a : Spec) (loc : MemLoc) (rep : Rep) (upd : AMap Word) (cs : List Cell) (g : GeyCtx)
      (r : SgoResult) (d1 d2 d3 d4 d5 d6 d7 : Dev),
    let i : Ins := { c := c, op := 0o034, ob := 0, specs := [a] }
    Ready i (now s) → okMem a = true → ((now s).core c).plev = 0 → Gives (memOpd c 1 64 .rmw a []) (now s) (loc, rep, upd) d1 →
    Gives (storesVisible c) d1 () d2 → (loc.jr = true → d2.journalReady = true) → d2.postQueued loc.cells = false →
    Gives (readLoc c rep loc) (d2.payOwed (c / 8) (d2.core c).world (scbLinOf c rep d2) loc.cells) cs d3 →
    g = sgoSnapshot c rep loc cs (d2.core c) d3 → bitsOf (cellsNat (cs.take 4)) 35 33 = cmd.val → d3.sgo (c / 8) cmd g = (d4, r) →
    Gives (commitUpd c upd) d4 () d5 → Gives (scbStores c loc cs r (d2.core c)) d5 () d6 → Gives (drainAll c) d6 () d7 →
    exec (sgoCommand cmd c 0 a) s = .next (withDev s (goesOn c i.len d7)))

namespace Sys2Proof.Claims

open Sys2Proof Sys2Proof.Machine

/-! ## Decimal instructions -/

/-- What a decimal field of `n` cells takes of an exact result: data bytes, and OV when digits are lost (R33, R114, R115). -/
def decFit (z : Bool) (n : Nat) (v : Int) (dsm : Bool) : List Nat × Nat :=
  (fieldData z n (v.natAbs % 10 ^ fieldDigits z n) (decide (v < 0)) dsm, if v.natAbs < 10 ^ fieldDigits z n then 0 else 128)

/-- A decimal operand is evaluated (R70, R111). -/
def Dec (c i L : Nat) (scan : Bool) (acc : Access) (p : Spec) (u : AMap Word) (d : Dev) (x : DecOp) (upd : AMap Word) (d' : Dev) : Prop :=
  Gives (decOpd c i L scan acc p u) d (x, upd) d'

/-- The signed value of a valid field (R31 to R35). -/
def Val (z : Bool) (cs : List Cell) (v : Int) : Prop := ∃ m s, fieldVal z cs = some (m, s) ∧ v = signedMag m s

/-- Register updates, then the data of an exact result into a decimal operand, its marks kept (R28, R114). -/
def WritesField (c : Nat) (upd : AMap Word) (z : Bool) (o : DecOp) (v : Int) (d d' : Dev) : Prop :=
  ∃ d1, Gives (commitUpd c upd) d () d1 ∧ Gives (putField c o (decFit z o.n v (d1.core c).dsm).1) d1 () d'

/-- A decimal instruction of two sources into a field: zoned, with a to-mark scan, and its operation. -/
structure DecTwo where
  cmd : CoreId → BitVec 6 → Parcel → Spec → Spec → Spec → Instr
  op : Nat
  z : Bool
  scan : Bool
  val : Int → Int → Int

/-- The additions and subtractions (R111, R118, R130). -/
def decTwo : List DecTwo :=
  [⟨.dadd, 0o100, false, false, fun x y => x + y⟩, ⟨.dsub, 0o101, false, false, fun x y => x - y⟩,
   ⟨.daddm, 0o120, false, true, fun x y => x + y⟩, ⟨.dsubm, 0o121, false, true, fun x y => x - y⟩,
   ⟨.zadd, 0o130, true, false, fun x y => x + y⟩, ⟨.zsub, 0o131, true, false, fun x y => x - y⟩]

/-- A decimal instruction of a field into a field: which are zoned, which are scanned, whether it writes marks. -/
structure DecOne where
  cmd : CoreId → BitVec 6 → Parcel → Spec → Spec → Instr
  op : Nat
  za : Bool
  ze : Bool
  scan : Bool
  scanE : Bool
  marks : Bool

/-- The zero-and-adds and the zoned conversions (R111, R112, R118, R129). -/
def decOne : List DecOne :=
  [⟨.dzad, 0o106, false, false, false, false, false⟩, ⟨.cvzp, 0o110, true, false, false, false, false⟩,
   ⟨.cvpz, 0o111, false, true, false, false, false⟩, ⟨.dzadm, 0o123, false, false, true, true, false⟩,
   ⟨.cvzpm, 0o125, true, false, true, false, true⟩, ⟨.cvpzm, 0o126, false, true, true, false, true⟩,
   ⟨.zzad, 0o136, true, true, false, false, false⟩]

/-- Register updates, then whole cells into a decimal operand: a mark in the first cell, none in the others (R112). -/
def WritesMarked (c : Nat) (upd : AMap Word) (z : Bool) (o : DecOp) (v : Int) (d d' : Dev) : Prop :=
  ∃ d1 dst, Gives (commitUpd c upd) d () d1 ∧ o.dst = some dst ∧ Gives (putDst c dst
    (((decFit z o.n v (d1.core c).dsm).1.zip (256 :: List.replicate (o.n - 1) 0)).map fun p => BitVec.ofNat 9 (p.1 + p.2))) d1 () d'

/-- A decimal compare or test: zoned, scanned. -/
structure DecSet (α : Type) where
  cmd : α
  op : Nat
  z : Bool
  scan : Bool

/-- The compares (R119, R130). -/
def decCompares : List (DecSet (CoreId → BitVec 6 → Parcel → Spec → Spec → Spec → Instr)) :=
  [⟨.dcmp, 0o104, false, false⟩, ⟨.dcmpm, 0o122, false, true⟩, ⟨.zcmp, 0o134, true, false⟩]

/-- The tests (R120, R130). -/
def decTests : List (DecSet (CoreId → BitVec 6 → Parcel → Spec → Spec → Instr)) :=
  [⟨.dtst, 0o107, false, false⟩, ⟨.dtstm, 0o124, false, true⟩, ⟨.ztst, 0o137, true, false⟩]

/-- The multiplies (R122, R130). -/
def decMuls : List (DecSet (CoreId → BitVec 6 → Parcel → Spec → Spec → Spec → Instr)) :=
  [⟨.dmul, 0o102, false, false⟩, ⟨.zmul, 0o132, true, false⟩]

/-- The divides (R123, R130). -/
def decDivs : List (DecSet (CoreId → BitVec 6 → Parcel → Spec → Spec → Spec → Instr)) :=
  [⟨.ddiv, 0o103, false, false⟩, ⟨.zdiv, 0o133, true, false⟩]

/-- The shifts (R127, R130). -/
def decShifts : List (DecSet (CoreId → BitVec 6 → Parcel → Spec → Spec → Spec → Instr)) :=
  [⟨.dsrp, 0o105, false, false⟩, ⟨.zsrp, 0o135, true, false⟩]

/-- `v` shifted by `k` digits, to the right with the rounding of a variant: 0 truncates, 1 rounds half away from zero, 2 half to even
(R127, R128). -/
def shiftRound (var : Nat) (v k : Int) : Int :=
  if 0 ≤ k then v * 10 ^ k.toNat
  else
    let u := 10 ^ (-k).toNat
    let q := v.natAbs / u
    let r := v.natAbs % u
    let q := if var ≠ 0 ∧ (u < 2 * r ∨ (2 * r = u ∧ (var = 1 ∨ q % 2 = 1))) then q + 1 else q
    if v < 0 then -(q : Int) else q

/-- The three operands of a multiply or divide are evaluated and share no cell or register (R117). -/
def Three (c : Nat) (ob : BitVec 6) (lp : Parcel) (acc : Access) (a b e : Spec) (d : Dev) (x y o : DecOp) (upd : AMap Word) (d' : Dev) : Prop :=
  ∃ u v d1 d2, Dec c 1 (ob.toNat + 1) false acc a [] d x u d1 ∧ Dec c 2 (decL2 lp) false .read b u d1 y v d2 ∧
    Dec c 3 (decL3 lp) false .write e v d2 o upd d' ∧
    opsOverlap x y = false ∧ opsOverlap x o = false ∧ opsOverlap y o = false

end Sys2Proof.Claims

/-- DADD, DSUB, DADDM, DSUBM, ZADD and ZSUB write the exact sum or difference of valid fields, truncated with OV when it does not fit
(R111, R114, R115, R118, R130). -/
def Obligations.DecimalSumsComplete : Prop :=
  ∀ r ∈ decTwo, ∀ (s : State) (c : CoreId) (ob : BitVec 6) (lp : Parcel) (a b e : Spec) (x y o : DecOp) (u v upd : AMap Word) (m n : Int)
      (d1 d2 d3 d4 : Dev),
    let i : Ins := { c := c, op := r.op, ob := ob.toNat, lp := [lp], specs := [a, b, e] }
    let w := decFit r.z o.n (r.val m n) (d3.core c).dsm
    Ready i (now s) →
    (lp.toNat % 4 = 0 ∧ okDecSrc (ob.toNat + 1) a = true ∧ okDecSrc (decL2 lp) b = true ∧ okDecDst (decL3 lp) e = true) →
    Dec c 1 (ob.toNat + 1) r.scan .read a [] (now s) x u d1 → Dec c 2 (decL2 lp) r.scan .read b u d1 y v d2 →
    Dec c 3 (decL3 lp) r.scan .write e v d2 o upd d3 → Val r.z x.cells m → Val r.z y.cells n →
    WritesField c upd r.z o (r.val m n) d3 d4 → NoTrap c w.2 d4 →
    exec (r.cmd c ob lp a b e) s = .next (withDev s (goesOn c i.len (flagged c w.2 d4)))

/-- DZAD, DZADM, ZZAD, CVZP, CVPZ and their to-mark forms write the value of a valid field into the other field; CVZPM and CVPZM write
its marks too (R111, R112, R114, R118, R129). -/
def Obligations.DecimalCopiesComplete : Prop :=
  ∀ r ∈ decOne, ∀ (s : State) (c : CoreId) (ob : BitVec 6) (lp : Parcel) (a e : Spec) (x o : DecOp) (u upd : AMap Word) (m : Int)
      (d1 d2 d3 : Dev),
    let i : Ins := { c := c, op := r.op, ob := ob.toNat, lp := [lp], specs := [a, e] }
    let w := decFit r.ze o.n m (d2.core c).dsm
    Ready i (now s) →
    (lp.toNat % 4 = 0 ∧ decL3 lp = 1 ∧ okDecSrc (ob.toNat + 1) a = true ∧ okDecDst (decL2 lp) e = true) →
    Dec c 1 (ob.toNat + 1) r.scan .read a [] (now s) x u d1 → Dec c 2 (decL2 lp) r.scanE .write e u d1 o upd d2 →
    Val r.za x.cells m → (if r.marks then WritesMarked c upd r.ze o m d2 d3 else WritesField c upd r.ze o m d2 d3) → NoTrap c w.2 d3 →
    exec (r.cmd c ob lp a e) s = .next (withDev s (goesOn c i.len (flagged c w.2 d3)))

/-- The decimal compares write less and equal into a register pair; the tests write whether the field is valid, raising DD when it is
not; DCLZ counts leading zero digits (R113, R119 to R121, R130). -/
def Obligations.DecimalComparesComplete : Prop :=
  (∀ r ∈ decCompares, ∀ (s : State) (c : CoreId) (ob : BitVec 6) (lp : Parcel) (a b e : Spec) (x y : DecOp) (u upd : AMap Word) (m n : Int)
      (d1 d2 d3 d4 : Dev),
    let i : Ins := { c := c, op := r.op, ob := ob.toNat, lp := [lp], specs := [a, b, e] }
    Ready i (now s) →
    (lp.toNat % 4 = 0 ∧ decL3 lp = 1 ∧ okDecSrc (ob.toNat + 1) a = true ∧ okDecSrc (decL2 lp) b = true ∧ okReg e = true ∧
      e.reg.toNat % 2 = 0) →
    Dec c 1 (ob.toNat + 1) r.scan .read a [] (now s) x u d1 → Dec c 2 (decL2 lp) r.scan .read b u d1 y upd d2 →
    Val r.z x.cells m → Val r.z y.cells n → WritesG c upd e.reg.toNat (if m < n then 1 else 0) d2 d3 →
    Gives (wrG c (e.reg.toNat + 1) (if m = n then 1 else 0)) d3 () d4 →
    exec (r.cmd c ob lp a b e) s = .next (withDev s (goesOn c i.len d4))) ∧
  (∀ r ∈ decTests, ∀ (s : State) (c : CoreId) (ob : BitVec 6) (a e : Spec) (x : DecOp) (upd : AMap Word) (d1 d2 : Dev),
    let i : Ins := { c := c, op := r.op, ob := ob.toNat, lp := [0], specs := [a, e] }
    let ok := (fieldVal r.z x.cells).isSome
    let sf := if ok then 0 else 32
    Ready i (now s) → okDecSrc (ob.toNat + 1) a = true → okReg e = true → Dec c 1 (ob.toNat + 1) r.scan .read a [] (now s) x upd d1 →
    WritesG c upd e.reg.toNat (if ok then 1 else 0) d1 d2 → NoTrap c sf d2 →
    exec (r.cmd c ob 0 a e) s = .next (withDev s (goesOn c i.len (flagged c sf d2)))) ∧
  (∀ (s : State) (c : CoreId) (ob : BitVec 6) (a e : Spec) (x : DecOp) (upd : AMap Word) (m n : Nat) (neg : Bool) (d1 d2 : Dev),
    let i : Ins := { c := c, op := 0o127, ob := ob.toNat, lp := [0], specs := [a, e] }
    Ready i (now s) → okDecSrc (ob.toNat + 1) a = true → okReg e = true → Dec c 1 (ob.toNat + 1) false .read a [] (now s) x upd d1 →
    packedVal x.cells = some (m, neg) → (m = 0 ∧ n = 0 ∨ 0 < n ∧ n ≤ 128 ∧ 10 ^ (n - 1) ≤ m ∧ m < 10 ^ n) →
    WritesG c upd e.reg.toNat (2 * (ob.toNat + 1) - 1 - n) d1 d2 →
    exec (.dclz c ob 0 a e) s = .next (withDev s (goesOn c i.len d2)))

/-- Uninterrupted, DMUL and ZMUL write the product, its low digits with OV when it does not fit; DDIV and ZDIV write the quotient,
truncated toward zero, and the remainder with the sign of the dividend, when the quotient fits; DSRP and ZSRP write the shifted and
rounded value (R114, R122 to R124, R127, R128, R130). -/
def Obligations.DecimalProductsComplete : Prop :=
  (∀ r ∈ decMuls, ∀ (s : State) (c : CoreId) (ob : BitVec 6) (lp : Parcel) (a b e : Spec) (x y o : DecOp) (upd : AMap Word) (am bm : Nat)
      (an bn : Bool) (ws : List Wr) (d1 d2 d3 d4 : Dev),
    let i : Ins := { c := c, op := r.op, ob := ob.toNat, lp := [lp], specs := [a, b, e] }
    let w := decFit r.z o.n (signedMag (am * bm) (an != bn)) (d2.core c).dsm
    Ready i (now s) →
    (lp.toNat % 4 = 0 ∧ okDecSrc (ob.toNat + 1) a = true ∧ okDecSrc (decL2 lp) b = true ∧ okDecDst (decL3 lp) e = true) →
    Three c ob lp .read a b e (now s) x y o upd d1 → d1.pointDue c = false →
    fieldVal r.z x.cells = some (am, an) → fieldVal r.z y.cells = some (bm, bn) → bm < 10 ^ 128 →
    Gives (commitUpd c upd) d1 () d2 → Gives (fieldWrites c o w.1) d2 ws d3 →
    Ends c ws w.2 (d3.updCore c fun k => { k with micro := none }) d4 →
    exec (r.cmd c ob lp a b e) s = .next (withDev s (goesOn c i.len d4))) ∧
  (∀ r ∈ decDivs, ∀ (s : State) (c : CoreId) (ob : BitVec 6) (lp : Parcel) (a b e : Spec) (x y o : DecOp) (upd : AMap Word) (am bm : Nat)
      (an bn : Bool) (ws wr : List Wr) (d1 d2 d3 d4 d5 : Dev),
    let i : Ins := { c := c, op := r.op, ob := ob.toNat, lp := [lp], specs := [a, b, e] }
    let dsm := (d2.core c).dsm
    Ready i (now s) →
    (lp.toNat % 4 = 0 ∧ okDecDst (ob.toNat + 1) a = true ∧ okDecSrc (decL2 lp) b = true ∧ okDecDst (decL3 lp) e = true) →
    Three c ob lp .rmw a b e (now s) x y o upd d1 → d1.pointDue c = false →
    fieldVal r.z x.cells = some (am, an) → fieldVal r.z y.cells = some (bm, bn) → am < 10 ^ 128 → bm < 10 ^ 128 → bm ≠ 0 →
    am / bm < 10 ^ fieldDigits r.z o.n → Gives (commitUpd c upd) d1 () d2 →
    Gives (fieldWrites c o (decFit r.z o.n (signedMag (am / bm) (an != bn)) dsm).1) d2 ws d3 →
    Gives (fieldWrites c x (decFit r.z x.n (signedMag (am % bm) an) dsm).1) d3 wr d4 →
    Ends c (ws ++ wr) 0 (d4.updCore c fun k => { k with micro := none }) d5 →
    exec (r.cmd c ob lp a b e) s = .next (withDev s (goesOn c i.len d5))) ∧
  (∀ r ∈ decShifts, ∀ (s : State) (c : CoreId) (ob : BitVec 6) (lp : Parcel) (a b e : Spec) (x o : DecOp) (k : Nat) (u v upd : AMap Word)
      (m : Int) (d1 d2 d3 d4 : Dev),
    let i : Ins := { c := c, op := r.op, ob := ob.toNat, lp := [lp], specs := [a, b, e] }
    let t := shiftRound (lp.toNat % 4) m (signed 8 (k % 256))
    let w := decFit r.z o.n t (d3.core c).dsm
    Ready i (now s) →
    (lp.toNat % 4 ≤ 2 ∧ decL2 lp = 1 ∧ okDecSrc (ob.toNat + 1) a = true ∧ okIntSrc 4 b = true ∧ okDecDst (decL3 lp) e = true) →
    Dec c 1 (ob.toNat + 1) false .read a [] (now s) x u d1 → Gives (srcNat c 2 4 b u) d1 (k, v) d2 →
    Dec c 3 (decL3 lp) false .write e v d2 o upd d3 → Val r.z x.cells m → WritesField c upd r.z o t d3 d4 → NoTrap c w.2 d4 →
    exec (r.cmd c ob lp a b e) s = .next (withDev s (goesOn c i.len (flagged c w.2 d4))))

/-- CVDB and CVDX write a packed value as a signed word or double word, CVBD and CVXD a signed integer as a packed field, each with OV
when it does not fit; CVDQ writes a packed value as a decimal128; CVQD writes a finite decimal128, rounded to an integer, as a packed
field, and raises FIV for the others (R131 to R134, R181). -/
def Obligations.DecimalConversionsComplete : Prop :=
  (∀ (dbl : Bool) (s : State) (c : CoreId) (ob : BitVec 6) (a e : Spec) (x : DecOp) (dst : Dst) (u upd : AMap Word) (m : Int) (d1 d2 d3 : Dev),
    let n := if dbl then 8 else 4
    let i : Ins := { c := c, op := if dbl then 0o113 else 0o112, ob := ob.toNat, lp := [0], specs := [a, e] }
    let w := fit (9 * n) m
    Ready i (now s) → okDecSrc (ob.toNat + 1) a = true → okIntDst n e = true →
    Dec c 1 (ob.toNat + 1) false .read a [] (now s) x u d1 → Gives (dstOpd c 2 n e u) d1 (dst, upd) d2 → Val false x.cells m →
    Writes c upd dst (natCells n w.1) d2 d3 → NoTrap c w.2 d3 →
    exec (if dbl then .cvdx c ob 0 a e else .cvdb c ob 0 a e) s = .next (withDev s (goesOn c i.len (flagged c w.2 d3)))) ∧
  (∀ (dbl : Bool) (s : State) (c : CoreId) (lp : Parcel) (a e : Spec) (v : Nat) (o : DecOp) (u upd : AMap Word) (d1 d2 d3 : Dev),
    let n := if dbl then 8 else 4
    let i : Ins := { c := c, op := if dbl then 0o115 else 0o114, ob := 0, lp := [lp], specs := [a, e] }
    let w := decFit false o.n (signed (9 * n) v) (d2.core c).dsm
    Ready i (now s) → (lp.toNat % 4 = 0 ∧ decL3 lp = 1 ∧ okIntSrc n a = true ∧ okDecDst (decL2 lp) e = true) →
    Gives (srcNat c 1 n a []) (now s) (v, u) d1 → Dec c 2 (decL2 lp) false .write e u d1 o upd d2 →
    WritesField c upd false o (signed (9 * n) v) d2 d3 → NoTrap c w.2 d3 →
    exec (if dbl then .cvxd c 0 lp a e else .cvbd c 0 lp a e) s = .next (withDev s (goesOn c i.len (flagged c w.2 d3)))) ∧
  (∀ (s : State) (c : CoreId) (ob : BitVec 6) (a e : Spec) (x : DecOp) (dst : Dst) (u upd : AMap Word) (m : Nat) (neg : Bool) (d1 d2 d3 d4 : Dev),
    let i : Ins := { c := c, op := 0o116, ob := ob.toNat, lp := [0], specs := [a, e] }
    let w := d128OfPacked (d2.core c).frm m neg
    Ready i (now s) → okDecSrc (ob.toNat + 1) a = true → okFlt e = true → Owns c (e.mode = 0) (now s) →
    Dec c 1 (ob.toNat + 1) false .read a [] (now s) x u d1 → Gives (fltDst c 2 .d128 e u) d1 (dst, upd) d2 →
    packedVal x.cells = some (m, neg) → Gives (commitUpd c upd) d2 () d3 →
    Gives (applyWrs c (fltWrites (d3.core c) .d128 dst w.1)) d3 () d4 → NoTrap c w.2 d4 →
    exec (.cvdq c ob 0 a e) s = .next (withDev s (goesOn c i.len (flagged c w.2 d4)))) ∧
  (∀ (s : State) (c : CoreId) (lp : Parcel) (a e : Spec) (v : Nat) (o : DecOp) (u upd : AMap Word) (d1 d2 : Dev),
    let i : Ins := { c := c, op := 0o117, ob := 0, lp := [lp], specs := [a, e] }
    Ready i (now s) → (lp.toNat % 4 = 0 ∧ decL3 lp = 1 ∧ okFlt a = true ∧ okDecDst (decL2 lp) e = true) → Owns c (a.mode = 0) (now s) →
    Gives (fltSrc c 1 .d128 a []) (now s) (v, u) d1 → Dec c 2 (decL2 lp) false .write e u d1 o upd d2 →
    (∀ (neg : Bool) (cf : Nat) (ex : Int) (d3 d4 : Dev), d128Dec v = .fin neg cf ex →
      let t := fpInt 10 (d3.core c).frm neg cf ex
      let w := decFit false o.n (signedMag t.1 neg) (d3.core c).dsm
      let sf := w.2 + (if t.2 then 1 else 0)
      Gives (commitUpd c upd) d2 () d3 → Gives (putField c o w.1) d3 () d4 → NoTrap c sf d4 →
      exec (.cvqd c 0 lp a e) s = .next (withDev s (goesOn c i.len (flagged c sf d4)))) ∧
    (∀ d3 : Dev, (∀ neg cf ex, d128Dec v ≠ .fin neg cf ex) → Gives (commitUpd c upd) d2 () d3 → NoTrap c 16 d3 →
      exec (.cvqd c 0 lp a e) s = .next (withDev s (goesOn c i.len (flagged c 16 d3)))))

namespace Sys2Proof.Claims

open Sys2Proof Sys2Proof.Machine

/-! ## Floating instructions -/

/-- The rounding that bits 5:3 of the opcode parcel select (R169). -/
def rounding (k : Core) (ob : BitVec 6) : Nat := if ob.toNat / 8 = 0 then k.frm else ob.toNat / 8 - 1

/-- Sources and destination of a floating instruction are evaluated (R168). -/
def Flt (c : Nat) (f : FpFmt) (ss : List Spec) (e : Spec) (d : Dev) (xs : List Fp) (dst : Dst) (upd : AMap Word) (d' : Dev) : Prop :=
  ∃ u d1, Gives (fltSrcs c f 1 [] ss) d (xs, u) d1 ∧ Gives (fltDst c (ss.length + 1) f e u) d1 (dst, upd) d'

/-- A floating result is written as `Ends` says, after the register updates (R167, R180). -/
def FltEnds (c : Nat) (upd : AMap Word) (f : FpFmt) (dst : Dst) (v : Nat × Nat) (d d' : Dev) : Prop :=
  ∃ d1, Gives (commitUpd c upd) d () d1 ∧ Ends c (fltWrites (d1.core c) f dst v.1) v.2 d1 d'

/-- A floating instruction: constructor, opcode, format, and its operation under a rounding. -/
structure FltOp (α β : Type) where
  cmd : CoreId → BitVec 6 → α
  op : Nat
  f : FpFmt
  val : Nat → β

/-- Square roots (R170). -/
def fltOne : List (FltOp (Spec → Spec → Instr) (Fp → Nat × Nat)) :=
  [⟨.fsqrt, 0o165, .b64, fpSqrt .b64⟩, ⟨.qsqrt, 0o175, .d128, fpSqrt .d128⟩]

/-- Operations of two operands (R170, R176). -/
def fltTwo : List (FltOp (Spec → Spec → Spec → Instr) (Fp → Fp → Nat × Nat)) :=
  [⟨.fadd, 0o160, .b64, fpAdd .b64⟩, ⟨.fsub, 0o161, .b64, fpSub .b64⟩, ⟨.fmul, 0o162, .b64, fpMul .b64⟩, ⟨.fdiv, 0o163, .b64, fpDiv .b64⟩,
   ⟨.qadd, 0o170, .d128, fpAdd .d128⟩, ⟨.qsub, 0o171, .d128, fpSub .d128⟩, ⟨.qmul, 0o172, .d128, fpMul .d128⟩,
   ⟨.qdiv, 0o173, .d128, fpDiv .d128⟩, ⟨.qqua, 0o177, .d128, fpQuantum⟩]

/-- The fused multiply-adds. -/
def fltThree : List (FltOp (Spec → Spec → Spec → Spec → Instr) (Fp → Fp → Fp → Nat × Nat)) :=
  [⟨.fma, 0o164, .b64, fpFma .b64⟩, ⟨.qfma, 0o174, .d128, fpFma .d128⟩]

/-- A conversion: whether QCVT has it, its kind, and formats or cells (R178). -/
structure Cvt (α : Type) where
  quad : Bool
  kind : Nat
  how : α

/-- Between floating formats. -/
def cvtFloats : List (Cvt (FpFmt × FpFmt × (Nat → Fp → Nat × Nat))) :=
  [⟨false, 0, .b64, .d128, b64ToD128⟩, ⟨false, 1, .d128, .b64, d128ToB64⟩, ⟨false, 6, .b64, .b64, fpIntegral .b64⟩,
   ⟨true, 2, .d128, .d128, fpIntegral .d128⟩]

/-- To integers of a number of cells. -/
def cvtToInts : List (Cvt (FpFmt × Nat)) := [⟨false, 2, .b64, 4⟩, ⟨false, 3, .b64, 8⟩, ⟨true, 0, .d128, 8⟩, ⟨true, 3, .d128, 4⟩]

/-- From integers of a number of cells. -/
def cvtOfInts : List (Cvt (FpFmt × Nat)) := [⟨false, 4, .b64, 4⟩, ⟨false, 5, .b64, 8⟩, ⟨true, 1, .d128, 8⟩, ⟨true, 4, .d128, 4⟩]

/-- FCVT or QCVT, as fetched. -/
def cvtIns (quad : Bool) (c : CoreId) (ob : BitVec 6) (a e : Spec) : Ins :=
  { c := c, op := if quad then 0o200 else 0o167, ob := ob.toNat, specs := [a, e] }

/-- FCVT or QCVT. -/
def cvt (quad : Bool) (c : CoreId) (ob : BitVec 6) (a e : Spec) : Instr := if quad then .qcvt c ob a e else .fcvt c ob a e

/-- The encoding that a floating move of kind 0, 1 or 2 gives (R179): the value, negated, or without its sign. -/
def movOf (f : FpFmt) (kind v : Nat) : Nat :=
  let top := 2 ^ (f.bits - 1)
  if kind = 0 then v else if kind = 1 then (if v < top then v + top else v - top) else v % top

/-! ## Vector instructions -/

/-- A vector instruction as fetched, its form right and the extended state owned (R52, R76, R184). -/
def VecReady (c : CoreId) (op : Nat) (ob : BitVec 6) (ss : List Spec) (d : Dev) : Prop :=
  Ready { c := c, op := op, ob := ob.toNat, specs := ss } d ∧ (d.core c).xav = true ∧ (bitOf ob.toNat 5 = true ∨ bitsOf ob.toNat 4 2 = 0) ∧
  (d.core c).avl * elemCells (d.core c).ew ≤ 64

/-- A vector instruction ends: V`r` gets cells, flags are raised, and VRESUME becomes 0 (R185, R195). -/
def vecEnds (c r : Nat) (ds : List Cell) (sf : Nat) (d : Dev) : Dev :=
  (d.updCore c fun k => k.setV r ds).updCore c fun k => { k.raiseSf sf with vresume := 0 }

/-- Flags of the active elements. -/
def orAll (l : List Nat) : Nat := l.foldl (· ||| ·) 0

/-- An element operation: constructor, opcode, variant, widths that have it, and the operation. -/
structure VecOp where
  cmd : CoreId → BitVec 6 → Spec → Spec → Spec → Instr
  op : Nat
  var : Nat
  widths : List Nat
  val : Nat → Core → ElemOp

/-- The element operations (R190). -/
def vecOps : List VecOp :=
  [⟨.vadd, 0o212, 0, [0, 1, 2, 3], fun ew _ => intElem (2 ^ ew) fun x y => x + y⟩,
   ⟨.vadd, 0o212, 1, [2, 3], fun _ k => decElem k.dsm fun x y => x + y⟩,
   ⟨.vadd, 0o212, 2, [3], fun _ k => b64Elem (fpAdd .b64 k.frm)⟩,
   ⟨.vsub, 0o213, 0, [0, 1, 2, 3], fun ew _ => intElem (2 ^ ew) fun x y => x - y⟩,
   ⟨.vsub, 0o213, 1, [2, 3], fun _ k => decElem k.dsm fun x y => x - y⟩,
   ⟨.vsub, 0o213, 2, [3], fun _ k => b64Elem (fpSub .b64 k.frm)⟩,
   ⟨.vmul, 0o214, 0, [0, 1, 2, 3], fun ew _ => intElem (2 ^ ew) fun x y => x * y⟩,
   ⟨.vmul, 0o214, 2, [3], fun _ k => b64Elem (fpMul .b64 k.frm)⟩,
   ⟨.vand, 0o221, 0, [0, 1, 2, 3], fun _ _ => bitElem fun x y => x &&& y⟩,
   ⟨.vor, 0o222, 0, [0, 1, 2, 3], fun _ _ => bitElem fun x y => x ||| y⟩,
   ⟨.vxor, 0o223, 0, [0, 1, 2, 3], fun _ _ => bitElem fun x y => x ^^^ y⟩]

/-- The cells of the destination after an element operation (R185): each active element gets its result, if it has one; the others
stay. -/
def vecCells (k : Core) (ob : BitVec 6) (f : ElemOp) (xs ys ds : List Cell) : List Cell :=
  let s := elemCells k.ew
  (List.range (64 / s)).flatMap fun e =>
    if vecActive k s (vecMask k ob) e then (f (elem xs s e) (elem ys s e) (elem ds s e)).1.getD (elem ds s e) else elem ds s e

/-- Its flags. -/
def vecFlags (k : Core) (ob : BitVec 6) (f : ElemOp) (xs ys ds : List Cell) : Nat :=
  let s := elemCells k.ew
  orAll (((List.range k.avl).filter (vecActive k s (vecMask k ob))).map fun e => (f (elem xs s e) (elem ys s e) (elem ds s e)).2)

/-- A widening product or a sum of products (R191, R192): constructor, opcode, variants, width of the elements, groups written and
their cells, and the result and flags of a group from the sources and its old cells. -/
structure VecWide where
  cmd : CoreId → BitVec 6 → Spec → Spec → Spec → Instr
  op : Nat
  vars : List Nat
  ew : Nat → Nat
  groups : Nat
  size : Nat
  val : Core → BitVec 6 → List Cell → List Cell → Nat → List Cell → Option (List Cell) × Nat

/-- The product of elements `e` at 36 bits, as signed or unsigned numbers. -/
def prodAt (uns : Bool) (xs ys : List Cell) (e : Nat) : Int := elemInt uns 36 (elem xs 4 e) * elemInt uns 36 (elem ys 4 e)

/-- The widening instructions. -/
def vecWides : List VecWide :=
  [⟨.vmulw, 0o215, [0, 1, 2, 3], fun _ => 2, 8, 8, fun k ob xs ys i _ =>
      let e := vecVar ob / 2 * 8 + i
      if vecActive k 4 (vecMask k ob) e then (some (natCells 8 (wrap 72 (prodAt (vecVar ob % 2 == 1) xs ys e))), 0) else (none, 0)⟩,
   ⟨.vdmul, 0o216, [0, 2], fun _ => 2, 8, 8, fun k ob xs ys i old =>
      let e := vecVar ob / 2 * 8 + i
      if vecActive k 4 (vecMask k ob) e then decElem k.dsm (fun x y => x * y) (elem xs 4 e) (elem ys 4 e) old else (none, 0)⟩,
   ⟨.vdot, 0o217, [0, 1], fun _ => 2, 8, 8, fun k ob xs ys j old =>
      let u := vecVar ob == 1
      let es := [2 * j, 2 * j + 1].filter (vecActive k 4 (vecMask k ob))
      let v := es.foldl (fun t e => t + prodAt u xs ys e) (elemInt u 72 old)
      if es = [] then (none, 0)
      else (some (natCells 8 (wrap 72 v)), if u then (if v < (2 ^ 72 : Nat) then 0 else 128) else ovOf 72 v)⟩,
   ⟨.vddot, 0o220, [0, 1], fun v => 2 + v, 4, 16, fun k ob xs ys j old =>
      let s := elemCells (2 + vecVar ob)
      let es := (fromN (16 / s * j) (16 / s)).filter (vecActive k s (vecMask k ob))
      if es = [] then (none, 0)
      else match packedVal old with
        | none => (none, 32)
        | some (m, neg) => match pDot xs ys s es (signedMag m neg) with
          | none => (none, 32)
          | some v => pPut old v k.dsm⟩]

end Sys2Proof.Claims

/-- The floating operations write their rounded result to F registers or memory and raise their flags (R167 to R176, R180). -/
def Obligations.FloatingOperationsComplete : Prop :=
  (∀ r ∈ fltOne, ∀ (s : State) (c : CoreId) (ob : BitVec 6) (a e : Spec) (x : Fp) (dst : Dst) (upd : AMap Word) (d1 d2 : Dev),
    let i : Ins := { c := c, op := r.op, ob := ob.toNat, specs := [a, e] }
    Ready i (now s) → (ob.toNat % 8 = 0 ∧ ob.toNat / 8 ≤ 5 ∧ okFlt a = true ∧ okFlt e = true) → ((now s).core c).xav = true →
    Flt c r.f [a] e (now s) [x] dst upd d1 → FltEnds c upd r.f dst (r.val (rounding (d1.core c) ob) x) d1 d2 →
    exec (r.cmd c ob a e) s = .next (withDev s (goesOn c i.len d2))) ∧
  (∀ r ∈ fltTwo, ∀ (s : State) (c : CoreId) (ob : BitVec 6) (a b e : Spec) (x y : Fp) (dst : Dst) (upd : AMap Word) (d1 d2 : Dev),
    let i : Ins := { c := c, op := r.op, ob := ob.toNat, specs := [a, b, e] }
    Ready i (now s) → (ob.toNat % 8 = 0 ∧ ob.toNat / 8 ≤ 5 ∧ okFlt a = true ∧ okFlt b = true ∧ okFlt e = true) →
    ((now s).core c).xav = true →
    Flt c r.f [a, b] e (now s) [x, y] dst upd d1 → FltEnds c upd r.f dst (r.val (rounding (d1.core c) ob) x y) d1 d2 →
    exec (r.cmd c ob a b e) s = .next (withDev s (goesOn c i.len d2))) ∧
  (∀ r ∈ fltThree, ∀ (s : State) (c : CoreId) (ob : BitVec 6) (a b g e : Spec) (x y z : Fp) (dst : Dst) (upd : AMap Word) (d1 d2 : Dev),
    let i : Ins := { c := c, op := r.op, ob := ob.toNat, specs := [a, b, g, e] }
    Ready i (now s) →
    (ob.toNat % 8 = 0 ∧ ob.toNat / 8 ≤ 5 ∧ okFlt a = true ∧ okFlt b = true ∧ okFlt g = true ∧ okFlt e = true) →
    ((now s).core c).xav = true →
    Flt c r.f [a, b, g] e (now s) [x, y, z] dst upd d1 → FltEnds c upd r.f dst (r.val (rounding (d1.core c) ob) x y z) d1 d2 →
    exec (r.cmd c ob a b g e) s = .next (withDev s (goesOn c i.len d2)))

/-- FCMP and QCMP write whether their predicate holds; FCVT and QCVT convert between floating formats, to integers and from integers,
rounded as they select; FMOV and QMOV copy, negate, take the magnitude, and carry encodings to and from integers (R177 to R179). -/
def Obligations.FloatingConversionsComplete : Prop :=
  (∀ (quad : Bool) (s : State) (c : CoreId) (ob : BitVec 6) (a b e : Spec) (x y : Fp) (u : AMap Word) (d1 d2 : Dev),
    let f : FpFmt := if quad then .d128 else .b64
    let i : Ins := { c := c, op := if quad then 0o176 else 0o166, ob := ob.toNat, specs := [a, b, e] }
    let v := fpPred f ob.toNat x y
    Ready i (now s) → (ob.toNat < 7 ∧ okFlt a = true ∧ okFlt b = true ∧ okReg e = true) → ((now s).core c).xav = true →
    Gives (fltSrcs c f 1 [] [a, b]) (now s) ([x, y], u) d1 → WritesG c u e.reg.toNat (if v.1 then 1 else 0) d1 d2 → NoTrap c v.2 d2 →
    exec (if quad then .qcmp c ob a b e else .fcmp c ob a b e) s = .next (withDev s (goesOn c i.len (flagged c v.2 d2)))) ∧
  (∀ r ∈ cvtFloats, ∀ (s : State) (c : CoreId) (ob : BitVec 6) (a e : Spec) (v : Nat) (dst : Dst) (u upd : AMap Word) (d1 d2 d3 : Dev),
    let i := cvtIns r.quad c ob a e
    Ready i (now s) → (ob.toNat % 8 = r.kind ∧ ob.toNat / 8 ≤ 5 ∧ okFlt a = true ∧ okFlt e = true) → ((now s).core c).xav = true →
    Gives (fltSrc c 1 r.how.1 a []) (now s) (v, u) d1 → Gives (fltDst c 2 r.how.2.1 e u) d1 (dst, upd) d2 →
    FltEnds c upd r.how.2.1 dst (r.how.2.2 (rounding ((now s).core c) ob) (r.how.1.dec v)) d2 d3 →
    exec (cvt r.quad c ob a e) s = .next (withDev s (goesOn c i.len d3))) ∧
  (∀ r ∈ cvtToInts, ∀ (s : State) (c : CoreId) (ob : BitVec 6) (a e : Spec) (v : Nat) (dst : Dst) (u upd : AMap Word) (d1 d2 d3 d4 : Dev),
    let i := cvtIns r.quad c ob a e
    let n := r.how.2
    let t := fpToInt r.how.1 (rounding ((now s).core c) ob) (9 * n) (r.how.1.dec v)
    Ready i (now s) → (ob.toNat % 8 = r.kind ∧ ob.toNat / 8 ≤ 5 ∧ okFlt a = true ∧ okIntDst n e = true) → ((now s).core c).xav = true →
    Gives (fltSrc c 1 r.how.1 a []) (now s) (v, u) d1 → Gives (dstOpd c 2 n e u) d1 (dst, upd) d2 → Gives (commitUpd c upd) d2 () d3 →
    Ends c (dstWrites (d3.core c) dst (natCells n t.1)) t.2 d3 d4 →
    exec (cvt r.quad c ob a e) s = .next (withDev s (goesOn c i.len d4))) ∧
  (∀ r ∈ cvtOfInts, ∀ (s : State) (c : CoreId) (ob : BitVec 6) (a e : Spec) (v : Nat) (dst : Dst) (u upd : AMap Word) (d1 d2 d3 : Dev),
    let i := cvtIns r.quad c ob a e
    let n := r.how.2
    Ready i (now s) → (ob.toNat % 8 = r.kind ∧ ob.toNat / 8 ≤ 5 ∧ okIntSrc n a = true ∧ okFlt e = true) → ((now s).core c).xav = true →
    Gives (srcNat c 1 n a []) (now s) (v, u) d1 → Gives (fltDst c 2 r.how.1 e u) d1 (dst, upd) d2 →
    FltEnds c upd r.how.1 dst (fpOfInt r.how.1 (rounding ((now s).core c) ob) (signed (9 * n) v)) d2 d3 →
    exec (cvt r.quad c ob a e) s = .next (withDev s (goesOn c i.len d3))) ∧
  (∀ (quad : Bool) (s : State) (c : CoreId) (ob : BitVec 6) (a e : Spec) (v : Nat) (dst : Dst) (u upd : AMap Word) (d1 d2 d3 d4 : Dev),
    let f : FpFmt := if quad then .d128 else .b64
    let i : Ins := { c := c, op := if quad then 0o202 else 0o201, ob := ob.toNat, specs := [a, e] }
    Ready i (now s) → (ob.toNat ≤ 2 ∧ okFlt a = true ∧ okFlt e = true) → ((now s).core c).xav = true →
    Gives (fltSrc c 1 f a []) (now s) (v, u) d1 → Gives (fltDst c 2 f e u) d1 (dst, upd) d2 → v < 2 ^ f.bits →
    Gives (commitUpd c upd) d2 () d3 → Gives (applyWrs c (fltWrites (d3.core c) f dst (movOf f ob.toNat v))) d3 () d4 →
    exec (if quad then .qmov c ob a e else .fmov c ob a e) s = .next (withDev s (goesOn c i.len d4))) ∧
  (∀ (s : State) (c : CoreId) (a e : Spec) (v : Nat) (dst : Dst) (u upd : AMap Word) (d1 d2 d3 d4 : Dev),
    let i : Ins := { c := c, op := 0o201, ob := 3, specs := [a, e] }
    Ready i (now s) → (okIntSrc 8 a = true ∧ okFlt e = true) → ((now s).core c).xav = true →
    Gives (srcNat c 1 8 a []) (now s) (v, u) d1 → Gives (fltDst c 2 .b64 e u) d1 (dst, upd) d2 →
    Gives (commitUpd c upd) d2 () d3 → Gives (applyWrs c (fltWrites (d3.core c) .b64 dst (v % 2 ^ 64))) d3 () d4 →
    exec (.fmov c 3 a e) s = .next (withDev s (goesOn c i.len d4))) ∧
  (∀ (s : State) (c : CoreId) (a e : Spec) (v : Nat) (dst : Dst) (u upd : AMap Word) (d1 d2 d3 : Dev),
    let i : Ins := { c := c, op := 0o201, ob := 4, specs := [a, e] }
    Ready i (now s) → (okFlt a = true ∧ okIntDst 8 e = true) → ((now s).core c).xav = true →
    Gives (fltSrc c 1 .b64 a []) (now s) (v, u) d1 → Gives (dstOpd c 2 8 e u) d1 (dst, upd) d2 → Writes c upd dst (natCells 8 v) d2 d3 →
    exec (.fmov c 4 a e) s = .next (withDev s (goesOn c i.len d3)))

/-- VADD, VSUB, VMUL, VAND, VOR and VXOR give each active element its result and leave the others; VMULW, VDMUL, VDOT and VDDOT write
their groups (R182 to R192, R195). -/
def Obligations.VectorOperationsComplete : Prop :=
  (∀ r ∈ vecOps, ∀ (s : State) (c : CoreId) (ob : BitVec 6) (a b e : Spec),
    let i : Ins := { c := c, op := r.op, ob := ob.toNat, specs := [a, b, e] }
    let k := (now s).core c
    let f := r.val k.ew k
    let xs := k.vCells a.reg.toNat
    let ys := k.vCells b.reg.toNat
    let ds := k.vCells e.reg.toNat
    let sf := vecFlags k ob f xs ys ds
    VecReady c r.op ob [a, b, e] (now s) → okReg a = true → okReg b = true → okReg e = true → ob.toNat % 4 = r.var → k.ew ∈ r.widths →
    vecTrap k.te sf = none →
    exec (r.cmd c ob a b e) s = .next (withDev s (goesOn c i.len (vecEnds c e.reg.toNat (vecCells k ob f xs ys ds) sf (now s))))) ∧
  (∀ r ∈ vecWides, ∀ (s : State) (c : CoreId) (ob : BitVec 6) (a b e : Spec),
    let i : Ins := { c := c, op := r.op, ob := ob.toNat, specs := [a, b, e] }
    let k := (now s).core c
    let ds := k.vCells e.reg.toNat
    let out (j : Nat) := r.val k ob (k.vCells a.reg.toNat) (k.vCells b.reg.toNat) j (elem ds r.size j)
    let sf := orAll ((List.range r.groups).map fun j => (out j).2)
    VecReady c r.op ob [a, b, e] (now s) → okReg a = true → okReg b = true → okReg e = true → ob.toNat % 4 ∈ r.vars →
    k.ew = r.ew (ob.toNat % 4) → vecTrap k.te sf = none →
    exec (r.cmd c ob a b e) s = .next (withDev s (goesOn c i.len (vecEnds c e.reg.toNat
      ((List.range r.groups).flatMap fun j => (out j).1.getD (elem ds r.size j)) sf (now s)))))

/-- VLD and VST transfer the active elements in ascending order; VCMP writes its predicate to the lanes of active elements, clears
those of the others, and keeps those before VRESUME; VSEL chooses by its mask; VMASK combines masks or exchanges one with a word; SVL
writes VCFG and its AVL (R183, R185 to R188, R193, R194). -/
def Obligations.VectorTransfersComplete : Prop :=
  (∀ (s : State) (c : CoreId) (ob : BitVec 6) (a e : Spec) (ea : Nat) (upd : AMap Word) (d1 d2 d3 : Dev),
    let i : Ins := { c := c, op := 0o210, ob := ob.toNat, specs := [a, e] }
    let k := (now s).core c
    let n := elemCells k.ew
    VecReady c 0o210 ob [a, e] (now s) → ob.toNat % 4 = 0 → okMem a = true → okReg e = true →
    Gives (evalEA c 1 (k.avl * n) a []) (now s) (ea, upd) d1 →
    Gives (vecEach c (vecActive k n (vecMask k ob)) (fun j => vecLoad c a e.reg.toNat n j (ea + j * n)) (upto k.avl)) d1 () d2 →
    Gives (commitUpd c upd) d2 () d3 →
    exec (.vld c ob a e) s = .next (withDev s (goesOn c i.len (d3.updCore c fun k => { k.raiseSf 0 with vresume := 0 })))) ∧
  (∀ (s : State) (c : CoreId) (ob : BitVec 6) (a e : Spec) (ea : Nat) (upd : AMap Word) (d1 d2 d3 : Dev),
    let i : Ins := { c := c, op := 0o211, ob := ob.toNat, specs := [a, e] }
    let k := (now s).core c
    let n := elemCells k.ew
    VecReady c 0o211 ob [a, e] (now s) → ob.toNat % 4 = 0 → okReg a = true → okMem e = true →
    Gives (evalEA c 2 (k.avl * n) e []) (now s) (ea, upd) d1 →
    Gives (vecEach c (vecActive k n (vecMask k ob)) (fun j => vecStore c e a.reg.toNat n j (ea + j * n)) (upto k.avl)) d1 () d2 →
    Gives (commitUpd c upd) d2 () d3 →
    exec (.vst c ob a e) s = .next (withDev s (goesOn c i.len (d3.updCore c fun k => { k.raiseSf 0 with vresume := 0 })))) ∧
  (∀ (s : State) (c : CoreId) (ob : BitVec 6) (a b e : Spec),
    let i : Ins := { c := c, op := 0o224, ob := ob.toNat, specs := [a, b, e] }
    let k := (now s).core c
    let n := elemCells k.ew
    let out (j : Nat) := cmpElem (ob.toNat % 4) (elem (k.vCells a.reg.toNat) n j) (elem (k.vCells b.reg.toNat) n j)
    let act := vecActive k n (vecMask k ob)
    let sf := orAll (((List.range k.avl).filter act).map fun j => (out j).2)
    VecReady c 0o224 ob [a, b, e] (now s) → okReg a = true → okReg b = true → okMask e = true → k.ew = 2 ∨ k.ew = 3 →
    vecTrap k.te sf = none →
    ∃ m : BitVec 16,
      (∀ l < 16, m.getLsbD l = (let j := l / (n / 4)
        if act j then (out j).1 else decide (j < k.vresume.toNat % 2 ^ 16) && (k.m.getD' e.reg.toNat 0).getLsbD l)) ∧
      exec (.vcmp c ob a b e) s = .next (withDev s (goesOn c i.len
        (((now s).updCore c fun k => { k with m := k.m.put e.reg.toNat m }).updCore c fun k => { k.raiseSf sf with vresume := 0 })))) ∧
  (∀ (s : State) (c : CoreId) (ob : BitVec 6) (a b e : Spec),
    let i : Ins := { c := c, op := 0o225, ob := ob.toNat, specs := [a, b, e] }
    let k := (now s).core c
    let n := elemCells k.ew
    let ds := k.vCells e.reg.toNat
    VecReady c 0o225 ob [a, b, e] (now s) → bitOf ob.toNat 5 = true → ob.toNat % 4 = 0 → okReg a = true → okReg b = true → okReg e = true →
    exec (.vsel c ob a b e) s = .next (withDev s (goesOn c i.len (vecEnds c e.reg.toNat ((List.range (64 / n)).flatMap fun j =>
      if k.vresume.toNat % 2 ^ 16 ≤ j ∧ j < k.avl then
        (if bitOf (vecMask k ob) (j * n / 4) then elem (k.vCells a.reg.toNat) n j else elem (k.vCells b.reg.toNat) n j)
      else elem ds n j) 0 (now s))))) ∧
  (∀ (s : State) (c : CoreId) (ob : BitVec 6) (a b e : Spec),
    let i : Ins := { c := c, op := 0o226, ob := ob.toNat, specs := [a, b, e] }
    let k := (now s).core c
    let x := k.m.getD' a.reg.toNat 0
    let y := k.m.getD' b.reg.toNat 0
    Ready i (now s) → k.xav = true → ob.toNat < 3 → okMask a = true → okMask b = true → okMask e = true →
    exec (.vmask c ob a b e) s = .next (withDev s (goesOn c i.len ((now s).updCore c fun k => { k with
      m := k.m.put e.reg.toNat (if ob = 0 then x &&& y else if ob = 1 then x ||| y else x &&& ~~~y) })))) ∧
  (∀ (s : State) (c : CoreId) (a b e : Spec) (x : Nat) (dst : Dst) (u upd : AMap Word) (d1 d2 d3 : Dev),
    let i : Ins := { c := c, op := 0o226, ob := 3, specs := [a, b, e] }
    Ready i (now s) → ((now s).core c).xav = true → okIntSrc 4 a = true → okMask b = true → okIntDst 4 e = true →
    Gives (srcNat c 1 4 a []) (now s) (x, u) d1 → Gives (dstOpd c 3 4 e u) d1 (dst, upd) d2 →
    Writes c upd dst (natCells 4 (((now s).core c).m.getD' b.reg.toNat 0).toNat) d2 d3 →
    exec (.vmask c 3 a b e) s = .next (withDev s (goesOn c i.len (d3.updCore c fun k => { k with m := k.m.put b.reg.toNat (BitVec.ofNat 16 x) })))) ∧
  (∀ (s : State) (c : CoreId) (ob : BitVec 6) (a e : Spec) (x : Nat) (u : AMap Word) (d1 d2 : Dev),
    let i : Ins := { c := c, op := 0o227, ob := ob.toNat, specs := [a, e] }
    let n := Nat.min x (64 / 2 ^ ob.toNat)
    Ready i (now s) → ((now s).core c).xav = true → ob.toNat < 4 → okIntSrc 4 a = true → okReg e = true →
    Gives (srcNat c 1 4 a []) (now s) (x, u) d1 → WritesG c u e.reg.toNat n d1 d2 →
    exec (.svl c ob a e) s = .next (withDev s (goesOn c i.len (d2.updCore c fun k => { k with
      vcfg := BitVec.ofNat 36 (ob.toNat * 2 ^ 34 + 16 * 2 ^ 16 + n), vresume := 0,
      exposed := k.exposed.filter fun x => match x.w with | .vcfg _ => false | _ => true }))))

namespace Sys2Proof.Claims

open Sys2Proof Sys2Proof.Machine

/-! ## Moves, compares, searches, translates, edits (chapter 6) -/

/-- A string instruction of length register G`l`, as fetched and ready, its registers distinct with no result in flight (R138, R139). -/
def StrReady (c : CoreId) (op : Nat) (ob : BitVec 6) (ss : List Spec) (rs : List Nat) (d : Dev) : Prop :=
  Ready { c := c, op := op, ob := ob.toNat, specs := ss } d ∧ rs.Nodup ∧ Regs c rs d

/-- One more cell of the execution of core `c` is done: what was read for it serves no other cell (R145, R149). -/
def cellDone (c : Nat) (d : Dev) : Dev := d.updCore c fun x => { x with ext := [], strDone := x.strDone + 1 }

/-- Cells `k`, `k + 1`, …, `k + m - 1` of `n` are processed by `step`, none stopping the instruction, and neither a request nor a
pre-emption is due at an acceptance point between them (R144, R145, R228). -/
def Cells (c n : Nat) (step : Nat → M Bool) : Nat → Nat → Dev → Dev → Prop
  | 0, _, d, d' => d' = d
  | m + 1, k, d, d' => ∃ d1, Gives (step k) d false d1 ∧
      (((cellDone c d1).core c).strDone % 64 = 0 → k + 1 < n → (cellDone c d1).strDue c = false) ∧
      Cells c n step m (k + 1) (cellDone c d1) d'

/-- All `n` cells are processed. -/
def All (c n : Nat) (step : Nat → M Bool) (d d' : Dev) : Prop := Cells c n step n 0 d d'

/-- The instruction stops at cell `j` of `n`. -/
def StopsAt (c n j : Nat) (step : Nat → M Bool) (d d' : Dev) : Prop :=
  j < n ∧ ∃ d1, Cells c n step j 0 d d1 ∧ Gives (step j) d1 true d'

/-- G`r` of the current bank is `v`, modulo 2³⁶. -/
def RegIs (c r v : Nat) (d : Dev) : Prop := (d.core c).gr r = BitVec.ofNat 36 v

/-- A move of cell `j` from its end, for an overlapping MVL (R150). -/
def backStep (c l : Nat) (a e : Spec) (var gl ga ge k : Nat) : M Bool := do
  moveCell c a e var (ga + (gl - k - 1)) (ge + (gl - k - 1))
  setReg c l (gl - k - 1)
  return false

/-- Cell `k` of a move with fill (R151). -/
def fillStep (c l : Nat) (a e : Spec) (var fill gl gn ga ge k : Nat) : M Bool := do
  if k < gl then
    moveCell c a e var (ga + k) (ge + k)
    setReg c a.reg.toNat (ga + k + 1)
    setReg c l (gl - k - 1)
  else strMove c 2 e (ge + k) var fill
  setReg c e.reg.toNat (ge + k + 1)
  setReg c (l + 1) (gn - k - 1)
  return false

/-- Cell `k` of a mark move (R152). -/
def markPut (c : Nat) (a e : Spec) (var x y : Nat) : M Unit := do
  let v ← strCell c 1 a x
  let m := if var = 0 then v.toNat / 256 else flagNat (v.toNat % 256 != 0)
  strPut c 2 e y true fun old => m * 256 + old % 256

/-- Cell `k` of a compare (R153). -/
def cmpStep (c l : Nat) (a b : Spec) (r : Nat) (whole : Bool) (gl ga gb gn k : Nat) : M Bool := do
  let x ← strCell c 1 a (ga + k)
  let y ← strCell c 2 b (gb + k)
  if strKey whole x.toNat = strKey whole y.toNat then
    setReg c a.reg.toNat (ga + k + 1)
    setReg c b.reg.toNat (gb + k + 1)
    setReg c l (gl - k - 1)
    setReg c (r + 1) (gn + k + 1)
    return false
  else
    setReg c r (flagNat (decide (strKey whole x.toNat < strKey whole y.toNat)))
    return true

/-- Cell `k` of a search for a cell that `hit` accepts (R154, R155). -/
def findStep (c l : Nat) (a : Spec) (hit : Nat → Bool) (gl ga k : Nat) : M Bool := do
  let x ← strCell c 1 a (ga + k)
  if hit x.toNat then return true
  setReg c a.reg.toNat (ga + k + 1)
  setReg c l (gl - k - 1)
  return false

/-- Cell `k` of a translation (R156). -/
def xlatStep (c l : Nat) (e t : Spec) (gl ge gt k : Nat) : M Bool := do
  let x ← strCell c 1 e (ge + k)
  let y ← strCell c 2 t (gt + x.toNat % 256)
  strMove c 1 e (ge + k) 0 y.toNat
  setReg c e.reg.toNat (ge + k + 1)
  setReg c l (gl - k - 1)
  return false

/-- Cell `k` of a translate and test (R157). -/
def xtstStep (c l : Nat) (a t : Spec) (r gl ga gt k : Nat) : M Bool := do
  let x ← strCell c 1 a (ga + k)
  let y ← strCell c 2 t (gt + x.toNat % 256)
  if y.toNat % 256 = 0 then
    setReg c a.reg.toNat (ga + k + 1)
    setReg c l (gl - k - 1)
    return false
  else
    setReg c r (y.toNat % 256)
    return true

/-- Parcel `k` of CWR (R49). -/
def cwrStep (c l : Nat) (a e : Spec) (gl ga ge k : Nat) : M Bool := do
  let loc ← memAccess c 1 a.seg.toNat (ga + 2 * k) 2 .read
  let v := cellsNat (← readLoc c { opnd := 1, seg := a.seg.toNat, off := ga + 2 * k } loc) % 2 ^ 14
  let (cl, j) ← codeCells c 2 e.seg.toNat (ge + k) .cwr
  let old := cellsNat (← peekLoc c { opnd := 2, seg := e.seg.toNat, off := ge + k } cl)
  codeWrite c cl.cells (natCells cl.cells.length (setBits old (parcelShift j + 13) (parcelShift j) v))
  setReg c a.reg.toNat (ga + 2 * k + 2)
  setReg c e.reg.toNat (ge + k + 1)
  setReg c l (gl - k - 1)
  return false

/-- Parcel `k` of CRD (R49). -/
def crdStep (c l : Nat) (a e : Spec) (gl ga ge k : Nat) : M Bool := do
  let (cl, j) ← codeCells c 1 a.seg.toNat (ga + k) .crd
  let cs ← readLoc c { opnd := 1, seg := a.seg.toNat, off := ga + k } cl
  let loc ← memAccess c 2 e.seg.toNat (ge + 2 * k) 2 .write
  storeLoc c loc (natCells 2 (bitsOf (cellsNat cs) (parcelShift j + 13) (parcelShift j)))
  setReg c a.reg.toNat (ga + k + 1)
  setReg c e.reg.toNat (ge + 2 * k + 2)
  setReg c l (gl - k - 1)
  return false

/-- The edit row with or without a mark register. -/
def editCmd (c : CoreId) (ob : BitVec 6) (p a e g : Spec) (m : Option Spec) : Instr :=
  match m with
  | none => .edit c ob p a e g
  | some m => .edtm c ob p a e g m

/-! ## Postings -/

/-- A posting of core `c` is on its way to the unit that performs it (R302, R308, R312): counted against the task, when one runs, and
remembered with the registers that its status, old value or lock answer goes to. -/
def posted (c op ty : Nat) (loc : MemLoc) (x y : List Cell) (gs gr gc : Option Nat) (d : Dev) : Dev :=
  let k := d.core c
  let slot := if k.plev = 0 then k.runSlot else none
  let p0 : PLoc := loc.cells.headD { addr := 0 }
  let post : CorePost := ⟨d.nextPost, slot, k.bankNo, gs, gr, gc, op == 6, p0.addr, loc.cells.length⟩
  let k := { k with posts := k.posts ++ [post] }
  let k := match slot with
    | some n => k.setSlot n { k.slot n with posts := (k.slot n).posts + 1 }
    | none => k
  let p : Posting := ⟨d.nextPost, .core c, BitVec.ofNat 4 op, BitVec.ofNat 2 ty, k.dsm, x, y, p0, loc.jr, loc.segtag, k.world⟩
  ({ d with nextPost := d.nextPost + 1 }.setCore c k).launch p

/-- The stores to the posting's block drain, and the core has room for another posting (R312, R315). -/
def MayPost (c : Nat) (loc : MemLoc) (d d' : Dev) : Prop :=
  Gives (drainBlock c loc) d () d' ∧ (d'.core c).posts.length < 32 ∧ d'.fld offSNSTAT 31 28 ≠ 6

/-- How a posting instruction ends (R304, R305): a word that is not aligned gets status 5 at once, another posting is sent. -/
def PostEnds (c op : Nat) (ob : BitVec 6) (e : Spec) (i : Nat) (x y : List Cell) (gr : Option Nat) (u : AMap Word) (d d' : Dev) : Prop :=
  ∃ loc rep upd d1 d2, Gives (memOpd c i (postCells (ob.toNat / 16)) .posting e u) d (loc, rep, upd) d1 ∧ Gives (commitUpd c upd) d1 () d2 ∧
    if (loc.cells.headD { addr := 0 }).addr % postCells (ob.toNat / 16) = 0 then
      ∃ d3, MayPost c loc d2 d3 ∧ d' = posted c op (ob.toNat / 16) loc x y (some (ob.toNat % 16)) gr none d3
    else d' = d2.updCore c fun k => k.setG (ob.toNat % 16) 5

end Sys2Proof.Claims

/-- An uninterrupted MVA, MVL, MVF or MVM moves its cells in order, from the last one where MVL's destination overlaps its source from
above, which is judged when its execution begins, and leaves its registers at the end (R143 to R145, R149 to R152). -/
def Obligations.MovesComplete : Prop :=
  ∀ (s : State) (c : CoreId) (ob : BitVec 6) (a e : Spec) (d1 : Dev),
    let l := ob.toNat / 4
    let v := ob.toNat % 4
    let k := (now s).core c
    let gl := (k.gr l).toNat
    let ga := (k.gr a.reg.toNat).toNat
    let ge := (k.gr e.reg.toNat).toNat
    let lapped := segBase k a.seg.toNat + ga < segBase k e.seg.toNat + ge ∧ segBase k e.seg.toNat + ge < segBase k a.seg.toNat + ga + gl
    let down := if k.strDone = 0 then lapped else k.strDown = true
    let marked (b : Bool) : Dev := (now s).updCore c fun k => { k with strDown := b }
    let fin := RegIs c l 0 d1 ∧ RegIs c a.reg.toNat (ga + gl) d1 ∧ RegIs c e.reg.toNat (ge + gl) d1
    v ≤ 1 → okStr a = true → okStr e = true →
    (StrReady c 0o140 ob [a, e] [l, a.reg.toNat, e.reg.toNat] (now s) →
      All c gl (ascend c l a e gl ga ge (moveCell c a e v)) (now s) d1 →
      exec (.mva c ob a e) s = .next (withDev s (goesOn c 3 d1)) ∧ fin) ∧
    (StrReady c 0o141 ob [a, e] [l, a.reg.toNat, e.reg.toNat] (now s) →
      (¬down → All c gl (ascend c l a e gl ga ge (moveCell c a e v)) (marked false) d1 →
        exec (.mvl c ob a e) s = .next (withDev s (goesOn c 3 d1)) ∧ fin) ∧
      (down → All c gl (backStep c l a e v gl ga ge) (marked true) d1 →
        exec (.mvl c ob a e) s = .next (withDev s (goesOn c 3 d1)) ∧ RegIs c l 0 d1)) ∧
    (StrReady c 0o143 ob [a, e] [l, a.reg.toNat, e.reg.toNat] (now s) →
      All c gl (ascend c l a e gl ga ge (markPut c a e v)) (now s) d1 →
      exec (.mvm c ob a e) s = .next (withDev s (goesOn c 3 d1)) ∧ fin) ∧
    (∀ f : Spec, StrReady c 0o142 ob [a, e, f] [l, l + 1, a.reg.toNat, e.reg.toNat, f.reg.toNat] (now s) → l % 2 = 0 → okReg f = true →
      All c (k.gr (l + 1)).toNat (fillStep c l a e v ((k.gr f.reg.toNat).toNat % 512) gl (k.gr (l + 1)).toNat ga ge) (now s) d1 →
      exec (.mvf c ob a e f) s = .next (withDev s (goesOn c 4 d1)) ∧ RegIs c (l + 1) 0 d1 ∧ RegIs c e.reg.toNat (ge + (k.gr (l + 1)).toNat) d1)

/-- CMC, SRC, SRM and XTST look at their cells in order; each writes its condition result when it stops at a cell, and when all are
processed (R143, R145, R153 to R155, R157). XLAT translates its cells (R156). -/
def Obligations.SearchesComplete : Prop :=
  (∀ (s : State) (c : CoreId) (ob : BitVec 6) (a b e : Spec) (d1 : Dev),
    let l := ob.toNat / 4
    let k := (now s).core c
    let r := e.reg.toNat
    let step := cmpStep c l a b r (ob.toNat % 4 == 1) (k.gr l).toNat (k.gr a.reg.toNat).toNat (k.gr b.reg.toNat).toNat (k.gr (r + 1)).toNat
    StrReady c 0o144 ob [a, b, e] [l, a.reg.toNat, b.reg.toNat, r, r + 1] (now s) →
    (ob.toNat % 4 ≤ 1 ∧ okStr a = true ∧ okStr b = true ∧ okReg e = true ∧ r % 2 = 0) →
    (All c (k.gr l).toNat step (now s) d1 →
      exec (.cmc c ob a b e) s = .next (withDev s (goesOn c 4 (d1.updCore c fun k => k.setG r 0)))) ∧
    (∀ j, StopsAt c (k.gr l).toNat j step (now s) d1 → exec (.cmc c ob a b e) s = .next (withDev s (goesOn c 4 d1)))) ∧
  (∀ (s : State) (c : CoreId) (ob : BitVec 6) (a v e : Spec) (d1 : Dev),
    let l := ob.toNat / 4
    let k := (now s).core c
    let x := (k.gr v.reg.toNat).toNat
    let hit (y : Nat) : Bool := if ob.toNat % 4 = 0 then x % 256 == y % 256 else if ob.toNat % 4 = 1 then x % 512 == y % 512
      else !(x % 256 == y % 256)
    let step := findStep c l a hit (k.gr l).toNat (k.gr a.reg.toNat).toNat
    StrReady c 0o147 ob [a, v, e] [l, a.reg.toNat, v.reg.toNat, e.reg.toNat] (now s) →
    (ob.toNat % 4 ≤ 2 ∧ okStr a = true ∧ okReg v = true ∧ okReg e = true) →
    (All c (k.gr l).toNat step (now s) d1 →
      exec (.src c ob a v e) s = .next (withDev s (goesOn c 4 (d1.updCore c fun k => k.setG e.reg.toNat 0)))) ∧
    (∀ j, StopsAt c (k.gr l).toNat j step (now s) d1 →
      exec (.src c ob a v e) s = .next (withDev s (goesOn c 4 (d1.updCore c fun k => k.setG e.reg.toNat 1))))) ∧
  (∀ (s : State) (c : CoreId) (ob : BitVec 6) (a e : Spec) (d1 : Dev),
    let l := ob.toNat / 4
    let k := (now s).core c
    let hit (y : Nat) : Bool := if ob.toNat % 4 = 0 then y / 256 == 1 else !(y / 256 == 1)
    let step := findStep c l a hit (k.gr l).toNat (k.gr a.reg.toNat).toNat
    StrReady c 0o150 ob [a, e] [l, a.reg.toNat, e.reg.toNat] (now s) → (ob.toNat % 4 ≤ 1 ∧ okStr a = true ∧ okReg e = true) →
    (All c (k.gr l).toNat step (now s) d1 →
      exec (.srm c ob a e) s = .next (withDev s (goesOn c 3 (d1.updCore c fun k => k.setG e.reg.toNat 0)))) ∧
    (∀ j, StopsAt c (k.gr l).toNat j step (now s) d1 →
      exec (.srm c ob a e) s = .next (withDev s (goesOn c 3 (d1.updCore c fun k => k.setG e.reg.toNat 1))))) ∧
  (∀ (s : State) (c : CoreId) (ob : BitVec 6) (a t e : Spec) (d1 : Dev),
    let l := ob.toNat / 4
    let k := (now s).core c
    let step := xtstStep c l a t e.reg.toNat (k.gr l).toNat (k.gr a.reg.toNat).toNat (k.gr t.reg.toNat).toNat
    StrReady c 0o146 ob [a, t, e] [l, a.reg.toNat, t.reg.toNat, e.reg.toNat] (now s) →
    (ob.toNat % 4 = 0 ∧ okStr a = true ∧ okStr t = true ∧ okReg e = true) →
    (All c (k.gr l).toNat step (now s) d1 →
      exec (.xtst c ob a t e) s = .next (withDev s (goesOn c 4 (d1.updCore c fun k => k.setG e.reg.toNat 0)))) ∧
    (∀ j, StopsAt c (k.gr l).toNat j step (now s) d1 → exec (.xtst c ob a t e) s = .next (withDev s (goesOn c 4 d1)))) ∧
  (∀ (s : State) (c : CoreId) (ob : BitVec 6) (e t : Spec) (d1 : Dev),
    let l := ob.toNat / 4
    let k := (now s).core c
    StrReady c 0o145 ob [e, t] [l, e.reg.toNat, t.reg.toNat] (now s) → (ob.toNat % 4 = 0 ∧ okStr e = true ∧ okStr t = true) →
    All c (k.gr l).toNat (xlatStep c l e t (k.gr l).toNat (k.gr e.reg.toNat).toNat (k.gr t.reg.toNat).toNat) (now s) d1 →
    exec (.xlat c ob e t) s = .next (withDev s (goesOn c 3 d1)))

/-- An uninterrupted EDIT or EDTM whose pattern and source are right makes one pass over the pattern and writes its result, its
significance to G`s`, and for EDTM the first significant position; OV tells that the source's first digit is lost (R160 to R166). -/
def Obligations.EditsComplete : Prop :=
  ∀ (s : State) (c : CoreId) (ob : BitVec 6) (p a e g : Spec) (m : Option Spec) (fill : Nat) (pat : List EditCell) (pl : List PLoc)
      (src : List Cell) (al : MemLoc) (ls : List MemLoc) (mag : Nat) (neg : Bool) (d1 d2 d3 d4 : Dev),
    let op := if m = none then 0o151 else 0o152
    let k := (now s).core c
    let off (x : Spec) := (k.gr x.reg.toNat).toNat
    let l := ob.toNat / 4
    let gl := (k.gr l).toNat
    let f : EditForm := { l := l, p := p, a := a, d := e, gs := g.reg.toNat, gm := m.map (·.reg.toNat), zone := if ob.toNat % 4 = 0 then 3 else 15, op := op }
    let nd := (pat.filter editDigit).length
    let dst := joinLocs ls
    let pa := pl.map (·.addr)
    let aa := al.cells.map (·.addr)
    let da := dst.cells.map (·.addr)
    let ds := (nibbles src).dropLast
    let r : EditRun := { fill := fill, pat := pat, ds := ds, neg := neg, nd := nd, dst := dst, dig := editDigest (firstAddr pl) (firstAddr al.cells) (firstAddr dst.cells) gl }
    let (bs, q) := editPass f.zone (fill % 256) neg ds pat.length pat { k := 1, i := 1 - nd % 2 }
    let sf := if nd % 2 = 0 ∧ ds.headD 0 ≠ 0 then 128 else 0
    StrReady c op ob ([p, a, e, g] ++ m.toList) ([l, p.reg.toNat, a.reg.toNat, e.reg.toNat, g.reg.toNat] ++ m.toList.map (·.reg.toNat)) (now s) →
    (ob.toNat % 4 ≤ 1 ∧ okStr p = true ∧ okStr a = true ∧ okStr e = true ∧ okReg g = true ∧ (∀ x, m = some x → okReg x = true)) →
    (gl ≠ 0 ∧ gl ≤ 512 ∧ nd ≤ 127) → (now s).pointDue c = false → d3.pointDue c = false →
    Gives (readPattern c p true gl (off p)) (now s) (fill, pat, pl) d1 → Gives (readEach c 2 a (off a) (nd / 2 + 1)) d1 (src, al) d2 →
    Gives (eachAccess c 3 e.seg.toNat .write (off e) gl) d2 ls d3 →
    ((∀ x ∈ aa, x ∉ pa ∧ x ∉ da) ∧ (pa = da ∨ ∀ x ∈ pa, x ∉ da)) → packedVal src = some (mag, neg) →
    Gives (editWrite c f r 0 (fill % 256 :: bs) q.first) d3 () d4 →
    let d5 := d4.updCore c fun k => k.setG g.reg.toNat (BitVec.ofNat 36 (flagNat q.s))
    let d6 := match m, q.first with
      | some x, some j => d5.updCore c fun k => k.setG x.reg.toNat (BitVec.ofNat 36 (((d5.core c).gr e.reg.toNat).toNat + j))
      | _, _ => d5
    NoTrap c sf d6 →
    exec (editCmd c ob p a e g m) s = .next (withDev s (goesOn c (5 + m.toList.length) (flagged c sf d6)))

/-- An uninterrupted CWR writes its parcels into code space, and CRD reads parcels from code space into half words, one parcel at a
time (R49, R60, R245). -/
def Obligations.CodeWindowsComplete : Prop :=
  ∀ (s : State) (c : CoreId) (ob : BitVec 6) (a e : Spec) (d1 : Dev),
    let l := ob.toNat / 4
    let k := (now s).core c
    let gl := (k.gr l).toNat
    let ga := (k.gr a.reg.toNat).toNat
    let ge := (k.gr e.reg.toNat).toNat
    ob.toNat % 4 = 0 → okStr a = true → okStr e = true → Regs c [l, a.reg.toNat, e.reg.toNat] (now s) →
    (Ready { c := c, op := 0o032, ob := ob.toNat, specs := [a, e] } (now s) → All c gl (cwrStep c l a e gl ga ge) (now s) d1 →
      exec (.cwr c ob a e) s = .next (withDev s (goesOn c 3 d1))) ∧
    (Ready { c := c, op := 0o033, ob := ob.toNat, specs := [a, e] } (now s) → All c gl (crdStep c l a e gl ga ge) (now s) d1 →
      exec (.crd c ob a e) s = .next (withDev s (goesOn c 3 d1)))

/-- PADD, PADF, PSWP, PCAS and PBAD read their operands and send their posting toward the line's unit, or write status 5 for a word
that is not aligned (R302 to R305, R308, R312, R315). -/
def Obligations.PostingsComplete : Prop :=
  (∀ (bin : Bool) (s : State) (c : CoreId) (ob : BitVec 6) (a e : Spec) (x : List Cell) (u : AMap Word) (d1 d2 : Dev),
    let n := postCells (ob.toNat / 16)
    let i : Ins := { c := c, op := if bin then 0o244 else 0o240, ob := ob.toNat, specs := [a, e] }
    Ready i (now s) → (if bin then 2 ≤ ob.toNat / 16 ∧ okIntSrc n a = true else ob.toNat / 16 ≤ 1 ∧ okMem a = true) → okMem e = true →
    ob.toNat % 16 ∉ updRegs [a, e] → Regs c [ob.toNat % 16] (now s) → Gives (srcCells c 1 n a []) (now s) (x, u) d1 →
    PostEnds c (if bin then 4 else 0) ob e 2 x [] none u d1 d2 →
    exec (if bin then .pbad c ob a e else .padd c ob a e) s = .next (withDev s (goesOn c i.len d2))) ∧
  (∀ (s : State) (c : CoreId) (ob : BitVec 6) (a f e : Spec) (x y : List Cell) (u v : AMap Word) (d1 d2 d3 : Dev),
    let n := postCells (ob.toNat / 16)
    let i : Ins := { c := c, op := 0o241, ob := ob.toNat, specs := [a, f, e] }
    Ready i (now s) → (ob.toNat / 16 ≤ 1 ∧ okMem a = true ∧ okMem f = true ∧ okMem e = true) → ob.toNat % 16 ∉ updRegs [a, f, e] →
    Regs c [ob.toNat % 16] (now s) → Gives (srcCells c 1 n a []) (now s) (x, u) d1 → Gives (srcCells c 2 n f u) d1 (y, v) d2 →
    PostEnds c 1 ob e 3 x y none v d2 d3 →
    exec (.padf c ob a f e) s = .next (withDev s (goesOn c i.len d3))) ∧
  (∀ (s : State) (c : CoreId) (ob : BitVec 6) (r e : Spec) (d1 : Dev),
    let i : Ins := { c := c, op := 0o242, ob := ob.toNat, specs := [r, e] }
    Ready i (now s) → (ob.toNat / 16 = 2 ∧ okReg r = true ∧ okMem e = true ∧ r.reg.toNat ≠ ob.toNat % 16) →
    ob.toNat % 16 ∉ updRegs [e] → r.reg.toNat ∉ updRegs [e] → Regs c [ob.toNat % 16, r.reg.toNat] (now s) →
    PostEnds c 2 ob e 2 (wordCells (((now s).core c).gr r.reg.toNat)) [] (some r.reg.toNat) [] (now s) d1 →
    exec (.pswp c ob r e) s = .next (withDev s (goesOn c i.len d1))) ∧
  (∀ (s : State) (c : CoreId) (ob : BitVec 6) (r n e : Spec) (x : List Cell) (u : AMap Word) (d1 d2 : Dev),
    let i : Ins := { c := c, op := 0o243, ob := ob.toNat, specs := [r, n, e] }
    Ready i (now s) → (ob.toNat / 16 = 2 ∧ okReg r = true ∧ okIntSrc 4 n = true ∧ okMem e = true ∧ r.reg.toNat ≠ ob.toNat % 16) →
    ob.toNat % 16 ∉ updRegs [n, e] → r.reg.toNat ∉ updRegs [n, e] → Regs c [ob.toNat % 16, r.reg.toNat] (now s) →
    Gives (srcCells c 2 4 n []) (now s) (x, u) d1 →
    PostEnds c 3 ob e 3 x (wordCells (((now s).core c).gr r.reg.toNat)) (some r.reg.toNat) u d1 d2 →
    exec (.pcas c ob r n e) s = .next (withDev s (goesOn c i.len d2)))

/-- LKT and LKR send a take or a release with the tag of the running code, LKR once its earlier stores and postings are accepted; a
status that returns is written to the registers that wait for it, and the posting is no longer counted (R305, R312 to R314). -/
def Obligations.LocksAndStatusesComplete : Prop :=
  (∀ (s : State) (c : CoreId) (a e : Spec) (loc : MemLoc) (rep : Rep) (upd : AMap Word) (d1 d2 d3 : Dev),
    let i : Ins := { c := c, op := 0o245, ob := 0, specs := [a, e] }
    Ready i (now s) → (okMem a = true ∧ okReg e = true) → Regs c [e.reg.toNat] (now s) →
    Gives (memOpd c 1 4 .lock a []) (now s) (loc, rep, upd) d1 → Gives (commitUpd c upd) d1 () d2 → d2.lockable loc = true →
    MayPost c loc d2 d3 →
    exec (.lkt c 0 a e) s = .next (withDev s (goesOn c i.len
      (posted c 5 2 loc (natCells 4 (lockTag (d2.core c) c)) (natCells 4 0) none none (some e.reg.toNat) d3)))) ∧
  (∀ (s : State) (c : CoreId) (a : Spec) (loc : MemLoc) (rep : Rep) (upd : AMap Word) (d1 d2 d3 d4 : Dev),
    let i : Ins := { c := c, op := 0o246, ob := 0, specs := [a] }
    Ready i (now s) → okMem a = true → Gives (storesVisible c) (now s) () d1 →
    ((d1.core c).posts.all fun p => d1.postAccepted p) = true →
    Gives (memOpd c 1 4 .lock a []) d1 (loc, rep, upd) d2 → Gives (commitUpd c upd) d2 () d3 → d3.lockable loc = true →
    MayPost c loc d3 d4 →
    exec (.lkr c 0 a) s = .next (withDev s (goesOn c i.len
      (posted c 6 2 loc (natCells 4 0) (natCells 4 (lockTag (d3.core c) c)) none none none d4)))) ∧
  (∀ (s : State) (c : CoreId) (a : Ack) (p : CorePost), (s.dev.ackNet.find? fun x => x.who == .core c) = some a →
    ((s.dev.core c).posts.find? fun x => x.id == a.id) = some p → p.slot = none → p.lockGc = none →
    exec (.postingStatusReturn c) s = .next (withDev s ({ now s with ackNet := s.dev.ackNet.erase a }.updCore c fun k =>
      let k := match p.gs with | some r => k.setGAt p.bank r (BitVec.ofNat 36 a.status.toNat) | none => k
      let k := match p.gr with | some r => if a.status = 0 ∨ a.status = 4 then k.setGAt p.bank r (cellsWord a.old) else k | none => k
      { k with posts := k.posts.filter (·.id != p.id), twinSeq := Nat.max k.twinSeq (a.seq.getD 0) })))

namespace Sys2Proof.Claims

/-! ## How statements about commands are put -/

/-- Command `i` completes at `s`: it changes nothing but the device, whose new state satisfies `P`. -/
def Does (i : Instr) (s : State) (P : Dev → Prop) : Prop := ∃ d, exec i s = .next (withDev s d) ∧ P d

/-- Nothing is on its way to Fumarole or to the custody controller: what a register write sends there arrives within its command,
except that a dormant device keeps mailbox commands (R489, R502, R505). -/
def Calm (s : State) : Prop :=
  (s.dev.board.dormant = true ∨ s.dev.cust.mbWait = []) ∧ s.dev.board.step = none ∧ s.dev.board.kick = false

/-- Command `i`, a register access, completes at `s`: the commands that wait stay, and the new device satisfies `P`. -/
def Lands (i : Instr) (s : State) (P : Dev → Prop) : Prop := ∃ t, exec i s = .next t ∧ t.pending = s.pending ∧ P t.dev

/-- A write through custody's views that the register block answers (R479, R511). -/
def ByCustody (v : View) (off : Nat) (s : State) : Prop := viewPf0 v = false ∧ (now s).answers v off = true ∧ Calm s

/-- The slot takes event bits: it wakes when an awaited one is among them (R225). -/
def slotAfter (x : Slot) (bits : BitVec 5) : Slot := { x with evpend := x.evpend ||| bits }

/-- What an event for slot `n` of core `c` does to device `d` (R225): the record of a discarded one, the bit in EVPEND, readiness. -/
def EventDone (c n : Nat) (bits : BitVec 5) (data : Nat) (d d' : Dev) : Prop :=
  let x := (d.core c).slot n
  if x.valid = false ∨ x.st = .free then d' = d.logEvent 0x17 1 c 0 0 data
  else if x.st = .blocked ∧ (x.evpend ||| bits) &&& x.evmask ≠ 0 then
    ((d'.core c).slot n).evpend = x.evpend ||| bits ∧ (((d'.core c).slot n).st = .ready ∨ ((d'.core c).slot n).st = .running)
  else d' = d.setCore c ((d.core c).setSlot n (slotAfter x bits))

/-- The entry of an event on core `c` completes (R199 to R207), and with it the boundary at which it was taken: `took` is what the
acceptance clears. -/
def Enters (c : Nat) (v : Delivery) (took : Dev → Dev) (d d' : Dev) : Prop :=
  ∃ d1, Gives (deliver c v) d () d1 ∧ d' = ((took d1).updCore c fun k => { k with entry := none, ext := [] }).endStep c

/-- The entry for the bank-overflow trap `o` on a core that stands as `k` (R231). -/
def ovfEntry (k : Core) (o : Overflow) : Delivery :=
  { vec := 24, world := (k.slot o.slot).world, level := some 6, spc := k.pc, fpc := k.pc, info0 := flagNat o.spill * 2 ^ 28,
    info1 := o.slot + o.vict * 2 ^ 8 + o.bank * 2 ^ 16 + flagNat o.spill * 2 ^ 18, micro := k.micro }

/-- The entry for request `r` (R222). -/
def irqEntry (k : Core) (r : IrqReq) : Delivery :=
  { vec := r.vector, world := r.world, level := some r.level, irq := true, spc := k.pc, fpc := k.pc, info0 := r.source, micro := k.micro }

/-- The trap that was taken no longer waits (R231). -/
def ovfTook (c : Nat) (d : Dev) : Dev := d.updCore c fun k => { k with ovf := none }

/-- The request that was taken is withdrawn and its PEND clears (R222). -/
def irqTook (c : Nat) (r : IrqReq) (d : Dev) : Dev :=
  (d.updCore c fun k => { k with reqs := k.reqs.eraseP fun q => q.source == r.source }).setBit (offISRC r.source) 63 false

/-- Request `r` is the one to take: accepted, before every other accepted one (R199, R214). -/
def Best (k : Core) (r : IrqReq) : Prop :=
  r ∈ k.reqs ∧ k.accepts r.level = true ∧
  ∀ q ∈ k.reqs, q ≠ r → k.accepts q.level = true → q.level < r.level ∨ (q.level = r.level ∧ r.source < q.source)

/-- No bank-overflow trap can be taken: none waits, level 6 is masked, its slot no longer waits for a bank, or no bank can be had (R231). -/
def NoOvf (c : Nat) (d : Dev) : Prop :=
  ∀ o, (d.core c).ovf = some o → (d.core c).accepts 6 = true →
    let x := (d.core c).slot o.slot
    x.valid = false ∨ x.st ≠ .ready ∨ x.res = true ∨ d.overflowFor c o.slot x.world = none

end Sys2Proof.Claims

open Sys2Proof.Claims

/-- A request reaches its core and wakes it from IDLE when it would be accepted; a scheduler event or a signal sets its bit in EVPEND,
wakes a slot that awaits it, and is recorded when it is discarded; a signal for a slot that has moved is forwarded (R222, R225, R227,
R230, R367). -/
def Obligations.EventsReachCores : Prop :=
  (∀ (s : State) (c : CoreId) (r : Nat × IrqReq), (s.dev.irqNet.find? fun x => x.1 == c.val) = some r →
    Does (.interruptRequestArrival c) s fun d =>
      d.irqNet = s.dev.irqNet.erase r ∧ (d.core c).reqs = (s.dev.core c).reqs ++ [r.2] ∧
      ((s.dev.core c).accepts r.2.level = true → (d.core c).idle = false)) ∧
  (∀ (s : State) (c : CoreId) (n : SlotId) (ev : Fin 5) (seqno : Nat), s.dev.active = true →
    Does (.schedulerEvent c n ev seqno) s (EventDone c n (BitVec.ofNat 5 (2 ^ ev.val)) (n.val * 256 + ev.val) (now s))) ∧
  (∀ (s : State) (c : CoreId) (g : Signal), (s.dev.sigNet.find? fun x => x.core == c.val) = some g →
    let d0 : Dev := { now s with sigNet := s.dev.sigNet.erase g }
    let fwd := (s.dev.core c).fwd.find? fun f => f.slot == g.slot && decide (s.fum.time ≤ f.time + s.dev.fwdTime)
    Does (.signalArrival c) s fun d => match fwd with
      | some f => d = { d0 with sigNet := d0.sigNet ++ [{ g with core := f.core, slot := f.newSlot }] }
      | none =>
        if ((s.dev.core c).slot g.slot).world = true ∧ g.fromCustody = false then d = d0.logEvent 0x17 1 c 0 0 (g.slot * 256 + 4)
        else EventDone c g.slot 16 (g.slot * 256 + 4) d0 d)

/-- At an instruction boundary the bank-overflow trap, announcing the banks as they stand, goes before the requests, the highest level
before the lower ones and the lower source number before the higher, and the accepted request's PEND clears; an entry under way for an
interrupt is taken over by a higher request, one for a synchronous event goes on, and a handler's first instruction comes first; a ready
slot of higher priority takes a core whose PREEMPT is 1; a core enters deterministic mode once its stores have drained (R214, R222, R228,
R231, R249, R252). -/
def Obligations.CoresTakeEvents : Prop :=
  (∀ (s : State) (c : CoreId) (o p : Overflow) (d1 : Dev),
    let k := s.dev.core c
    let x := k.slot o.slot
    (now s).atPoint c = true → k.entry = none → k.fresh = false → k.ovf = some o → k.accepts 6 = true →
    x.valid = true → x.st = .ready → x.res = false → (now s).overflowFor c o.slot x.world = some p →
    Enters c (ovfEntry k p) (ovfTook c) (now s) d1 → exec (.interruptAccept c) s = .next (withDev s d1)) ∧
  (∀ (s : State) (c : CoreId) (r : IrqReq) (d1 : Dev),
    let k := s.dev.core c
    let d0 := if k.accepts 6 then ovfTook c (now s) else now s
    (now s).atPoint c = true → k.entry = none → k.fresh = false → NoOvf c (now s) → Best k r →
    Enters c (irqEntry k r) (irqTook c r) d0 d1 → exec (.interruptAccept c) s = .next (withDev s d1)) ∧
  (∀ (s : State) (c : CoreId) (v : Delivery) (d1 : Dev),
    let k := s.dev.core c
    (now s).atPoint c = true → k.entry = some v →
    (∀ l r, v.level = some l → NoOvf c (now s) → Best k r → l < r.level → Enters c (irqEntry k r) (irqTook c r) (now s) d1 →
      exec (.interruptAccept c) s = .next (withDev s d1)) ∧
    (v.level = none → v.irq = false → v.vec ≠ 24 → Enters c v id (now s) d1 → exec (.interruptAccept c) s = .next (withDev s d1))) ∧
  (∀ (s : State) (c : CoreId), (s.dev.core c).entry = none → (s.dev.core c).fresh = true →
    exec (.interruptAccept c) s = .next (withDev s (now s))) ∧
  (∀ (s : State) (c : CoreId) (r n : Nat) (x : Slot),
    let k := s.dev.core c
    k.runSlot = some r → (now s).runs c = true → (now s).atPoint c = true → k.plev = 0 → k.eventDue = false → k.micro = none →
    s.dev.preemptOn c = true → (n, x) ∈ k.ready → k.slot n = x → x.res = true → (k.slot r).prio.toNat < x.prio.toNat →
    (∀ y ∈ k.ready, y ≠ (n, x) → slotBefore k.det (n, x) y = true ∧ slotBefore k.det y (n, x) = false) →
    Does (.preempt c) s fun d => (d.core c).runSlot = some n ∧ (d.core c).pc = x.pc ∧ ((d.core c).slot r).st = .ready) ∧
  (∀ (s : State) (c : CoreId),
    let k := s.dev.core c
    k.detWait = true → k.beside = [] → k.sbuf = [] →
    exec (.detModeEnter c) s = .next (withDev s ((now s).setCore c
      { k.setStat 26 26 1 with l1 := [], btb := [], lbuf := [], detWait := false })))

/-- The oldest store-buffer entry leaves: each run of its cells that were stored with one journaling is written to memory or to its bank
with that journaling, or goes to the host; the oldest instruction beside the pipe writes its results and raises its flags (R91, R243,
R328, R420). -/
def Obligations.BuffersDrain : Prop :=
  (∀ (s : State) (c : CoreId) (e : SbEntry) (t : List SbEntry),
    let d := now s
    let mine := d.region (e.block * 16) = .localMem ∨ ∃ i, d.region (e.block * 16) = .bank i
    d.active = true → (d.core c).sbuf = e :: t →
    (mine → (e.cells.any (·.2.jr) = true → d.journalReady = true) ∧
      d.postQueued (e.cells.map fun p => { addr := e.block * 16 + p.1, pol := e.pol, se := e.se }) = false) →
    exec (.storeBufferDrain c) s = .next (withDev s
      (((sbRuns e.cells).foldl (fun d r => d.drainRun c e r) d).updCore c fun k => { k with sbuf := t }))) ∧
  (∀ (d : Dev) (c : Nat) (e : SbEntry) (j : Nat) (x : SbCell) (q : AMap SbCell),
    let run := ((j, x) :: q).map fun p => (({ addr := e.block * 16 + p.1, pol := e.pol, se := e.se } : PLoc), p.2.v)
    (d.region (e.block * 16 + j) = .localMem ∨ (∃ i, d.region (e.block * 16 + j) = .bank i) →
      d.drainRun c e ((j, x) :: q) = d.writeRun run x.jr x.segtag (c / 8) none (some c)) ∧
    (d.region (e.block * 16 + j) = .host → d.hostReady = true →
      d.drainRun c e ((j, x) :: q) = d.send (.hostWrite (e.block * 16 + j - hostWinBase) (run.map fun p => BitVec.ofNat 8 p.2.toNat)))) ∧
  (∀ (s : State) (c : CoreId) (b : Beside) (t : List Beside) (d1 : Dev),
    let d := now s
    d.active = true → (d.core c).checkstop = false → (d.core c).started = true → (d.core c).beside = b :: t →
    Gives (applyWrs c b.writes) (d.updCore c fun k => { k with beside := t }) () d1 → trapOf b.te.toNat b.sf.toNat = none →
    exec (.besidePipeComplete c) s = .next (withDev s (flagged c b.sf.toNat d1)))

/-- A line buffer takes the line that its translation gives, with the poison of one read from memory, or the fetch fault; a walk installs
its translation, and waits, with nothing done, where its cause is 0; an invalidation and aging remove what they name and nothing else, in
the island's TLB and walk caches and its cores' DTLBs (R238, R341, R345, R348, R349, R352). -/
def Obligations.TranslationsAreCachedAndDropped : Prop :=
  (∀ (s : State) (c : CoreId) (w : Bool) (l : BitVec 31) (demand : Bool) (d1 : Dev) (r : Except TrFault Tlb),
    let q : TrReq := { world := w, code := true, sup := (s.dev.core c).sup, page := 64 * l.toNat / 4096, acc := .fetch, spec := !demand }
    s.dev.active = true → (s.dev.core c).started = true → s.dev.lostCore c .lineBuffer < 8 →
    (∀ b ∈ (s.dev.core c).lbuf, b.world = w → b.line ≠ l.toNat) →
    (now s).translate (c.val / 8) none q = (d1, r) →
    match r with
    | .ok e =>
      let p : PLoc := { addr := e.frame * 4096 + 64 * l.toNat % 4096, pol := e.pol }
      let hit := (d1.isl (c.val / 8)).ccache.any (·.1 == p.addr / 64)
      Does (.lineBufferFill c w l demand) s fun d =>
        (d.core c).lbuf.head? = some { world := w, line := l.toNat, fault := none, poison := !hit && (d1.lineRead p).poisoned p }
    | .error f =>
      if f.cause = 0 then exec (.lineBufferFill c w l demand) s = .next (withDev s (now s))
      else if f.cause = 4 ∧ demand = false then exec (.lineBufferFill c w l demand) s = .next (withDev s d1)
      else Does (.lineBufferFill c w l demand) s fun d =>
        (d.core c).lbuf.head? = some { world := w, line := l.toNat, fault := some f }) ∧
  (∀ (s : State) (i : IslandId) (q : WalkReq) (d1 : Dev) (r : Except TrFault Tlb),
    let c := 8 * i.val + q.core.val
    let t : TrReq := { world := q.world, code := accCode q.acc, sup := q.sup, page := q.page.toNat, acc := q.acc, segKey := q.segKey.toNat,
                       pkr := ((s.dev.core c).wr q.world).pkr.toNat, spec := q.speculative }
    s.dev.active = true → s.dev.islandDown i = false → (now s).walk i t = (d1, r) →
    exec (.tableWalk i q) s = .next (withDev s (match r with
      | .ok e => (d1.install i (if accCode q.acc then none else some c) e).heatEvent (walkerReq i) (e.frame * 4096) q.world i 0
      | .error f => if f.cause = 0 then now s else d1))) ∧
  (∀ (s : State) (i : IslandId) (v : Inval) (t : List Inval), (s.dev.isl i).inv = v :: t →
    let x := s.dev.isl i
    let x' : Island := { x with tlb := x.tlb.filter (!v.hits ·), wc := x.wc.filter (!v.hitsWalk ·), inv := t }
    let drop (k : Core) : Core := { k with dtlb := k.dtlb.filter (!v.hits ·), lbuf := k.lbuf.filter fun b => b.world != v.world }
    Does (.invalidationArrival i) s fun d =>
      (∀ j, d.isl j = if j = i.val then x' else s.dev.isl j) ∧
      ∀ c, d.core c = if c / 8 = i.val then drop (s.dev.core c) else s.dev.core c) ∧
  (∀ (s : State) (i : IslandId),
    let old (w : Bool) (e : Nat) : Bool := s.dev.bit offEPOCHAGE (flagNat w) && decide (e + 4 ≤ s.fum.time / 64000 - s.dev.epochBase)
    let x := s.dev.isl i
    let x' : Island := { x with tlb := x.tlb.filter fun e => !old e.world e.epoch, wc := x.wc.filter fun e => !old e.world e.epoch }
    let drop (k : Core) : Core := { k with dtlb := k.dtlb.filter fun e => !old e.world e.epoch }
    Does (.epochAging i) s fun d =>
      (∀ j, d.isl j = if j = i.val then x' else s.dev.isl j) ∧
      ∀ c, d.core c = if c / 8 = i.val then drop (s.dev.core c) else s.dev.core c) ∧
  (∀ (s : State) (v : View) (x : Reg), ByCustody v offEPOCHAGE s →
    Lands (.epochageWrite v x) s fun d =>
      d.bit offEPOCHAGE 0 = bitOf x.toNat 0 ∧ d.bit offEPOCHAGE 1 = bitOf x.toNat 1 ∧
      ∀ i < 12, (d.isl i).tlb = (s.dev.isl i).tlb.filter fun e => !(bitOf x.toNat (flagNat e.world) && decide (e.epoch + 4 ≤ s.fum.time / 64000 - s.dev.epochBase)))

/-- A posting enters the queue of the unit that serves its line; the unit performs the postings of one line as a group, and counts those
that succeed, none of a requester passing an older one at the other place of a page in move; it and the bank atomic unit acknowledge in
order, a journaled one once Sinter has its record, another when its line is written (R21, R23, R309 to R312, R325). -/
def Obligations.PostingsAreServed : Prop :=
  (∀ (s : State) (p : PuId) (q : Posting), s.dev.active = true → (s.dev.pus.getD' p {}).queue.length < 64 →
    (s.dev.postNet.find? fun q => s.dev.servingPu (puOf q.loc.addr q.loc.pol) == some p.val) = some q →
    Does (.postingArrival p) s fun d => d.postNet = s.dev.postNet.erase q ∧ (d.pus.getD' p {}).queue = (s.dev.pus.getD' p {}).queue ++ [q]) ∧
  (∀ (s : State) (p : PuId) (h : Posting) (t : List Posting) (d1 : Dev) (as : List Applied),
    let u := s.dev.pus.getD' p {}
    let same (q : Posting) : Bool := q.loc.key / 128 == h.loc.key / 128
    let group := (u.queue.filter same).takeWhile fun q => !(now s).olderElsewhere q
    s.dev.active = true → u.queue = h :: t → s.dev.puFenced p = false → s.dev.puStopped p = false → s.dev.heldFrame h.loc = false →
    group ≠ [] → (∀ q, (now s).moveTwin h.loc = some q → q.isLocal = true) →
    (group.any (·.jr) = true → s.dev.journalReady = true) →
    ((now s).lineRead h.loc).applyPosts p group = (d1, as) →
    Does (.groupService p) s fun d' => ∃ d : Dev, d' = d.ackPlain p ∧
      (d.pus.getD' p {}).queue = u.queue.filter (fun q => !group.contains q) ∧ (d.pus.getD' p {}).applied = u.applied ++ as ∧
      d.mem = d1.mem ∧ d.fld (offPUSTAT p) 47 16 = (s.dev.fld (offPUSTAT p) 47 16 + (as.filter (·.status == 0)).length) % 2 ^ 32) ∧
  (∀ (d : Dev) (p : Nat),
    let l := (d.pus.getD' p {}).applied
    (∀ a ∈ l, a.seq = none → ∃ c, a.p.who = .core c) →
    ((d.ackPlain p).pus.getD' p {}).applied = l.filter (·.seq.isSome) ∧
    (d.ackPlain p).ackNet = d.ackNet ++ (l.filter (·.seq.isNone)).map fun a =>
      { id := a.p.id, who := a.p.who, status := a.status, old := a.old, seq := none }) ∧
  (∀ (s : State) (p : PuId) (a : Applied) (t : List Applied) (c : Nat), s.dev.active = true → s.dev.puStopped p = false →
    (s.dev.pus.getD' p {}).applied = a :: t → s.dev.mayAck a = true → a.p.who = .core c →
    Does (.postingAcknowledge p) s fun d => (d.pus.getD' p {}).applied = t ∧
      d.ackNet = s.dev.ackNet ++ [{ id := a.p.id, who := .core c, status := a.status, old := a.old, seq := a.seq }]) ∧
  (∀ (s : State) (i : IslandId) (p : Posting) (t : List Posting) (d1 : Dev) (a : Applied) (c : Nat),
    let x := s.dev.isl i
    s.dev.active = true → s.dev.islandDown i = false → x.atomDone = [] → x.atomics = p :: t → p.who = .core c →
    (p.locs.any fun q => s.dev.bankHeld q.addr) = false → (now s).applyPost p (256 + i.val) = (d1, a) →
    (p.jr = false → Does (.bankAtomic i) s fun d => (d.isl i).atomics = t ∧ (d.isl i).atomDone = [] ∧ d.mem = d1.mem ∧
      d.ackNet = s.dev.ackNet ++ [{ id := p.id, who := .core c, status := a.status, old := a.old, seq := none }]) ∧
    (p.jr = true → s.dev.journalReady = true → s.dev.isStandby = false → Does (.bankAtomic i) s fun d =>
      (d.isl i).atomics = t ∧ (d.isl i).atomDone = [a] ∧ d.mem = d1.mem ∧ d.ackNet = s.dev.ackNet))

/-- A scrub read corrects or poisons its line and moves on; refresh changes nothing; a handover waits for the old owner's writes, a
forced one does not and discards them; a field repair is taken while its die has room for it, else the write is ignored (R43, R299,
R300, R322, R323, R326, R440). -/
def Obligations.BanksAndLinesAreKept : Prop :=
  (∀ (s : State) (p : PuId) (n l : Nat) (x : Upset),
    let a := s.dev.phys (128 * l)
    s.dev.active = true → s.dev.lineAt p n = some l → s.dev.bit (offMCSCRUB (p.val / 32)) 32 = true → a.addr < s.dev.localTop →
    s.dev.postQueued [a] = false →
    Does (.scrubRead p n x) s fun d => d.scrubAt.getD' p 0 = n + 1 ∧ d.upsets.getD' (a.key / 128) .clean = .clean ∧
      (x = .uncorrectable → (d.lineInfo a).poison = true) ∧ (x ≠ .uncorrectable → d.lineInfo a = s.dev.lineInfo a) ∧ d.mem = s.dev.mem) ∧
  (∀ (s : State) (k : StackId) (m : Bool), exec (.refresh k m) s = .next (withDev s (now s))) ∧
  (∀ (s : State) (v : View) (i : IslandId) (b : BankId) (o : BitVec 3), ByCustody v (offBANKOWN i b) s →
    Lands (.bankHandover v i b o) s fun d =>
      d.fld (offBANKOWN i b) 2 0 = s.dev.fld (offBANKOWN i b) 2 0 ∧
      if o = 7 then (d.isl i).hand = (s.dev.isl i).hand
      else (d.isl i).hand = (s.dev.isl i).hand ++ [{ bank := b, owner := o }] ∧ d.bit (offBANKOWN i b) 6 = true) ∧
  (∀ (s : State) (i : IslandId) (b : BankId) (h : Handover), ((s.dev.isl i).hand.find? fun x => x.bank == b.val) = some h →
    s.dev.bankWritesLeft i b = false → b.val ∉ (s.dev.isl i).heldBanks →
    Does (.handoverComplete i b) s fun d =>
      d.fld (offBANKOWN i b) 2 0 = h.owner.toNat ∧ (d.isl i).hand = (s.dev.isl i).hand.erase h ∧
      d.bit (offBANKOWN i b) 6 = ((s.dev.isl i).hand.erase h).any (fun x => x.bank == b.val) ∧
      (h.owner = 4 → s.dev.fld (offBANKOWN i b) 2 0 ≠ 4 →
        (d.isl i).saved.getD' b 0 = BitVec.ofNat 3 (s.dev.fld (offBANKOWN i b) 2 0))) ∧
  (∀ (s : State) (v : View) (i : IslandId) (b : BankId) (o : BitVec 3), ByCustody v (offBANKOWN i b) s → o ≠ 7 →
    Lands (.forcedHandover v i b o) s fun d =>
      d.fld (offBANKOWN i b) 2 0 = o.toNat ∧ d.bit (offBANKOWN i b) 6 = (s.dev.isl i).heldBanks.contains b.val ∧
      (d.isl i).hand = (s.dev.isl i).hand.filter (fun x => x.bank != b.val) ∧
      (¬ (o = 1 ∧ s.dev.bit (offBANKOWN i b) 6 = true) → ∀ c, c / 8 = i.val → ∀ e ∈ (d.core c).sbuf, ∀ x ∈ e.cells,
        inBankCell i b e.block x.1 = false)) ∧
  (∀ (s : State) (v : View) (i : IslandId) (b : BankId) (x : Reg),
    let off := offBANKREP i b
    let put (hi lo : Nat) (y : Nat) : Nat := setBits y hi lo (bitsOf x.toNat hi lo)
    let new := put 13 8 (put 15 15 (put 21 16 (put 23 23 (s.dev.rd off))))
    let ok := ((now s).wr off new).repairsOn (i.val / 6) ≤ 16 ∧ bitsOf new 13 8 ≤ 39 ∧ bitsOf new 21 16 ≤ 39
    ByCustody v off s →
    Lands (.bankrepWrite v i b x) s fun d => (ok → d.rd off = new) ∧ (¬ ok → d.rd off = s.dev.rd off))

namespace Sys2Proof.Claims

/-- Island `i`'s engine works on context `x`, which is `g`, with the descriptor `w` fetched, going on and not cancelled (R260, R284). -/
def Streams (i x : Nat) (g : GeyCtx) (w : List Word) (kind : Nat) (d : Dev) : Prop :=
  d.geyLive i = true ∧ (d.isl i).running = some x ∧ d.ctx i x = some g ∧ g.desc = some w ∧ g.ending = none ∧ g.cancel = false ∧
  dKind w = kind

/-- The records of a merge up to a point where the engine may turn to another context (R278, R260). -/
def Merges (i x : Nat) (w : List Word) : Nat → Dev → Dev → Prop
  | 0, d, d' => d' = d
  | n + 1, d, d' => Gives (mergeOne i x w) d true d' ∨ ∃ d1, Gives (mergeOne i x w) d false d1 ∧ Merges i x w n d1 d'

/-- A context after its descriptor `w`: at its end, or at the next descriptor's first element (R263, R275). -/
def nextDesc (g : GeyCtx) (w : List Word) : GeyCtx :=
  if dLast w then { g with ending := some 5 }
  else
    let g := (((((((g.setWord 1 ((g.word 1 + 128) % 2 ^ 36)).setWord 2 0).setWord 11 0).setWord 12 0).setWord 13 0).setWord 14 0).setWord 15 0)
    { g with desc := none, xpos := 0, dpos := 0, overlay := [], descNo := g.descNo + 1, ext := [], accDone := false, cover := 0 }

/-- The accumulator of descriptor `w` of context `x`, which is `g`, is in its place: it was before, or is put there now (R286). -/
def Reduced (i x : Nat) (g : GeyCtx) (w : List Word) (d d' : Dev) : Prop :=
  (g.accDone = true ∧ d' = d) ∨
  (g.accDone = false ∧ ∃ d1, Gives (putAcc i x g w) d () d1 ∧ d' = d1.updCtx i x fun g => { g with accDone := true, ext := [] })

/-- Descriptor `w` of context `x` ends: with NOTE 1 its STATE 2 is reported first; a descriptor that is not the last is followed by a
switch point (R260, R261, R275). -/
def DescEnds (i x : Nat) (w : List Word) (d d' : Dev) : Prop :=
  ∃ d1, (if dNote w = true then d.geyReport i x 2 = (d1, true) else d1 = d) ∧
    d' = (d1.updCtx i x fun g => nextDesc g w).updIsl i fun y => { y with slice := 0, edge := !dLast w }

/-- A post of a STOP descriptor is awaited (R287). -/
def StopWaits (g : GeyCtx) (w : List Word) : Prop := dStop w = true ∧ 2 ≤ dSmode w ∧ dSmode w ≤ 3 ∧ g.posts ≠ []

/-- Elements that descriptor `w` of context `g` has left. -/
def Left (g : GeyCtx) (w : List Word) : Prop := g.next < dN w

/-- Context `x` of island `i` has come to element `n`, and the engine has counted `k` elements more than in `d` (R280, R290). -/
def Came (i x n k : Nat) (d d' : Dev) : Prop :=
  (∃ g, d'.ctx i x = some g ∧ g.next = n) ∧ d'.rd (offGYELEM i) = (d.rd (offGYELEM i) + k) % 2 ^ 64

end Sys2Proof.Claims

open Sys2Proof.Claims

/-- The engine fetches and checks a descriptor, or errs by its first wrong field; commits element by element; forms runs and merges them;
ends a descriptor when every element has committed, and a fence when its posts are acknowledged, with a report when NOTE is 1; reports the
end of a program, STATE 6 when it was cancelled by then, and frees its context; and turns to the next queued context at a switch point
(R260, R261, R263, R266, R275 to R278, R280, R284, R287). -/
def Obligations.StreamsAdvance : Prop :=
  (∀ (s : State) (i : IslandId) (x : Nat) (g : GeyCtx) (loc : MemLoc) (cs : List Cell) (d1 d2 : Dev),
    let rep : Rep := { opnd := 8, seg := g.pseg, off := g.word 1 }
    let d0 := match (s.dev.isl i).running, (s.dev.isl i).order with
      | none, n :: t => (now s).updIsl i fun y => { y with running := some n, order := t, slice := 0, edge := false }
      | _, _ => now s
    (now s).geyLive i = true → (d0.isl i).running = some x → d0.ctx i x = some g → g.ending = none → g.desc = none → g.cancel = false →
    s.dev.geyStores i = false →
    Gives (geyAccess i g .read false rep 128) (d0.updIsl i fun y => { y with edge := false }) loc d1 → Gives (geyRead i x g true rep loc) d1 cs d2 →
    exec (.descriptorCheck i) s = .next (withDev s (d2.updCtx i x fun h =>
      match descFault g.segs ((g.segs.getD' g.pseg {}).base' + g.word 1) (cellsWords cs) with
      | none => { h with desc := some (cellsWords cs), ext := [] }
      | some c => (h.setFault (8 * 2 ^ 32 + 4 * 2 ^ 28 + c * 2 ^ 24) 0 0 0).ends 3 h.next h.next))) ∧
  (∀ (s : State) (i : IslandId) (x : Nat) (g : GeyCtx) (w : List Word) (d1 : Dev), Streams i x g w 0 (now s) → Left g w →
    ¬ StopWaits g w → Gives (streamElem i x g w) (now s) () d1 →
    exec (.elementCommit i) s = .next (withDev s d1) ∧ Came i x (g.next + 1) 1 s.dev d1) ∧
  (∀ (s : State) (i : IslandId) (x : Nat) (g : GeyCtx) (w : List Word) (d1 : Dev), Streams i x g w 1 (now s) → Left g w →
    Gives (formRun i x g w) (now s) () d1 →
    exec (.runFormation i) s = .next (withDev s d1) ∧
      let n := Nat.min (dRunlen w) (dN w - g.next)
      Came i x (g.next + n) n s.dev d1) ∧
  (∀ (s : State) (i : IslandId) (x : Nat) (g : GeyCtx) (w : List Word) (d1 : Dev), Streams i x g w 2 (now s) → Left g w →
    Merges i x w (2 * dRunl w) (now s) d1 → exec (.mergePass i) s = .next (withDev s d1)) ∧
  (∀ (s : State) (i : IslandId) (x : Nat) (g : GeyCtx) (w : List Word) (d1 d2 : Dev), Streams i x g w (dKind w) (now s) → dKind w ≠ 3 →
    ¬ Left g w → ¬ StopWaits g w → Reduced i x g w (now s) d1 → DescEnds i x w d1 d2 →
    exec (.descriptorEnd i) s = .next (withDev s d2)) ∧
  (∀ (s : State) (i : IslandId) (x : Nat) (g : GeyCtx) (w : List Word) (d1 d2 : Dev), Streams i x g w 3 (now s) → g.posts = [] →
    (dTwin w = true → s.dev.twinHas g.lastSeq = true) → Reduced i x g w (now s) d1 → DescEnds i x w d1 d2 →
    exec (.geyserFence i) s = .next (withDev s d2)) ∧
  (∀ (s : State) (i : IslandId) (x : Nat) (g : GeyCtx) (st : BitVec 4) (d1 : Dev),
    let late : Bool := g.cancel && !(st == 6) && !(st == 7)
    let e : BitVec 4 := if late then 6 else st
    let h := if late then (g.setFault 0 0 0 0).ends 6 g.next g.next else g
    let d0 := if late then (now s).setCtx i x h else now s
    (now s).geyLive i = true → (s.dev.isl i).running = some x → s.dev.ctx i x = some g → g.ending = some st →
    (st ≠ 7 → g.posts = [] ∧ s.dev.geyStores i = false) → Gives (scbWrite i x e.toNat h) d0 () d1 →
    Does (.programEnd i) s fun d => (d.isl i).running = none ∧
      if e = 5 ∨ e = 6 then d.ctx i x = none
      else ∃ y, d.ctx i x = some y ∧ y.st = e ∧ y.ending = none ∧ y.desc = none) ∧
  (∀ (s : State) (i : IslandId) (x n : Nat) (t : List Nat) (g : GeyCtx),
    (now s).geyLive i = true → (s.dev.isl i).running = some x → s.dev.ctx i x = some g → g.ending = none → g.det = false →
    switchPoint (s.dev.isl i) g = true → (s.dev.isl i).order = n :: t →
    exec (.contextSwitch i) s = .next (withDev s ((now s).updIsl i fun y =>
      { y with running := some n, order := t ++ [x], slice := 0, edge := false })))

/-- A page move that nothing has barred since it was chosen takes a target, or asks its peer for one, within its budget; its copy done,
everything that names the page is rewritten and its invalidations go to every island; it ends, once they are applied and no access is on
its way to the source, and is counted; one that must be abandoned before step 4 leaves and is counted (R358, R360, R362, R371, R373). -/
def Obligations.PagesMove : Prop :=
  (∀ (s : State) (k : Nat) (m : Move),
    let c := s.dev.cal
    let d0 : Dev := { now s with cal := { c with waiting := c.waiting.erase m } }
    let m' := { m with begun := s.fum.time, held := s.dev.namerWords m }
    s.dev.active = true → (c.waiting.find? fun m => !s.dev.frozen m.world) = some m →
    ((upto 8).find? fun k => (c.moves.find k).isNone) = some k → (c.moves.filter fun x => decide (x.1 < 8)).length ≤ s.dev.fld offCLBUD 12 10 →
    c.begun < s.dev.fld offCLBUD 9 0 → (m.pool ≠ none → c.poolBegun < s.dev.fld offCLBUD 23 16) → s.dev.noticeWaits = false →
    d0.mayMove m = true →
    (∀ n, m.pool = none → d0.pick (d0.targets m) = some n → Does .pageMoveStart s fun d =>
      d.cal.waiting = c.waiting.erase m ∧ d.cal.begun = c.begun + 1 ∧ d.cal.poolBegun = c.poolBegun ∧
      d.cal.moves.find k = some { m' with target := n, step := 2 }) ∧
    (∀ p, m.pool = some p → (s.dev.windowTo p).isSome = true → Does .pageMoveStart s fun d =>
      d.cal.waiting = c.waiting.erase m ∧ d.cal.begun = c.begun + 1 ∧ d.cal.poolBegun = c.poolBegun + 1 ∧
      d.cal.moves.find k = some { m' with target := 0, step := 1 } ∧
      ((d.peers.getD' p {}).unacked.map (·.2)).getLast? = some (.pageAsk m.source))) ∧
  (∀ (s : State) (k : Fin 8) (m : Move), s.dev.active = true → s.dev.cal.moves.find k.val = some m → m.step < 4 →
    let v : Inval := { core := none, kind := 0, world := m.world, space := 2, s2 := true, key := 0, page := m.back }
    if (now s).mustAbandon m = true then
      Does (.pageMoveCopyDone k) s fun d => d.cal.moves.find k.val = none
    else if m.step < 2 then exec (.pageMoveCopyDone k) s = .next (withDev s (now s))
    else Does (.pageMoveCopyDone k) s fun d =>
      d.cal.moves.find k.val = some { m with step := 5, copied := upto 32, peers := s.dev.mappers m } ∧
      ∀ i < 12, (d.isl i).inv = (s.dev.isl i).inv ++ (if m.kind = 3 then [v, { v with kind := 3 }] else [v])) ∧
  (∀ (s : State) (k : Fin 8) (m : Move), s.dev.cal.moves.find k.val = some m → 4 ≤ m.step → m.peers = [] →
    (∀ i ∈ s.dev.islands, ∀ v ∈ m.invals, v ∉ i.2.inv) → s.dev.frameBusy m.source = false →
    Does (.pageMoveFinish k) s fun d =>
      d.cal.moves.find k.val = none ∧ d.fld offCLSTAT 63 40 = (s.dev.fld offCLSTAT 63 40 + 1) % 2 ^ 24) ∧
  (∀ (s : State) (k : Fin 8) (m : Move), s.dev.cal.moves.find k.val = some m → m.step < 4 → (now s).mustAbandon m = true →
    Does (.moveAbandon k) s fun d => d.cal.moves.find k.val = none ∧
      d.fld offCLSTAT 39 32 = if s.dev.fld offCLSTAT 39 32 = 255 then 255 else s.dev.fld offCLSTAT 39 32 + 1)

/-- A sample joins Caldera's queue or is counted as lost; each window's end, when its time has come, takes every sample and starts new
counts; forwarding entries lapse; a new millisecond renews the budget (R353, R354, R358, R367, R373). A full read of CLMOVE takes the
oldest record, a shorter one none; CLFRZ stops the frozen worlds' moves before step 4; CLHTB written with V 1 gives every band the policy
of the band table (R372, R373, R514, R539). -/
def Obligations.CalderaCountsAndObeys : Prop :=
(∀ (s : State) (f : BitVec 32) (w : Bool) (n : Fin 13) (p : Fin 32), s.dev.active = true → s.dev.sampling = true → f.toNat < s.dev.frames →
    let c := s.dev.cal
    if c.samples.length < Config.sampleQueue then
      exec (.heatSample f w n p) s = .next (withDev s
        { now s with cal := { c with samples := c.samples ++ [{ frame := f.toNat, world := w, src := n, peer := p }] } })
    else Does (.heatSample f w n p) s fun d => d.cal = c ∧
      d.fld offCLSTAT 31 24 = if s.dev.fld offCLSTAT 31 24 = 255 then 255 else s.dev.fld offCLSTAT 31 24 + 1) ∧
  (∀ (s : State),
    let len := 64000 * 2 ^ s.dev.fld offCLCTL 10 8
    let due := (s.dev.cal.winAt / len + 1) * len
    (s.fum.time < due → exec .windowEnd s = .next (withDev s (now s))) ∧
    (s.dev.active = true → due ≤ s.fum.time →
      Does .windowEnd s fun d => d.cal.winAt = due ∧ d.cal.samples = [] ∧ d.cal.win = [] ∧
        d.cal.prevWin = ((now s).takeSamples s.dev.cal.samples.length).cal.win)) ∧
  (∀ (s : State) (c : CoreId),
    exec (.forwardingLapse c) s = .next (withDev s ((now s).updCore c fun k =>
      { k with fwd := k.fwd.filter fun f => decide (s.fum.time ≤ f.time + s.dev.fld offCLCTL 31 24 * 64000) }))) ∧
  (∀ (s : State), s.fum.time / 1000000 ≠ s.dev.cal.lastMs →
    exec .moveBudgetTick s = .next (withDev s
      { now s with cal := { s.dev.cal with lastMs := s.fum.time / 1000000, begun := 0, poolBegun := 0 } })) ∧
(∀ (s : State) (v : View) (n : Fin 9), n.val ≠ 0 → (now s).answers v offCLMOVE = true →
    Does (.clmoveRead v n) s fun d =>
      d.cal.clmove = (if n.val = 8 then s.dev.cal.clmove.drop 1 else s.dev.cal.clmove) ∧
      ∃ x : Reg, d.out = s.dev.out ++ [.mmioData x] ∧ (n.val = 8 → ∀ f ∈ [(63, 63), (55, 32), (25, 19), (18, 13), (12, 6), (5, 0)],
        bitsOf x.toNat f.1 f.2 = bitsOf (s.dev.cal.clmove.head?.getD 0).toNat f.1 f.2)) ∧
  (∀ (s : State) (v : View) (x : Reg), ByCustody v offCLFRZ s →
    Lands (.clfrzWrite v x) s fun d =>
      d.fld offCLFRZ 2 0 = bitsOf x.toNat 2 0 ∧
      ∀ k m, d.cal.moves.find k = some m → m.step < 4 → bitOf x.toNat (flagNat m.world) = false) ∧
  (∀ (s : State) (v : View) (x : Reg),
    let d0 := (now s).wr offCLHTB (2 ^ 63 + bitsOf x.toNat 31 0)
    ByCustody v offCLHTB s →
    Lands (.clhtbEnable v x) s fun d =>
      d.bit offCLHTB 63 = true ∧ d.fld offCLHTB 31 0 = bitsOf x.toNat 31 0 ∧
      ∀ b < s.dev.frames / 8, bitsOf (d0.band b) 9 8 ≠ 3 → d.bandPol.getD' b 0 = bitsOf (d0.band b) 9 8)

namespace Sys2Proof.Claims

/-- The completion that a descriptor finished with a status has (R395, R399). -/
def completion (e : QDesc) (status result detail pstat : Nat) (slot : Option (Nat × Nat)) : Comp :=
  { index := e.index, gen := e.gen, tag := BitVec.ofNat 32 e.tag, status := BitVec.ofNat 8 status, result := BitVec.ofNat 64 result,
    detail := BitVec.ofNat 16 detail, pstat := BitVec.ofNat 24 pstat, now := bitOf e.flags 1, slot := slot, batch := e.batch }

/-- A descriptor that waits for its completion to be written. -/
def ended (e : QDesc) : QDesc := { e with st := .done, data := [], ext := [] }

/-- Descriptors `l` with the one of `e`'s image slot replaced. -/
def replaced (e : QDesc) (l : List QDesc) : List QDesc := l.map fun f => if f.index = e.index then e else f

/-- A completion, waiting for the record of the last journaled write of its descriptor (R393). -/
def awaiting (x : Queue) (e : QDesc) (c : Comp) : Comp := { c with jseq := x.journaled.getD' e.index 0 }

/-- Descriptor `e` of queue `q` is finished with completion `c`, between `d` and `d'`. -/
def Finished (q : Nat) (e : QDesc) (c : Comp) (d d' : Dev) : Prop :=
  (d'.queue q).comps = (d.queue q).comps ++ [awaiting (d.queue q) e c] ∧ (d'.queue q).descs = replaced (ended e) (d.queue q).descs

/-- Descriptor `e` of queue `q` goes on as `f` and is not finished, between `d` and `d'`. -/
def Becomes (q : Nat) (e : QDesc) (d d' : Dev) : Prop :=
  (d'.queue q).comps = (d.queue q).comps ∧ (d'.queue q).descs = replaced e (d.queue q).descs

/-- A doorbell of queue `q` is heard: its function is open, and no reset of the queue is in progress (R385, R479). -/
def Heard (q : Nat) (d : Dev) : Prop :=
  (queueFn q = false → d.phase = 10) ∧ d.board.stopped = false ∧ d.board.linkUp = true ∧ d.rstBusy q = false

/-- What a register of QCFG's fields holds after a write of `x` that enables the queue, before EN rises (R383). -/
def qcfgNew (old x : Nat) : Nat :=
  let y := [(63, 63), (62, 62), (61, 61), (60, 60), (59, 58), (56, 52), (51, 47), (39, 32), (31, 24), (20, 12)].foldl
    (fun a f => setBits a f.1 f.2 (bitsOf x f.1 f.2)) old
  setBits (if bitsOf y 31 24 = 0 then setBits y 31 24 1 else y) 63 63 0

/-- Whether a descriptor fetched by queue `q` has not been delivered or finished. -/
def undelivered (e : QDesc) : Bool := e.st != .delivered && e.st != .done

end Sys2Proof.Claims

open Sys2Proof.Claims

/-- SQDB gives the new tail and CQDB the new head, a value out of range sets DBERR and changes neither, and a doorbell of a disabled
queue is logged (R386); a message masked is sent when its mask falls, and one owed when its time is over (R402). -/
def Obligations.DoorbellsAndMessages : Prop :=
  (∀ (s : State) (q : QueueId) (x : BitVec 32), Heard q (now s) → s.dev.bit (offQCFG q) 63 = false →
    let log (page : Nat) := (now s).logEvent 0x13 13 (flagNat (queueFn q)) 2 (0x1000 * (q.val % 256) + page) x.toNat
    exec (.sqDoorbell q x) s = .next (withDev s (log 0)) ∧ exec (.cqDoorbell q x) s = .next (withDev s (log 4))) ∧
  (∀ (s : State) (q : QueueId) (x : BitVec 32), Heard q (now s) → s.dev.bit (offQCFG q) 63 = true → s.dev.sqSize q ≤ 65536 →
    Does (.sqDoorbell q x) s fun d =>
      if x.toNat < s.dev.sqSize q then
        d.sqTail q = x.toNat ∧ (s.dev.board.dormant = true → (d.queue q).latched = true)
      else d.sqTail q = s.dev.sqTail q ∧ d.bit (offQSTAT q) 2 = true) ∧
  (∀ (s : State) (q : QueueId) (x : BitVec 32), Heard q (now s) → s.dev.bit (offQCFG q) 63 = true →
    let n := s.dev.cqSize q
    let h := (s.dev.queue q).cqh
    let w := (s.dev.queue q).cqw
    Does (.cqDoorbell q x) s fun d =>
      if x.toNat < n ∧ (x.toNat + n - h) % n ≤ (w + n - h) % n then (d.queue q).cqh = x.toNat
      else (d.queue q).cqh = h ∧ d.bit (offQSTAT q) 2 = true) ∧
  (∀ (s : State) (f : Bool) (v : Fin 512), v.val < msixSize f →
    let x := s.dev.fn f
    let e := x.table.getD' v.val (0, 0, true)
    Does (.msixUnmask f v) s fun d =>
      (d.fn f).table.getD' v.val (0, 0, true) = (e.1, e.2.1, false) ∧
      (v.val ∈ x.pba → x.msixMask = false → x.msixEnable = true → s.dev.fnReady f = true →
        v.val ∉ (d.fn f).pba ∧ d.out = s.dev.out ++ [.msix f v.val e.1 e.2.1])) ∧
  (∀ (s : State) (q : QueueId), 0 < (s.dev.queue q).owed →
    (s.dev.queue q).owedAt + 1000 * s.dev.fld (offQCFG q) 31 24 ≤ s.fum.time →
    exec (.coalesceTimeout q) s = .next (withDev s
      (((now s).setQueue q { s.dev.queue q with owed := 0 }).msix (queueFn q) (s.dev.fld (offQCFG q) 20 12))))

/-- A queue is enabled when every check passes, and else records the first that fails; a reset completes what was not delivered with
status 0x0D and, when nothing remains, returns the queue to its state before the enable (R384, R385). -/
def Obligations.QueuesAreEnabledAndReset : Prop :=
  (∀ (s : State) (v : View) (q : QueueId) (x : Reg),
    let d0 := (now s).wr (offQCFG q) (qcfgNew (s.dev.rd (offQCFG q)) (setBits x.toNat 63 63 1))
    let w := (d0.core (d0.fld (offQBIND q) 54 48)).wr (queueFn q)
    let i := d0.queueIsland q
    let off := d0.fld (offQIMG q) 35 0
    ByCustody v (offQCFG q) s → s.dev.bit (offQCFG q) 63 = false → s.dev.rstBusy q = false →
    (bitsOf x.toNat 46 40 = 0 ∧ bitsOf x.toNat 23 21 = 0 ∧ bitsOf x.toNat 11 0 = 0) →
    (d0.enableFields q ≠ 0 → Lands (.queueEnable v q x) s fun d =>
      d.fld (offQSTAT q) 15 8 = d0.enableFields q ∧ d.bit (offQCFG q) 63 = false ∧ d.qEnabled q = s.dev.qEnabled q) ∧
    (d0.enableFields q = 0 → ∀ cs segs d1 d2 d3, Gives (authLin i (queueFn q) w.pkr.toNat (d0.fld (offQSEGS q) 47 0) 32) d0 cs d1 →
      Gives (loadAuthority i (queueFn q) w 0 (cellsWords cs)) d1 segs d2 →
      Gives (checkImages q i (segs.getD' 0 {}) w.pkr.toNat off (d0.sqSize q) 0) d2 () d3 →
      Lands (.queueEnable v q x) s fun d =>
        if off % 128 = 0 then
          d.bit (offQCFG q) 63 = true ∧ d.qEnabled q = true ∧ d.fld (offQSTAT q) 63 16 = 0 ∧ (d.queue q).segs = segs ∧
          (d.queue q).pkr = w.pkr ∧ (d.queue q).phase = true ∧ (d.queue q).cqw = 0
        else d.fld (offQSTAT q) 15 8 = 7 ∧ d.bit (offQCFG q) 63 = false)) ∧
  (∀ (s : State) (v : View) (q : QueueId) (x : Reg), ByCustody v (offQCFG q) s → s.dev.bit (offQCFG q) 63 = true →
    ((s.dev.queue q).descs.map (·.index)).Nodup →
    Lands (.queueReset v q x) s fun d =>
      d.rstBusy q = true ∧ d.bit (offQCFG q) 63 = false ∧
      (d.queue q).descs = (s.dev.queue q).descs.map (fun e => if undelivered e then ended e else e) ∧
      (d.queue q).comps = (s.dev.queue q).comps ++
        ((s.dev.queue q).descs.filter undelivered).map fun e => awaiting (s.dev.queue q) e (completion e 0x0D 0 0 0 none)) ∧
  (∀ (s : State) (q : QueueId), s.dev.rstBusy q = true → (s.dev.queue q).descs = [] → (s.dev.queue q).comps = [] →
    Does (.queueResetDone q) s fun d =>
      d.rstBusy q = false ∧ d.qEnabled q = false ∧ d.fld (offQSTAT q) 63 16 = 0 ∧ (d.queue q).phase = true ∧ (d.queue q).cqw = 0 ∧
      (d.queue q).cqh = 0)

/-- A fetch reads the submission ring at SQHEAD, and its descriptors are taken in ring order into free image slots; one that could not be
read ends with 0x04, a wrong one with its status; NOP ends; WRITE and a batch POST ask the
host for their bytes; READ begins its conversion; STREAM starts its program under the queue's authority, or ends with 0x09 (R387, R389,
R390, R394, R395, R398). -/
def Obligations.DescriptorsStart : Prop :=
  (∀ (s : State) (q : QueueId) (bs : List (List Byte)),
    let d := now s
    let n := d.sqSize q
    let h := d.sqHead q
    let mk (k : Nat) (b : List Byte) : QDesc := { index := (h + k) % n, gen := d.qGen q, bytes := b, batch := d.batchNow }
    let es := (bs.zip (upto bs.length)).map fun x => mk x.2 x.1
    d.qFetches q = true → n ≤ 65536 → h < n → d.sqTail q < n → bs ≠ [] → bs.length ≤ (d.sqTail q + n - h) % n → h + bs.length ≤ n →
    bs.length * descSize (d.qGen q) ≤ 4096 → (∀ b ∈ bs, b.length = descSize (d.qGen q)) →
    (∀ e ∈ es, d.slotFree q e.index = true ∧ e.badStatus = 0) →
    Does (.descriptorFetch q bs.flatten true) s fun d' =>
      (d'.queue q).descs = (d.queue q).descs ++ es ∧ (d'.queue q).comps = (d.queue q).comps ∧ d'.sqHead q = (h + bs.length) % n ∧
      ∃ k rest, bs.length ≤ k ∧ h + k ≤ n ∧ k * descSize (d.qGen q) ≤ 4096 ∧
        d'.out = d.out ++ .hostRead (d.fld (offQSQB q) 63 12 * 4096 + descSize (d.qGen q) * h) (k * descSize (d.qGen q)) :: rest) ∧
  (∀ (s : State) (q : QueueId) (b : List Byte),
    let d := now s
    let e : QDesc := { index := d.sqHead q, gen := d.qGen q, bytes := b, batch := d.batchNow }
    d.qFetches q = true → d.sqTail q ≠ d.sqHead q → d.sqHead q < d.sqSize q → b.length = descSize (d.qGen q) →
    d.slotFree q e.index = true → e.badStatus ≠ 0 →
    Does (.descriptorFetch q b true) s fun d' =>
      (d'.queue q).comps = (d.queue q).comps ++ [awaiting (d.queue q) e (completion e e.badStatus 0 0 0 none)] ∧
      (d'.queue q).descs = (d.queue q).descs ++ [ended e]) ∧
  (∀ (s : State) (q : QueueId) (b : List Byte),
    let d := now s
    d.qFetches q = true → d.sqTail q ≠ d.sqHead q → d.sqHead q < d.sqSize q → d.sqSize q ≤ 65536 → d.slotFree q (d.sqHead q) = true →
    Does (.descriptorFetch q b false) s fun d' =>
      ∃ c, (d'.queue q).comps = (d.queue q).comps ++ [c] ∧ c.status = 4 ∧ c.index = d.sqHead q ∧
        d'.sqHead q = (d.sqHead q + 1) % d.sqSize q) ∧
  (∀ (s : State) (q : QueueId) (e : QDesc), s.dev.startable q 0 = some e →
    Does (.nopDescriptor q) s (Finished q e (completion e 0 0 0 0 none) s.dev)) ∧
  (∀ (s : State) (q : QueueId) (e : QDesc), s.dev.startable q 1 = some e → e.conv = 0 →
    Does (.writeDescriptor q) s fun d =>
      if e.len = 0 ∨ e.devlen = 0 then Finished q e (completion e 0 0 0 0 none) s.dev d
      else s.dev.fnReady (queueFn q) = true →
        Becomes q { e with st := .dma } s.dev d ∧ d.out = s.dev.out ++ [.hostRead e.addr (Nat.min e.len e.devlen)]) ∧
  (∀ (s : State) (q : QueueId) (e : QDesc), s.dev.startable q 2 = some e → (e.conv ≠ 0 → (s.dev.profile e.conv).ok true = true) →
    Does (.readDescriptor q) s fun d =>
      if e.len = 0 ∨ e.devlen = 0 then Finished q e (completion e 0 0 0 0 none) s.dev d
      else Becomes q { e with st := .converting } s.dev d ∧ d.out = s.dev.out) ∧
  (∀ (s : State) (q : QueueId) (e : QDesc), s.dev.startable q 5 = some e → s.dev.bound q = none →
    Does (.streamDescriptor q) s (Finished q e (completion e 9 0 0 0 none) s.dev)) ∧
  (∀ (s : State) (q : QueueId) (e : QDesc) (c n : Nat) (d1 : Dev), s.dev.startable q 5 = some e → s.dev.bound q = some (c, n) →
    Gives (startStream q e c n) (now s) () d1 →
    exec (.streamDescriptor q) s = .next (withDev s d1) ∧
      ∃ f ∈ (d1.queue q).descs, f.index = e.index ∧ (f.st = .streaming ∨ f.st = .done))

/-- Host bytes that have come are put into cells under profile 0, byte by byte, or record by record under another profile; cells are
sent to the host likewise; the transfer ends with its status, 0x06 when the other side was shorter, 0x04 when the host failed, 0x08 at
cells that are lost (R390,
R394, R403 to R406). -/
def Obligations.TransfersConvert : Prop :=
  (∀ (s : State) (q : QueueId) (e : QDesc) (bs : List Byte) (ok : Bool),
    ((s.dev.queue q).descs.find? fun e => e.st == .dma) = some e → e.opc ≠ 2 →
    let n := s.dev.inBytes e
    Does (.hostDmaComplete q bs ok) s (Becomes q
      { e with st := .converting, data := bs.take n, status := if ok = true ∧ n ≤ bs.length then 0 else 4, result := (bs.take n).length }
      s.dev)) ∧
  (∀ (s : State) (q : QueueId) (e : QDesc) (bs : List Byte) (ok : Bool),
    ((s.dev.queue q).descs.find? fun e => e.st == .dma) = some e → e.opc = 2 → e.status ≠ 7 →
    Does (.hostDmaComplete q bs ok) s (Finished q e
      (if ok then completion e e.status.toNat e.result e.detail 0 none else completion e 4 bs.length 0 0 none) s.dev)) ∧
  (∀ (s : State) (q : QueueId) (e : QDesc) (d1 : Dev), s.dev.active = true →
    ((s.dev.queue q).descs.find? fun e => e.st == .converting) = some e → e.opc = 1 → e.conv = 0 →
    Gives (putCells q e ((e.data.zip (upto e.data.length)).map fun x => { off := x.2, val := x.1.toNat, full := false, mark := none }) 0)
      (now s) none d1 →
    Does (.conversionRecord q) s (Finished q e
      (if e.status ≠ 0 then completion e e.status.toNat e.result 0 0 none
       else if e.devlen < e.len then completion e 6 e.devlen 0 0 none else completion e 0 0 0 0 none) d1)) ∧
  (∀ (s : State) (q : QueueId) (e : QDesc) (cs : List CvCell) (d1 : Dev),
    let p := s.dev.profile e.conv
    s.dev.active = true → ((s.dev.queue q).descs.find? fun e => e.st == .converting) = some e → e.opc ≠ 2 → e.conv ≠ 0 →
    p.ok false = true → e.recNo < (cvRecords p e false).1 → (e.recNo + 1) * p.hrec ≤ e.data.length →
    cvRecordIn (now s) p ((e.data.drop (e.recNo * p.hrec)).take p.hrec) 0 p.fields = .ok cs →
    Gives (putCells q e (sortCells cs) (e.recNo * p.crec)) (now s) none d1 →
    Does (.conversionRecord q) s fun d => Becomes q { e with recNo := e.recNo + 1 } d1 d ∧
      d.fld offCVSTAT 63 32 = (d1.fld offCVSTAT 63 32 + 1) % 2 ^ 32) ∧
  (∀ (s : State) (q : QueueId) (e : QDesc) (ps : List PLoc) (cs : List Cell) (d1 d2 : Dev), s.dev.active = true →
    ((s.dev.queue q).descs.find? fun e => e.st == .converting) = some e → e.opc = 2 → e.conv = 0 →
    Gives (authMany q .read e.ent 0 (fromN e.off (Nat.min e.len e.devlen))) (now s) (ps, none) d1 →
    d2.silentQueues = false → d2.fnReady (queueFn q) = true →
    (∀ x : Exc, x.vec = 41 → Gives (authRead q e ps) d1 (cs, some x) d2 → Does (.conversionRecord q) s fun d =>
      if cs = [] then Finished q e (completion e 8 0 0 0 none) d2 d
      else Becomes q { e with st := .dma, data := cs.map fun c => BitVec.ofNat 8 c.toNat, status := 8, result := 0, detail := 0, ext := [] }
          d2 d ∧ d.out = d2.out ++ [.hostWrite e.addr (cs.map fun c => BitVec.ofNat 8 c.toNat)]) ∧
    (cs ≠ [] → Gives (authRead q e ps) d1 (cs, none) d2 → Does (.conversionRecord q) s fun d =>
      Becomes q { e with st := .dma, data := cs.map fun c => BitVec.ofNat 8 c.toNat, status := if e.len < e.devlen then 6 else 0,
                         result := if e.len < e.devlen then e.len else 0, detail := 0, ext := [] } d2 d ∧
      d.out = d2.out ++ [.hostWrite e.addr (cs.map fun c => BitVec.ofNat 8 c.toNat)]))

/-- POST and MSG are delivered to the bound slot in their turn: the image slot, DLV and the doorbell event; QDONE finishes what was
delivered, with its status, PSTAT and DETAIL; a completion is written at the ring's index when nothing is left to wait for, the
acceptance of its journaled writes among it, and frees its image slot (R395 to R397, R399, R400, R402). -/
def Obligations.DescriptorsAreDeliveredAndDone : Prop :=
  (∀ (msg : Bool) (s : State) (q : QueueId) (e : QDesc) (b : Nat × Nat) (d1 : Dev), s.dev.active = true →
    (if msg then s.dev.startable q 4 = some e
     else ((s.dev.queue q).descs.find? fun e => e.opc == 3 && ((e.st == .ready && s.dev.mayDeliver q e) ||
        (e.st == .fetched && (s.dev.queue q).mayStart e && (!e.inline' || s.dev.mayDeliver q e)))) = some e ∧
       (e.st = .ready ∨ e.inline' = true)) →
    s.dev.mayDeliver q e = true → (e.inline' = true → badInline e = none) → s.dev.bound q = some b → Gives (putImage q e) (now s) none d1 →
    exec (if msg then .msgDescriptor q else .postDescriptor q) s = .next (withDev s
      (((d1.setDesc q { e with st := .delivered }).setFld (offQSTAT q) 31 16 ((e.index + 1) % d1.sqSize q)).ringSlot q))) ∧
  (∀ (s : State) (v : View) (q : QueueId) (x : Reg) (e : QDesc), ByCustody v (offQDONE q) s →
    ((s.dev.queue q).descs.find? fun e => e.index == bitsOf x.toNat 15 0 && e.st == .delivered) = some e →
    let st := bitsOf x.toNat 23 16
    let pstat := bitsOf x.toNat 47 24
    let det := bitsOf x.toNat 63 48
    Lands (.qdone v q x) s (Finished q e
      (if st = 0 ∧ e.status = 6 then completion e 6 e.result det pstat (s.dev.bound q)
       else completion e (if 1 ≤ st ∧ st < 0x80 then 0x0E else st) 0 det pstat (s.dev.bound q)) s.dev)) ∧
  (∀ (s : State) (v : View) (q : QueueId) (x : Reg), ByCustody v (offQDONE q) s →
    ((s.dev.queue q).descs.find? fun e => e.index == bitsOf x.toNat 15 0 && e.st == .delivered) = none →
    bitsOf x.toNat 15 0 ∉ (s.dev.queue q).ghosts →
    Lands (.qdone v q x) s fun d => d.bit (offQSTAT q) 1 = true ∧ d.queue q = s.dev.queue q) ∧
  (∀ (s : State) (q : QueueId) (c : Comp) (t : List Comp),
    let d := s.dev
    let x := d.queue q
    d.active = true → d.pair ≠ 5 → d.pair ≠ 6 → x.comps = c :: t → d.accepted c.jseq = true → (∀ b, c.slot = some b → ((d.core b.1).slot b.2).posts = 0) →
    (x.cqw + 1) % d.cqSize q ≠ x.cqh → d.silentQueues = false → d.fnReady (queueFn q) = true → c.entry = none →
    d.bit offSNJRNL 63 = false → d.pairWaits q c = false →
    let entry := c.bytes (d.sqHead q) x.phase
    let w := (x.cqw + 1) % d.cqSize q
    Does (.completionWrite q) s fun d' =>
      (∃ rest, d'.out = d.out ++ .hostWrite (d.fld (offQCQB q) 63 12 * 4096 + entry.length * x.cqw) entry :: rest) ∧
      (d'.queue q).comps = t ∧ (d'.queue q).cqw = w ∧ (d'.queue q).phase = (if w = 0 then !x.phase else x.phase) ∧
      (d'.queue q).descs = x.descs.filter fun e => e.index != c.index)

/-- The cell window writes bytes into bits 7:0 of local cells and keeps their marks, and reads them back, and refuses every access before
ledger ready; a completed host read answers
the core's oldest one; a function-level reset clears its queues and its function; the link retrains; SPDM answers with the
measurements; configuration space answers with its identity (R377 to R381, R385, R374, R375, R479, R492, R493, R521). -/
def Obligations.HostRequestsAreAnswered : Prop :=
  (∀ (s : State) (o : BitVec 36) (bs : List Byte) (ps : List PLoc) (d1 d2 : Dev), s.dev.active = true → s.dev.board.linkUp = true →
    s.dev.bit offCWBASE 63 = true → s.dev.phase = 10 →
    Gives (windowPages .write (pageChunks (bs.length + 1) 0 ((s.dev.fld offCWBASE 35 0 * 4096 + o.toNat) % 2 ^ 48) bs.length)) (now s)
      (some ps) d1 →
    d1.postQueued ps = false →
    Gives (authWrite false 0 (fun _ => false) (runsBy 4096 (ps.zip ((ps.zip bs).map fun x =>
      BitVec.ofNat 9 ((d1.cell x.1).toNat / 256 * 256 + x.2.toNat))))) d1 () d2 →
    exec (.cellWindowWrite o bs) s = .next (withDev s d2)) ∧
  (∀ (s : State) (o : BitVec 36) (n : Nat) (ps : List PLoc) (d1 : Dev), s.dev.active = true → s.dev.board.linkUp = true →
    s.dev.bit offCWBASE 63 = true → s.dev.phase = 10 →
    Gives (windowPages .read (pageChunks (n + 1) 0 ((s.dev.fld offCWBASE 35 0 * 4096 + o.toNat) % 2 ^ 48) n)) (now s) (some ps) d1 →
    d1.postQueued ps = false →
    let d := d1.readLines ps
    exec (.cellWindowRead o n) s = .next (withDev s (d.send
      (.cwData ((d.cells ps).map fun c => BitVec.ofNat 8 c.toNat) (ps.any fun p => d.poisoned p || d.bankDead p.addr))))) ∧
  (∀ (s : State) (o : BitVec 36) (bs : List Byte) (n : Nat), s.dev.board.linkUp = true → s.dev.phase ≠ 10 →
    exec (.cellWindowWrite o bs) s = .next (withDev s (((now s).addSat offCWSTAT 31 0 1).logEvent 0x15 13 0 0 0 0)) ∧
    exec (.cellWindowRead o n) s = .next (withDev s ((((now s).addSat offCWSTAT 63 32 1).logEvent 0x15 13 0 0 0 0).send .cwAbort))) ∧
  (∀ (s : State) (c : CoreId) (bs : List Byte) (ok : Bool) (a b : List ExtRead) (e : ExtRead),
    (s.dev.core c).ext = a ++ e :: b → (∀ x ∈ a, x.data = none → x.addr < hostWinBase) → e.data = none → hostWinBase ≤ e.addr →
    bs.length = e.n →
    exec (.hostReadCompletion c bs ok) s = .next (withDev s ((now s).updCore c fun k =>
      { k with ext := a ++ { e with data := some (bs.map fun x => BitVec.ofNat 9 x.toNat), poisoned := !ok } :: b }))) ∧
  (∀ (s : State) (f : Bool), Does (.functionLevelReset f) s fun d =>
    d.fn f = {} ∧ (∀ q ∈ queuesOf f, (d.queue q).descs = [] ∧ (d.queue q).comps = [] ∧ d.bit (offQCFG q) 63 = false ∧
      d.qEnabled q = false ∧ (d.queue q).ghosts = (s.dev.queue q).ghosts ++
        ((s.dev.queue q).descs.filter fun e => e.st == .delivered).map (·.index)) ∧
    (f = false → d.rd offCWBASE = 0 ∧ ∀ n < 1024, s.dev.bit (offISRC n) 60 = false →
      d.bit (offISRC n) 61 = false ∧ d.bit (offISRC n) 63 = false)) ∧
  (∀ (s : State) (r : LinkRate) (w : LinkWidth), s.dev.board.linkUp = true →
    exec (.linkRetrain r w) s = .next (withDev s { now s with board := { s.dev.board with rate := r, width := w } })) ∧
  (∀ (s : State) (t : Transport), s.dev.custodyUp = true → (t = .pcieVdm → s.dev.board.linkUp = true) →
    (Does (.spdmRequest t .getMeasurements 0xFF) s fun d => ∃ r : SpdmReply, d.out = s.dev.out ++ [.spdm t r] ∧ r.version = 0x12 ∧
      r.supported = true ∧ r.digests = (fromN 1 6).map s.digest) ∧
    ∀ p, Does (.spdmRequest t .unsupported p) s fun d => ∃ r : SpdmReply, d.out = s.dev.out ++ [.spdm t r] ∧ r.supported = false) ∧
  (∀ (s : State) (f : Bool) (r : CfgReq), s.dev.board.perst = false → s.dev.board.railsDropped = false → s.dev.board.thermtrip = false →
    s.dev.board.linkUp = false → exec (.configurationRequest f r) s = .next (withDev s ((now s).send .cfgRetry))) ∧
  (∀ (s : State) (f : Bool), s.dev.board.perst = false → s.dev.board.railsDropped = false → s.dev.board.thermtrip = false →
    s.dev.board.linkUp = true →
    exec (.configurationRequest f (.read .vendorId)) s = .next (withDev s ((now s).send (.cfgData 0x1C6B))) ∧
    exec (.configurationRequest f (.read .deviceId)) s = .next (withDev s ((now s).send (.cfgData (if f then 0x0937 else 0x0936)))) ∧
    ∀ x, exec (.configurationRequest f (.write .busMaster x)) s = .next (withDev s
      ((now s).setFn f { s.dev.fn f with busMaster := x.getLsbD 0 })))

namespace Sys2Proof.Claims

/-- The request that routing `v` of source `n` sends: none without EN, a level and a core (R221, R222). -/
def requestOf (n v : Nat) : List (Nat × IrqReq) :=
  if bitOf v 61 = true ∧ 1 ≤ bitsOf v 59 57 ∧ bitsOf v 48 42 < 96 then
    [(bitsOf v 48 42, { source := n, level := bitsOf v 59 57, vector := bitsOf v 56 49, world := bitOf v 60 })]
  else []

/-- The device has left `d` for pair state `st` in an epoch of its own, as a primary (R426, R440, R442). -/
def NewEpoch (st : Nat) (d d' : Dev) : Prop := d'.pair = st ∧ d'.roleStandby = false ∧ d'.epoch = (d.epoch + 1) % 2 ^ 32

/-- The device once every record received has been applied, as far as none waits (R440). -/
def Applied (d : Dev) : Dev := (d.updSn fun s => { s with promoting := true }).applyReceived

/-- A promotion of `d` (R440): ALONE in a new epoch once every record received is applied; until then it is still decided, and waits. -/
def Promotes (d d' : Dev) : Prop :=
  let a := Applied d
  if a.receivedWaits = true then d' = a
  else NewEpoch 3 a d' ∧ (a.bit offPLCFG 63 = true → d'.out.getLast? = some .announce)

/-- Command `i` completes at `s` with a next state that satisfies `P`; the commands that wait and the fuses stay. -/
def Ends' (i : Instr) (s : State) (P : State → Prop) : Prop :=
  ∃ t, exec i s = .next t ∧ t.pending = s.pending ∧ t.fuses = s.fuses ∧ P t

/-- Time base `f` steered to time `t` (R436, R502): forward at once, back by absorption. -/
def Steered (f f' : Fumarole) (t : Nat) : Prop :=
  if f.time ≤ t then f'.time = t else f'.time = f.time ∧ f'.absorb = (f.time - t) * 2 ^ 32

end Sys2Proof.Claims

open Sys2Proof.Claims

/-- An event or SWSET of a source sets PEND and sends the request once; a routing change sends a pending request afresh; LEVEL 7 is taken
by no source but the fault hub's, whose WORLD and LEVEL stay (R221, R222). -/
def Obligations.SourcesSendRequests : Prop :=
  (∀ (s : State) (n : SourceId), unitSource n = true → s.dev.inReset = false →
    if s.dev.bit (offISRC n) 63 = true then exec (.sourceEvent n) s = .next (withDev s (now s))
    else Does (.sourceEvent n) s fun d =>
      d.bit (offISRC n) 63 = true ∧ d.irqNet = s.dev.irqNet ++ requestOf n (s.dev.rd (offISRC n))) ∧
  (∀ (s : State) (v : View) (n : SourceId), ByCustody v (offISRC n) s →
    (s.dev.fld (offISRC n) 59 57 = 7 → 1008 ≤ n.val) →
    Lands (.swset v n) s fun d =>
      d.bit (offISRC n) 63 = true ∧
      d.irqNet = s.dev.irqNet ++ (if s.dev.bit (offISRC n) 63 then [] else requestOf n (s.dev.rd (offISRC n)))) ∧
  (∀ (s : State) (v : View) (n : SourceId) (x : Reg),
    let lev := if bitsOf x.toNat 59 57 = 7 then 0 else bitsOf x.toNat 59 57
    let new := if n.val < 1008 then setBits (bitsOf x.toNat 61 42) 17 15 lev
               else setBits (bitsOf x.toNat 61 42) 18 15 (s.dev.fld (offISRC n) 60 57)
    ByCustody v (offISRC n) s → bitsOf x.toNat 41 0 = 0 →
    Lands (.isrcRouteChange v n x) s fun d =>
      d.fld (offISRC n) 61 42 = new ∧
      (s.dev.bit (offISRC n) 63 = true → new ≠ s.dev.fld (offISRC n) 61 42 →
        d.irqNet = s.dev.irqNet.filter (fun r => r.2.source != n.val) ++ requestOf n (new * 2 ^ 42) ∧
        ∀ c, ∀ r ∈ (d.core c).reqs, r.source ≠ n.val) ∧
      (s.dev.bit (offISRC n) 63 = true → new = s.dev.fld (offISRC n) 61 42 → d.irqNet = s.dev.irqNet) ∧
      (s.dev.bit (offISRC n) 63 = false → bitOf x.toNat 62 = false → d.irqNet = s.dev.irqNet))

/-- JOIN takes both roles of a pair to JOINING, PROMOTE makes a standby primary, DEMOTE hands the role over when all is quiet, RESOLVE
and LEAVE end their states, and a command in another state is ignored (R417, R434, R439, R440, R444, R445, R451). -/
def Obligations.PairCommandsComplete : Prop :=
  (∀ (s : State) (v : View) (t : TwinId),
    let st := s.dev.pair
    let me := joinsAsPrimary st s.dev.roleStandby
    ByCustody v offSNCMD s → (st = 0 ∨ st = 3 ∨ st = 4 ∨ st = 6) → (s.dev.mode = 1 ∨ s.dev.mode = 2) → t.mode.toNat = s.dev.mode →
    me ≠ joinsAsPrimary t.state.toNat t.standby →
    Lands (.join v t) s fun d => d.pair = 1 ∧ d.bit offSNSTAT 26 = true ∧
      if me = true then
        d.epoch = (s.dev.epoch + 1) % 2 ^ 32 ∧
        d.out = s.dev.out ++ [.identity (BitVec.ofNat 32 s.dev.epoch) (s.dev.rd offSNSEQ) s.dev.journaled]
      else
        let n := t.nextSeq.toNat - 1
        d.roleStandby = true ∧ d.epoch = t.epoch.toNat ∧ d.sn.applied = n ∧ d.rd offSNSEQ = n ∧
        ∃ rest, d.out = s.dev.out ++ .identity t.epoch n s.dev.journaled :: rest) ∧
  (∀ (s : State) (v : View) (force : Bool), ByCustody v offSNCMD s → s.dev.roleStandby = true → s.dev.mode ≠ 3 →
    ((s.dev.pair = 2 ∧ ((now s).heartbeats = true ∨ (now s).edges = false ∨ force = true)) ∨
     (s.dev.pair = 4 ∧ (s.dev.bit offSNSTAT 25 = false ∨ force = true))) →
    let sends := s.dev.pair = 2 ∧ (now s).heartbeats = true
    Lands (.promote v force) s fun d => (s.dev.sn.rx = [] → NewEpoch 3 s.dev d) ∧
      (sends → ∃ rest, d.out = s.dev.out ++ .takeover s.dev.received :: rest)) ∧
  (∀ (s : State) (v : View), ByCustody v offSNCMD s → s.dev.roleStandby = false → s.dev.pair = 2 →
    (s.dev.mode = 1 → Lands (.demote v) s fun d =>
      if s.dev.quiet = true ∧ s.dev.rd offSNSEQ - 1 ≤ s.dev.rd offSNACK then
        d.roleStandby = true ∧ d.sn.demote = false ∧ d.out = s.dev.out ++ [.takeover (s.dev.rd offSNSEQ - 1)]
      else d.roleStandby = false ∧ d.sn.demote = true) ∧
    (s.dev.mode = 2 → Lands (.demote v) s fun d => d.roleStandby = false ∧ d.sn.demote = true ∧ d.sn.closing = true)) ∧
  (∀ (s : State) (v : View), ByCustody v offSNCMD s → s.dev.pair = 5 →
    Lands (.resolveContinue v) s (NewEpoch 3 s.dev) ∧
    Lands (.resolveYield v) s fun d => d.pair = 4 ∧ d.sn.sepEpoch = BitVec.ofNat 32 s.dev.epoch) ∧
  (∀ (s : State) (v : View), ByCustody v offSNCMD s → s.dev.pair ≠ 5 →
    Lands (.resolveContinue v) s (fun d => d.pair = s.dev.pair ∧ d.epoch = s.dev.epoch) ∧
    Lands (.resolveYield v) s fun d => d.pair = s.dev.pair ∧ d.sn = s.dev.sn) ∧
  (∀ (s : State) (v : View), ByCustody v offSNCMD s → (s.dev.pair = 2 ∨ s.dev.pair = 3 ∨ s.dev.pair = 4 ∨ s.dev.pair = 6) →
    Lands (.leave v) s fun d => d.pair = 0 ∧ d.board.ledgerOk = (s.dev.board.ledgerOk || s.dev.pair == 6))

/-- Sinter takes records in order into the ring and to the twin; the standby applies the next one and acknowledges; acknowledgements
release what waits; lines are copied to a joining twin until the pair is PAIRED; in lock mode descriptors are forwarded, batches closed
and their digests compared (R419, R422, R425, R427, R428, R431 to R434, R444). -/
def Obligations.RecordsFlow : Prop :=
  (∀ (s : State) (r : Record) (t : List Record), s.dev.active = true → s.dev.sn.net = r :: t → (now s).ringRoom r.seq.toNat = true →
    Does .recordHandover s fun d => d.sn.net = t ∧ (r.seq.toNat, s.fum.time) ∈ d.sn.young ∧
      (s.dev.sendsRecords = true → s.dev.mode ≠ 3 → d.out.getLast? = some (.record r)) ∧
      (s.dev.sendsRecords = true → s.dev.mode = 3 → d.sn.loop.getLast? = some r)) ∧
  (∀ (s : State) (r : Record) (d1 : Dev), s.dev.active = true → s.dev.mode ≠ 3 → s.dev.applies = true → s.dev.sn.rx = [] →
    r.seq.toNat = s.dev.sn.applied + 1 → r.epoch.toNat = s.dev.epoch → (now s).applyRecord r = some d1 →
    exec (.recordApply r) s = .next (withDev s (d1.applied r)) ∧ (d1.applied r).sn.applied = r.seq.toNat) ∧
  (∀ (s : State) (r : Record), s.dev.active = true → s.dev.mode ≠ 3 → s.dev.applies = true → s.dev.sn.rx = [] →
    s.dev.sn.applied + 1 < r.seq.toNat → exec (.recordApply r) s = .next (withDev s { now s with sn := { s.dev.sn with rx := [r] } })) ∧
  (∀ (s : State), (s.dev.applies = true ∨ s.dev.mode = 3) → s.dev.sn.ackedAt ≠ s.dev.sn.applied → s.dev.sn.ackTime + 1000 ≤ s.fum.time →
    exec .ackTimer s = .next (withDev s { now s with
      out := s.dev.out ++ [.twinAck s.dev.sn.applied], sn := { s.dev.sn with ackedAt := s.dev.sn.applied, ackTime := s.fum.time } })) ∧
  (∀ (s : State) (n : BitVec 64), s.dev.sendsRecords = true → s.dev.mode ≠ 3 → s.dev.rd offSNACK < n.toNat → n.toNat < s.dev.rd offSNSEQ →
    s.dev.sn.demote = false →
    Does (.twinAckReceive n) s fun d => d.rd offSNACK = n.toNat ∧ d.sn.unacked = s.dev.sn.unacked.filter fun u => decide (n.toNat < u.1)) ∧
  (∀ (s : State), s.dev.sendsRecords = true → s.dev.pair = 2 → (now s).lagging = true → s.dev.sn.lagSeen = false →
    exec .asyncLagExceeded s = .next (withDev s ({ now s with sn := { s.dev.sn with lagSeen := true } }.raise 261))) ∧
  (∀ (s : State), (s.dev.sn.net = [] ∨ s.dev.active = false) →
    exec .journalRecordAged s = .next (withDev s { now s with
      sn := { s.dev.sn with young := s.dev.sn.young.filter fun y => decide (s.fum.time ≤ y.2 + 1000000) } })) ∧
  (∀ (s : State) (l : BitVec 37),
    let a := l.toNat * 128
    s.dev.active = true → ((s.dev.roleStandby = false ∧ s.dev.pair = 1) ∨ s.dev.pair = 2) → s.dev.postQueued [s.dev.phys a] = false →
    s.dev.region a = .localMem →
    let d := (now s).lineRead (s.dev.phys a)
    exec (.lineCopyRequest l) s = .next (withDev s
      (d.send (.lineResponse l.toNat (d.cells (s.dev.physN a 128)) (d.lineInfo (s.dev.phys a)))))) ∧
  (∀ (s : State) (l : BitVec 37) (cs : List Cell) (x : LineInfo),
    let a := l.toNat * 128
    s.dev.active = true → s.dev.roleStandby = true → (s.dev.pair = 1 ∨ s.dev.pair = 2) → s.dev.heldFrame (s.dev.phys a) = false →
    s.dev.region a = .localMem → s.dev.cal.moves = [] → cs.length = 128 →
    Does (.lineCopyResponse l cs x) s fun d => d.cells (s.dev.physN a 128) = cs ∧ d.lineInfo (s.dev.phys a) = x) ∧
  (∀ (s : State), s.dev.pair = 1 → s.dev.sendsRecords = true → s.dev.mode ≠ 3 →
    let last := s.dev.sn.joinEnd.getD (s.dev.rd offSNSEQ - 1)
    Does .resyncComplete s fun d =>
      if last ≤ s.dev.rd offSNACK then d.pair = 2 ∧ d.epoch = (s.dev.epoch + 1) % 2 ^ 32
      else d.pair = 1 ∧ d.sn.joinEnd = some last) ∧
  (∀ (s : State) (q : QueueId) (i : BitVec 16) (b : List Byte),
    let e : QDesc := { index := i.toNat, gen := s.dev.qGen q, bytes := b, batch := s.dev.batchNow }
    s.dev.lockMode = true → s.dev.silentQueues = true → s.dev.qEnabled q = true → s.dev.rstBusy q = false → s.dev.slotFree q i.toNat = true →
    b.length = descSize (s.dev.qGen q) → i.toNat < s.dev.sqSize q → e.badStatus = 0 →
    Does (.forwardedDescriptor q i b) s fun d => (d.queue q).descs = (s.dev.queue q).descs ++ [e]) ∧
  (∀ (s : State), s.dev.lockMode = true → s.dev.sn.closing = false → s.dev.sn.peerDigests = [] →
    (s.dev.roleStandby = false → 4096 ≤ s.dev.sn.batchCount ∨ s.dev.sn.batchAt + 50000 ≤ s.fum.time) →
    Does .closeMarker s fun d =>
      (s.dev.roleStandby = false → (∃ rest, d.out = s.dev.out ++ .marker s.dev.sn.batch :: rest) ∧ d.sn.batchCount = 0 ∧
        d.sn.batchAt = s.fum.time) ∧
      if s.dev.batchDone = true then
        d.sn.closing = false ∧ d.sn.batch = s.dev.sn.batch + 1 ∧ d.sn.closed = s.dev.sn.closed ++ [(s.dev.sn.batch, s.dev.sn.digest)]
      else d.sn.closing = true) ∧
  (∀ (s : State) (n : Nat) (a x : BitVec 64) (t : List (Nat × BitVec 64)), s.dev.lockMode = true → s.dev.sn.closed = (n, a) :: t →
    s.dev.sn.peerDigests = [] → s.dev.sn.demote = false →
    Does (.batchDigest x) s fun d => d.sn.closed = t ∧
      if a = x then d.sn.matched = s.dev.sn.matched + 1 ∧ d.pair = s.dev.pair else d.pair = 5)

/-- Heartbeats and TWIN_ARB tell the twins of each other; a standby that loses both is promoted once what it has received is applied, one
that still sees edges stands alone, a primary goes on alone or is FENCED; a dying gasp promotes, a takeover frame changes roles, and a pool
hears of both; time follows the primary and the
pulse (R436 to R445, R451). -/
def Obligations.TwinsWatchEachOther : Prop :=
  (∀ (s : State), s.dev.active = true → s.dev.bit offSNSTAT 27 = true → s.dev.pair ∈ [1, 2, 3, 4, 5] → s.dev.mode ≠ 3 →
    s.dev.sn.hbAt + 2000 ≤ s.fum.time →
    exec .heartbeatSend s = .next (withDev s { now s with
      out := s.dev.out ++ [.heartbeat s.dev.roleStandby (BitVec.ofNat 32 s.dev.epoch)
        (if s.dev.isStandby then s.dev.rd offSNSEQ else s.dev.rd offSNSEQ - 1)], sn := { s.dev.sn with hbAt := s.fum.time } })) ∧
  (∀ (s : State) (sb : Bool) (e : BitVec 32) (n : BitVec 64) (t : Nat), s.dev.bit offSNSTAT 27 = true → s.dev.pair ∈ [1, 2, 3, 4, 5] →
    Ends' (.heartbeatReceive sb e n t) s fun s' => s'.dev.sn.lastHb = s.fum.time ∧
      (if s.dev.roleStandby = true ∧ sb = false ∧ s.dev.pair ≤ 2 then Steered s.fum s'.fum t else s'.fum = s.fum) ∧
      (s.dev.roleStandby = false → sb = false → laterEpoch e.toNat s.dev.epoch = true → s.dev.pair ≠ 4 →
        s'.dev.pair = 6 ∧ s'.dev.board.ledgerOk = false)) ∧
  (∀ (s : State), s.dev.roleStandby = false → s.dev.pair ∈ [1, 2, 3, 5] → s.dev.mode ≠ 3 →
    (s.dev.active = true → s.dev.sn.arbAt + 5000 ≤ s.fum.time → exec .twinArbToggle s = .next (withDev s { now s with
      out := s.dev.out ++ [.arb (!s.dev.sn.arbLow)], sn := { s.dev.sn with arbLow := !s.dev.sn.arbLow, arbAt := s.fum.time } })) ∧
    (s.dev.sn.arbAt + 1000 ≤ s.fum.time →
      exec (.twinArbSample s.dev.sn.arbLow) s = .next (withDev s (((now s).setBit offSNSTAT 26 false).raise 263)))) ∧
  (∀ (s : State), s.dev.roleStandby = true →
    Does .twinArbEdge s fun d => d.bit offSNSTAT 25 = true ∧ d.sn.lastEdge = s.fum.time) ∧
  (∀ (s : State), s.dev.sn.lastEdge + 30000 ≤ s.fum.time → Does .arbseenExpiry s fun d => d.bit offSNSTAT 25 = false) ∧
  (∀ (s : State), s.dev.pair ∈ [1, 2] → s.dev.mode ≠ 3 → s.dev.sn.lastHb + 30000 ≤ s.fum.time →
    (s.dev.roleStandby = true → (now s).edges = true → Does .heartbeatTimeout s fun d => d.pair = 4) ∧
    (s.dev.roleStandby = true → (now s).edges = false → s.dev.pair = 2 → Does .heartbeatTimeout s (Promotes (now s))) ∧
    (s.dev.roleStandby = false → s.dev.bit offSNSTAT 26 = true → Does .heartbeatTimeout s (NewEpoch 3 s.dev)) ∧
    (s.dev.roleStandby = false → s.dev.bit offSNSTAT 26 = false →
      Does .heartbeatTimeout s fun d => d.pair = 6 ∧ d.board.ledgerOk = false)) ∧
  (∀ (s : State), s.dev.roleStandby = true → s.dev.pair = 2 → s.dev.mode ≠ 3 → Does .dyingGaspReceive s (Promotes (now s))) ∧
  (∀ (s : State) (n : BitVec 64), (s.dev.mode = 1 ∨ s.dev.mode = 2) →
    (s.dev.roleStandby = true → s.dev.pair = 2 → (s.dev.mode = 2 ∨ n.toNat ≤ s.dev.sn.applied) →
      Does (.takeoverFrameReceive n) s fun d => NewEpoch 2 s.dev d ∧ (s.dev.bit offPLCFG 63 = true → d.out.getLast? = some .announce)) ∧
    (s.dev.roleStandby = false → s.dev.pair ∈ [1, 2, 3] →
      Does (.takeoverFrameReceive n) s fun d => d.roleStandby = true ∧ d.pair = 1 ∧ d.sn.applied = n.toNat)) ∧
  (∀ (s : State) (up half : Bool), s.dev.inReset = false → Does (.twinLinkChange up half) s fun d =>
    d.bit offSNSTAT 27 = up ∧ (d.bit offSNSTAT 24 = true ↔ up = true ∧ (half = true ∨ ∃ n, .twinLane n ∈ s.dev.hub.fenced)) ∧ (up = true → d.sn.lastHb = s.fum.time)) ∧
  (∀ (s : State), s.dev.inReset = false → s.fum.time / 1000000000 ≠ s.dev.board.ppsAt →
    exec .ppsOutPulse s = .next (withDev s { (now s).send .pps with
      board := { s.dev.board with ppsAt := s.fum.time / 1000000000 } })) ∧
  (∀ (s : State), s.dev.fld offSNCFG 39 36 = 1 → ¬ (s.dev.roleStandby = true ∧ s.dev.pair ∈ [1, 2]) →
    Ends' .ppsInEdge s fun t => Steered s.fum t.fum ((s.fum.time + 500000000) / 1000000000 * 1000000000)) ∧
  (∀ (s : State) (p : Bool), (if p then s.dev.board.eth1 else s.dev.board.eth0) = true →
    exec (.ptpMessage p true) s = .next (withDev s ((now s).send (.ptpStamp p s.fum.time))))

namespace Sys2Proof.Claims

/-- Body `b` goes to peer `p` under the next sequence number, and awaits its acknowledgement (R448). -/
def Sends (p : Nat) (b : PoolBody) (d d' : Dev) : Prop :=
  let x := d.peers.getD' p {}
  d'.out = d.out ++ [d.frame p (x.txSeq + 1) x.rxSeq x.port b] ∧
  (d'.peers.getD' p {}).txSeq = x.txSeq + 1 ∧ (d'.peers.getD' p {}).unacked = x.unacked ++ [(x.txSeq + 1, b)]

/-- The device performs requests of pool peers (R443, R449, R452). -/
def Pooled (d : Dev) : Prop := d.active = true ∧ d.bit offPLCFG 63 = true ∧ d.pair ≠ 6

/-- `d` is the parity report of `u`, lasting, that finds `u` neither fenced nor about to be. -/
def Fresh (u : UnitRef) (d : Dev) : Prop := u ∉ d.hub.fenced ∧ ∀ l ∈ d.hub.lasting, l.1 ≠ u

/-- Transients of this millisecond (R454). -/
def transients (s : State) : List UnitRef := if s.dev.hub.transMs = s.fum.time / 1000000 then s.dev.hub.trans else []

/-- Entry `n` of the error log is its newest (R461). -/
def Newest (d : Dev) (n : Nat) : Prop :=
  n < 256 ∧ d.bit (offELOG n 0) 63 = true ∧
  ∀ m < 256, (d.fld offFHSTAT 7 0 + 255 - m) % 256 < (d.fld offFHSTAT 7 0 + 255 - n) % 256 → d.bit (offELOG m 0) 63 = false

end Sys2Proof.Claims

open Sys2Proof.Claims

/-- A device in a pool performs far reads, writes and postings in its export range, refuses the others, and performs no posting twice;
drops unprotected frames while MSREQ is 1; takes each datagram once and acknowledges it; resends after 20 µs, on the other port while its
link is up; follows a promotion announcement in CUR, and moves traffic off a failed port (R446 to R450, R453, R457). -/
def Obligations.PoolServes : Prop :=
  (∀ (s : State) (p : Fin 32) (c : CoreId) (a : BitVec 38) (n : Nat),
    let ps := s.dev.physN a.toNat n
    Pooled s.dev →
    (s.dev.exported a.toNat n = true → s.dev.postQueued ps = false →
      let d1 := (now s).readLines ps
      Does (.farRequest p (.read c a n)) s fun d =>
        Sends p (.readData c (d1.cells ps) (ps.any d1.poisoned)) d1 d ∧ d.mem = d1.mem) ∧
    (s.dev.exported a.toNat n = false →
      Does (.farRequest p (.read c a n)) s fun d => Sends p (.readData c (List.replicate n 0) true) s.dev d ∧ d.mem = s.dev.mem)) ∧
  (∀ (s : State) (p : Fin 32) (a : BitVec 38) (cs : List Cell),
    let ps := s.dev.physN a.toNat cs.length
    Pooled s.dev →
    (s.dev.exported a.toNat cs.length = true → s.dev.postQueued ps = false →
      exec (.farRequest p (.write a cs)) s =
        .next (withDev s (((now s).writeLoc { cells := ps } cs 14 none).poolEvent p a.toNat)) ∧
      exec (.farRequest p (.field a cs)) s =
        .next (withDev s (((now s).writeLoc { cells := ps } (keepMarks (s.dev.cells ps) (cs.map fun c => c.toNat % 256)) 14 none).poolEvent
          p a.toNat)) ∧
      ∀ x, exec (.farRequest p (.line a cs x)) s =
        .next (withDev s (((now s).lineWrite ps cs 14 none).setInfo (s.dev.phys a.toNat) x))) ∧
    (s.dev.exported a.toNat cs.length = false → ∀ x, ∀ r ∈ [.write a cs, .field a cs, .line a cs x],
      exec (.farRequest p r) s = .next (withDev s ((now s).logEvent 0x1B 11 14 1 a.toNat 0)))) ∧
  (∀ (s : State) (p : Fin 32) (a : BitVec 38) (op : BitVec 4) (ty : BitVec 2) (dsm : Bool) (x y : List Cell) (jr : Bool)
      (tag : BitVec 16) (rnum : BitVec 22),
    let i : Instr := .farRequest p (.posting a op ty dsm x y jr tag rnum)
    let q : Posting := { id := rnum.toNat, who := .peer p rnum, op := op, ty := ty, dsm := dsm, x := x, y := y, loc := s.dev.phys a.toNat,
                         jr := jr, segtag := tag }
    let n := postCells ty.toNat
    Pooled s.dev →
    (s.dev.exported a.toNat n = true → s.dev.sn.farRnum.find p.val ≠ some rnum →
      Does i s fun d => d.postNet = s.dev.postNet ++ [q] ∧ d.sn.farRnum.find p.val = some rnum) ∧
    (s.dev.exported a.toNat n = true → s.dev.sn.farRnum.find p.val = some rnum →
      Does i s fun d => d.postNet = s.dev.postNet ∧ ∃ st old, Sends p (.postAck rnum.toNat st old) s.dev d) ∧
    (s.dev.exported a.toNat n = false → exec i s = .next (withDev s ((now s).logEvent 0x1B 11 14 1 a.toNat 0)))) ∧
  (∀ (s : State) (p : Fin 32) (seq ack : Nat) (b : PoolBody), s.dev.bit offPLCFG 57 = true →
    exec (.poolDatagram p seq ack (.unsecured b)) s = .next (withDev s (now s))) ∧
  (∀ (s : State) (p : Fin 32) (seq ack : Nat) (f : PoolBody),
    let secured := (frameBody f).1
    let b := (frameBody f).2
    let x := s.dev.peers.getD' p {}
    let rest := x.unacked.filter fun u => decide (ack < u.1)
    let d0 := (now s).poolAck p ack
    s.dev.active = true → s.dev.bit offPLCFG 63 = true → (secured = true ∨ s.dev.bit offPLCFG 57 = false) →
    (b = .ackOnly → Does (.poolDatagram p seq ack f) s fun d =>
      (d.peers.getD' p {}).unacked = rest ∧ d.out = s.dev.out) ∧
    (b ≠ .ackOnly → seq ≠ x.rxSeq + 1 → Does (.poolDatagram p seq ack f) s fun d =>
      (d.peers.getD' p {}).unacked = rest ∧ d.mem = s.dev.mem ∧ d.postNet = s.dev.postNet ∧
      d.out = s.dev.out ++ [s.dev.frame p 0 x.rxSeq x.port .ackOnly]) ∧
    (∀ d1, b ≠ .ackOnly → seq = x.rxSeq + 1 → (d0.updPeer p fun y => { y with rxSeq := seq }).poolBody p b = some d1 →
      exec (.poolDatagram p seq ack f) s = .next (withDev s
        (d1.send (d1.frame p 0 (d1.peers.getD' p {}).rxSeq (d1.peers.getD' p {}).port .ackOnly)))) ∧
    (b ≠ .ackOnly → seq = x.rxSeq + 1 → (d0.updPeer p fun y => { y with rxSeq := seq }).poolBody p b = none →
      exec (.poolDatagram p seq ack f) s = .next (withDev s d0))) ∧
  (∀ (s : State) (p : Fin 32) (n : Nat) (b : PoolBody) (t : List (Nat × PoolBody)),
    let x := s.dev.peers.getD' p {}
    x.unacked = (n, b) :: t → s.dev.active = true → x.sentAt + 20000 ≤ s.fum.time →
    Does (.poolResend p) s fun d => d.out = s.dev.out ++ [s.dev.frame p n x.rxSeq (s.dev.otherPort x.port) b] ∧
      (d.peers.getD' p {}).sentAt = s.fum.time ∧ (d.peers.getD' p {}).port = s.dev.otherPort x.port) ∧
  (∀ (s : State) (p : Fin 32), Does (.promotionAnnounce p) s fun d => ∀ w, 1 ≤ w → w ≤ 31 →
    let prim := s.dev.fld (offPLWIN w) 4 0
    let twin := s.dev.fld (offPLWIN w) 14 10
    let tv := s.dev.bit (offPLWIN w) 62
    let v := s.dev.bit (offPLWIN w) 63
    (v = true → tv = true → twin = p.val → prim ≠ p.val → d.bit (offPLWIN w) 61 = true) ∧
    (v = true → prim = p.val → (tv = true → twin ≠ p.val) → d.bit (offPLWIN w) 61 = false) ∧
    (v = false ∨ (prim ≠ p.val ∧ (tv = true → twin ≠ p.val)) → d.rd (offPLWIN w) = s.dev.rd (offPLWIN w))) ∧
  (∀ (s : State) (p up : Bool),
    let lost := ∃ l : Fin 8, .ethLane p l ∈ s.dev.hub.fenced
    s.dev.inReset = false →
    (up = true → lost → exec (.ethernetLinkChange p up) s = .next (withDev s (now s))) ∧
    (¬ (up = true ∧ lost) → Does (.ethernetLinkChange p up) s fun d =>
      (if p then d.board.eth1 else d.board.eth0) = up ∧ d.bit (offISRC (if p then 321 else 320)) 63 = true ∧
      (up = false → ∀ x ∈ d.peers, x.2.port ≠ p)))

/-- Ten bits of odd parity pass the check of a cell and are no error (R44); a parity error whose repeat succeeds is counted as a transient
until a unit passes its limit in a millisecond; any other is lasting: the unit stops, is then fenced with source 1008, and its recovery
ends with source 1009 in its time, 1010 beyond it; a core's fence empties its store buffer and reports its lost slots, an engine's stops
every context (R454 to R458, R461 to R464, R487). -/
def Obligations.FaultsAreFencedAndRecovered : Prop :=
(∀ (s : State) (u : UnitRef) (a : BitVec 44) (has : Bool) (got : BitVec 10) (ok : Bool),
    let i : Instr := .parityError u a has got ok
    let few := ok = true ∧ ((transients s).filter fun x => x == u).length < s.dev.fld offFHCFG 7 0
    let n := s.dev.fld offFHSTAT 47 16
    let passes := cellParity u = true ∧ ((upto 10).filter fun k => bitOf got.toNat k).length % 2 = 1
    s.dev.active = true →
    (passes → Does i s fun d => d.hub.lasting = s.dev.hub.lasting ∧ d.regs = s.dev.regs ∧ d.cores = s.dev.cores) ∧
    (¬ passes → few → Does i s fun d => d.hub.trans = transients s ++ [u] ∧ d.hub.lasting = s.dev.hub.lasting ∧
      d.fld offFHSTAT 47 16 = if n = 2 ^ 32 - 1 then n else n + 1) ∧
    (¬ passes → ¬ few → Fresh u s.dev → Does i s fun d =>
      (d.hub.lasting = s.dev.hub.lasting ++ match u with | .microWord _ => [] | _ => [(u, s.fum.time)]) ∧
      match u with
      | .core c => (d.core c).fenced = true
      | .bankColumn x b _ => b.val ∈ (d.isl x).heldBanks ∧ d.bit (offBANKOWN x b) 6 = true
      | .lines _ fs => ∀ f ∈ fs, f.toNat ∈ d.hub.held
      | .microWord c => (d.core c).microStall = true
      | _ => d.cores = s.dev.cores ∧ d.islands = s.dev.islands) ∧
    (¬ passes → ¬ few → ¬ Fresh u s.dev → Does i s fun d => d.hub.lasting = s.dev.hub.lasting ∧ d.hub.fenced = s.dev.hub.fenced)) ∧
  (∀ (s : State) (u : UnitRef) (t : Nat) (rest : List (UnitRef × Nat)), s.dev.active = true → s.dev.hub.lasting = (u, t) :: rest →
    Does .faultFence s fun d =>
      let fs := s.dev.hub.fenced ++ [u]
      d.hub.lasting = rest ∧
      (d.hub.fenced = match u with | .twinLane n => fs ++ (if .twinLane (n + 16) ∈ fs then [] else [.twinLane (n + 16)]) | _ => fs) ∧
      d.bit (offISRC 1008) 63 = true ∧
      (d.hub.recoveries = s.dev.hub.recoveries ++ if (now s).recovers u then [{ u := u, start := t, total := pathTotal u }] else []) ∧
      match u with
      | .core c => (d.core c).fenced = true ∧ (d.core c).sbuf = [] ∧ (d.core c).posts = [] ∧ d.bit (offISRC (768 + c)) 63 = true ∧
          ∀ n < 64, ((s.dev.core c).slot n).valid = true → ((s.dev.core c).slot n).res = true →
            bitOf (d.rd (offFHLOST c)) n = true
      | .geyser x => (d.isl x).running = none ∧ (d.isl x).order = [] ∧ (∀ g ∈ (d.isl x).ctxs, g.2.st = 7) ∧ d.bit (offGYCTL x) 0 = true ∧
          d.bit (offISRC (384 + 8 * x + 3)) 63 = true
      | .postingUnit p => d.bit (offPUSTAT p) 63 = true
      | .twinLane _ => d.bit offSNSTAT 24 = true
      | .ethLane p _ => (if p then d.board.eth1 else d.board.eth0) = false
      | .custodyCore => d.cust.lost = true ∧ d.bit offCUSTSTAT 10 = true ∧ d.bit (offISRC 1013) 63 = true
      | _ => True) ∧
  (∀ (s : State) (r : Recovery) (t : List Recovery) (d1 : Dev), s.dev.active = true → s.dev.hub.recoveries = r :: t →
    (now s).finishPath r.u = (d1, true) → d1.hub.recoveries = r :: t →
    Does .recoveryComplete s fun d => d.hub.recoveries = t ∧
      d.bit (offISRC (if s.fum.time ≤ r.start + r.total then 1009 else 1010)) 63 = true) ∧
  (∀ (s : State) (r : Recovery) (t : List Recovery), s.dev.active = true → s.dev.hub.recoveries = r :: t → r.start + r.total < s.fum.time →
    Does .recoveryOverBudget s fun d => d.hub.recoveries = t ∧ d.bit (offISRC 1010) 63 = true) ∧
  (∀ (s : State) (c : CoreId), (s.dev.core c).microStall = true →
    exec (.microwordReload c false) s = .next (withDev s ((now s).updCore c fun k => { k with microStall := false })) ∧
    (Fresh (.core c) s.dev → Does (.microwordReload c true) s fun d =>
      d.hub.lasting = s.dev.hub.lasting ++ [(.core c, s.fum.time)] ∧ (d.core c).microStall = false ∧ (d.core c).fenced = true))

/-- A report of KIND 0 or 2 that equals the newest valid entry of the error log adds one to its COUNT; any other, and every lasting
report, takes a new entry (R461). -/
def Obligations.LogEntriesMerge : Prop :=
  ∀ (d : Dev) (kind cls ut ux sp a x n : Nat),
    let key := 2 ^ 31 + kind * 2 ^ 29 + cls * 2 ^ 16 + ut * 2 ^ 12 + ux
    let same := d.fld (offELOG n 0) 63 32 = key ∧ d.fld (offELOG n 2) 47 0 = a
    let h := d.fld offFHSTAT 7 0
    kind < 3 → cls < 256 → cls ≠ 0x10 → ut < 16 → ux < 4096 → sp < 4 → a < 2 ^ 48 → x < 2 ^ 64 → Newest d n →
    (kind ≠ 1 → same → d.fld (offELOG n 0) 31 0 < 2 ^ 32 - 1 →
      (d.log kind cls ut ux sp a x).rd (offELOG n 0) = d.rd (offELOG n 0) + 1 ∧ (d.log kind cls ut ux sp a x).fld offFHSTAT 7 0 = h) ∧
    (kind = 1 ∨ ¬ same →
      (d.log kind cls ut ux sp a x).rd (offELOG h 0) = key * 2 ^ 32 + 1 ∧ (d.log kind cls ut ux sp a x).rd (offELOG h 3) = x ∧
      (d.log kind cls ut ux sp a x).fld offFHSTAT 7 0 = (h + 1) % 256)

namespace Sys2Proof.Claims

/-- Core `c` is as a reset leaves it: it runs slot 0 at RSTVEC with empty registers, buffers and lists (R494). -/
def Restarted (c : Nat) (s : State) (k : Core) : Prop :=
  k.pc = BitVec.ofNat 36 (s.dev.rd offRSTVEC) ∧ k.started = true ∧ k.csgen = s.dev.cust.gen ∧ k.cstat = 0o616000000000 ∧
  k.slots = ({} : Core).slots ∧ k.banks = [] ∧ k.sbuf = [] ∧ k.posts = [] ∧ k.beside = [] ∧ k.reqs = [] ∧ k.fenced = false ∧
  k.fwd = (s.dev.core c).fwd

/-- The start in progress is halted with code `e` (R480). -/
def Halted (e : Nat) (d : Dev) : Prop :=
  d.phase = 15 ∧ d.fld offCUSTSTAT 7 4 = e ∧ d.board.ledgerOk = false ∧ d.cust.starting = false ∧ d.active = false

/-- Nothing is left of device memory, cores, engines, queues and blocks (R493). -/
def Cleared (d : Dev) : Prop :=
  d.mem = [] ∧ d.info = [] ∧ d.cores = [] ∧ d.islands = [] ∧ d.pus = [] ∧ d.queues = [] ∧ d.locks = [] ∧ d.postNet = [] ∧ d.sn = {} ∧
  d.cal = {} ∧ d.hub = {} ∧ d.peers = []

/-- `d'` holds the field repairs that `d` has recorded (R475, R478). -/
def Repaired (d d' : Dev) : Prop :=
  ∀ i < 12, ∀ b < 16, ∀ v, d.cust.fieldLog.find (offBANKREP i b) = some v → d'.rd (offBANKREP i b) = v.toNat

end Sys2Proof.Claims

open Sys2Proof.Claims

/-- A cold start begins with everything cleared and the watchdog reloaded; each step of a start ends with its effect and in PHASE (step 6
of a cold start with the recorded field repairs, as log entry 139 has it), or halts the start with its code; a warm reset keeps memory,
the error log and the repairs; an island or core reset restarts its cores at RSTVEC and leaves the other islands alone; in reset no link
comes up and no unit raises its source; a rail drop leaves Fumarole's registers only; the time base starts at 0 when VAON powers up and is
lost with it (R478 to R481, R484, R485, R493 to R495, R502, R532). -/
def Obligations.ResetsAndStarts : Prop :=
  (∀ s : State, s.dev.board.railsDropped = true → s.fum.on = true →
    ∃ t, exec .coldStart s = .next t ∧ Cleared t.dev ∧ t.dev.regs = [] ∧ t.dev.cust.starting = true ∧ t.dev.board.perst = false ∧
      t.dev.board.railsDropped = false ∧ t.dev.board.ledgerOk = false ∧ t.fum = { s.fum with wdLeft := 64000000 } ∧ t.fuses = s.fuses) ∧
  (∀ (s : State) (p : Bool) (a b : ImageInfo),
    let i : Instr := .startStepComplete 0 p a b
    let n := s.dev.nextStep
    s.dev.cust.starting = true → s.dev.board.perst = false → s.dev.board.thermtrip = false →
    (n ∈ [1, 2, 6, 7, 8, 9, 10] → Does i s fun d => d.phase = n ∧
      (n = 2 → d.board.linkUp = !s.dev.board.clocks.contains .pcie) ∧
      (n = 6 → s.dev.cust.warm = false → Repaired s.dev d) ∧
      (n = 7 → d.mem = [] ∧ d.info = []) ∧
      (n = 8 → d.board.stopped = false ∧ (∀ c < 96, (d.core c).started = true ∧ (d.core c).pc = BitVec.ofNat 36 (s.dev.rd offRSTVEC)) ∧
        d.mem = s.dev.mem.filter fun x => decide (x.1 < 2 ^ 38)) ∧
      (n = 10 → d.board.ledgerOk = true ∧ d.cust.starting = false)) ∧
    (n = 3 → (a.readable = true ∨ b.readable = true) →
      Does i s fun d => d.phase = 3 ∧ d.cust.prefB = p ∧ d.cust.flashA = a ∧ d.cust.flashB = b) ∧
    (n = 3 → a.readable = false → b.readable = false → Does i s (Halted 2)) ∧
    (∀ c x, n = 4 → s.dev.chooseImage s.fuses = some (c, x) →
      Does i s fun d => d.phase = 4 ∧ d.bit offCUSTSTAT 11 = c ∧ d.fld offCUSTSTAT 23 12 = x.svn.toNat) ∧
    (n = 4 → imageOk s.fuses s.dev.cust.flashA = false → imageOk s.fuses s.dev.cust.flashB = false → Does i s (Halted 3)) ∧
    (n = 5 → s.dev.runningImage.patchTagOk = true →
      Does i s fun d => d.phase = 5 ∧ d.fld offCUSTSTAT 31 24 = s.dev.runningImage.plvl.toNat ∧ d.cust.gen = s.dev.runningImage.plvl) ∧
    (n = 5 → s.dev.runningImage.patchTagOk = false → Does i s (Halted 4))) ∧
  (∀ (s : State) (e : Fin 8) (p : Bool) (a b : ImageInfo), s.dev.cust.starting = true → s.dev.board.perst = false → s.dev.board.thermtrip = false → e ≠ 0 →
    errStep e = s.dev.nextStep → Does (.startStepComplete e p a b) s (Halted e)) ∧
  (∀ (s : State) (k : WarmCause), s.dev.board.railsDropped = false → (k = .perst ∨ s.dev.board.linkUp = true) →
    Does (.warmReset k) s fun d =>
      d.mem = s.dev.mem ∧ d.info = s.dev.info ∧ d.bandPol = s.dev.bandPol ∧ d.cores = [] ∧ d.islands = [] ∧ d.queues = [] ∧ d.pus = [] ∧
      d.sn = {} ∧ d.cal = {} ∧ d.hub = {} ∧ d.board.perst = true ∧ d.board.ledgerOk = false ∧ d.board.linkUp = false ∧ d.active = false ∧
      d.cust.starting = true ∧ (∀ n < 256, ∀ w < 4, d.rd (offELOG n w) = s.dev.rd (offELOG n w)) ∧
      (∀ n < 12, ∀ b < 16, d.rd (offBANKREP n b) = s.dev.rd (offBANKREP n b)) ∧ d.rd offFWD = s.dev.rd offFWD ∧
      d.rd offRSTVEC = s.dev.rd offRSTVEC ∧ 
      d.rd offSNSEQ = if s.dev.isStandby then (s.dev.sn.applied + 1) % 2 ^ 64 else s.dev.rd offSNSEQ) ∧
  (∀ s : State, s.dev.board.railsDropped = false →
    exec .warmStart s = .next (withDev s { now s with board := { s.dev.board with perst := false } })) ∧
  (∀ (s : State) (v : View) (m : BitVec 12), ByCustody v offISLRST s →
    Lands (.islandReset v m) s fun d => d.mem = s.dev.mem ∧
      (∀ i < 12, m.getLsbD i = true →
        (d.isl i).ctxs = [] ∧ (d.isl i).running = none ∧ (d.isl i).tlb = [] ∧ (d.isl i).wc = [] ∧ (d.isl i).ccache = [] ∧
        (d.isl i).fenced = false ∧ (d.isl i).atomics = (s.dev.isl i).atomics ∧
        ∀ c, c / 8 = i → (s.dev.core c).started = true → Restarted c s (d.core c) ∧ (d.core c).dtlb = []) ∧
      (∀ i < 12, m.getLsbD i = false → d.isl i = s.dev.isl i ∧ ∀ c, c / 8 = i → d.core c = s.dev.core c)) ∧
  (∀ (s : State) (v : View) (c : CoreId), ByCustody v offCORERST s →
    Lands (.coreReset v c) s fun d => d.mem = s.dev.mem ∧ d.islands = s.dev.islands ∧
      ((s.dev.core c).started = true → Restarted c s (d.core c)) ∧ (∀ j, j ≠ c.val → d.core j = s.dev.core j) ∧
      ∀ n < 64, ((s.dev.core c).slot n).valid = true → ((s.dev.core c).slot n).res = true → bitOf (d.rd (offFHLOST c)) n = true) ∧
  (∀ (s : State) (r : Rail), Does (.railDrop r) s fun d =>
    Cleared d ∧ d.active = false ∧ d.board.railsDropped = true ∧ d.board.ledgerOk = false ∧ r ∈ d.board.rails ∧
    d.rd offFWD = s.dev.rd offFWD ∧ ∀ off, fumReg off = false → d.rd off = regReset off) ∧
  (∀ (s : State) (up half p : Bool) (n : SourceId), s.dev.inReset = true →
    (Does (.twinLinkChange up half) s fun d => d.bit offSNSTAT 27 = false) ∧
    ∀ i ∈ [.ppsOutPulse, .sourceEvent n, .ethernetLinkChange p up], exec i s = .next (withDev s (now s))) ∧
  (∀ s : State, s.fum.on = false → exec .vaonPowerUp s = .next { s with fum := { time := 0, on := true } }) ∧
  (∀ s : State, ∃ t, exec .vaonRemoval s = .next t ∧ Cleared t.dev ∧ t.dev.regs = [] ∧ t.fum.on = false ∧ t.fum.time = 0 ∧
    t.fuses = s.fuses ∧ t.pending = s.pending)

namespace Sys2Proof.Claims

/-- Offset of the mailbox that a view reaches (R489, R513). -/
def mbOff (v : View) : Nat := if viewPf0 v then 0x21000 else offMBCMD

/-- The mailbox of view `v` answers, and the device is not dormant. -/
def Boxed (v : View) (s : State) : Prop := (now s).answers v (mbOff v) = true ∧ Calm s ∧ s.dev.board.dormant = false

/-- The mailbox is not busy. -/
def Free' (v : View) (s : State) : Prop := Boxed v s ∧ s.dev.bit (mbStat (viewPf0 v)) 17 = false

/-- The mailbox reports the end of the command with a tag, and its status (R489). -/
def Answers (led : Bool) (tag : Byte) (st : Nat) (d : Dev) : Prop :=
  d.bit (mbStat led) 17 = false ∧ d.bit (mbStat led) 16 = true ∧ d.fld (mbStat led) 15 8 = tag.toNat ∧ d.fld (mbStat led) 7 0 = st

/-- What STATUS puts into MBDATA (R490, R492): CUSTSTAT, then the digests of measurement blocks 1 to 6. -/
def statusBytes (s : State) : List Byte := natBytes 8 (s.dev.value offCUSTSTAT) ++ (fromN 1 6).flatMap fun k => natBytes 48 (s.digest k).toNat

end Sys2Proof.Claims

open Sys2Proof.Claims

/-- The mailboxes answer STATUS to both worlds and the other commands to custody only: a verified image goes to the copy not in use; a
microcode load reaches each core at a boundary; the blown SVN never falls; soft repair, debug unlock and the locks act when they may. The
test port refuses what debug locking closes; custody debug reads memory and banks; SPDM answers with the digests; configuration space
identifies the part (R479, R482, R486, R489 to R492, R506 to R509, R519, R521). -/
def Obligations.CustodyServes : Prop :=
  (∀ (s : State) (v : View) (tag : Byte), Free' v s →
    Lands (.mailboxStatus v tag) s fun d => Answers (viewPf0 v) tag 0 d ∧ ∀ k < (statusBytes s).length,
      (if viewPf0 v then d.cust.ledData else d.cust.hostData).getD' k 0 = (statusBytes s).getD k 0) ∧
  (∀ (s : State) (v : View) (tag : Byte), Boxed v s → s.dev.bit (mbStat (viewPf0 v)) 17 = true →
    Lands (.mailboxStatus v tag) s fun d => d = (now s).logIgnored (mbOff v) (tag.toNat * 256 + 1)) ∧
  (∀ (s : State) (v : View) (tag : Byte) (x : ImageInfo) (cb : Bool) (k : StackId) (ch : Fin 32) (row : Nat) (sn : Reg) (sl : Fin 4)
      (sg : Bool), Free' v s → viewPf0 v = true →
    ∀ i ∈ [.flashWrite v tag x, .mcLoad v tag cb, .fuseSvn v tag, .softRepair v tag k ch row, .debugUnlock v tag sn sl sg, .lockFields v tag],
      Lands i s fun d => Answers true tag 1 d ∧ d.cust = { s.dev.cust with mbWait := [] }) ∧
  (∀ (s : State) (v : View) (tag : Byte), Free' v s → viewPf0 v = false →
    let img := s.dev.bit offCUSTSTAT 11
    let ready := s.dev.phase ≠ 15
    (∀ x, imageOk s.fuses x = true → Lands (.flashWrite v tag x) s fun d => Answers false tag 0 d ∧
      (if img then d.cust.flashA else d.cust.flashB) = x ∧
      (if img then d.cust.flashB else d.cust.flashA) = if img then s.dev.cust.flashB else s.dev.cust.flashA) ∧
    (∀ x, imageOk s.fuses x = false → Lands (.flashWrite v tag x) s fun d => Answers false tag 4 d ∧
      d.cust.flashA = s.dev.cust.flashA ∧ d.cust.flashB = s.dev.cust.flashB) ∧
    (∀ cb,
      let x := if cb then s.dev.cust.flashB else s.dev.cust.flashA
      (s.dev.phase ≠ 10 → Lands (.mcLoad v tag cb) s fun d => Answers false tag 3 d ∧ d.cores = s.dev.cores) ∧
      (s.dev.phase = 10 → imageOk s.fuses x = false ∨ x.patchTagOk = false →
        Lands (.mcLoad v tag cb) s fun d => Answers false tag 4 d ∧ d.cores = s.dev.cores) ∧
      (s.dev.phase = 10 → imageOk s.fuses x = true → x.patchTagOk = true →
        Lands (.mcLoad v tag cb) s fun d => d.bit offMBSTAT 17 = true ∧ d.cust.mcRun = true ∧ d.cust.mcPlvl = x.plvl ∧
          ∀ c < 96, (d.core c).mcWait = true)) ∧
    (ready → ∃ t, exec (.fuseSvn v tag) s = .next t ∧ Answers false tag 0 t.dev ∧
      t.fuses = { s.fuses with svn := Nat.max s.fuses.svn (Nat.min 64 (s.dev.fld offCUSTSTAT 23 12)) }) ∧
    (∀ (k : StackId) (ch : Fin 32) (row : Nat), ready → Lands (.softRepair v tag k ch row) s fun d =>
      if Config.stackHasSpare k ch (s.dev.repairsOf k) = true then
        Answers false tag 0 d ∧ d.cust.repairLog = s.dev.cust.repairLog ++ [(k.val, ch.val, row, false, s.fum.time)]
      else Answers false tag 3 d ∧ d.cust.repairLog = s.dev.cust.repairLog) ∧
    (∀ sn sl sg, Lands (.debugUnlock v tag sn sl sg) s fun d =>
      if sg = true ∧ sn = s.dev.serial ∧ s.fuses.krev.getLsbD sl = false then Answers false tag 0 d ∧ d.cust.debugOpen = true
      else Answers false tag 4 d ∧ d.cust.debugOpen = s.dev.cust.debugOpen) ∧
    (ready → Lands (.lockFields v tag) s fun d => Answers false tag 0 d ∧
      d.bit offCVCTL 0 = true ∧ d.bit offFHLOCK 0 = true ∧ d.bit offCPLOCK 0 = true)) ∧
  (∀ (s : State) (c : CoreId), s.dev.active = true → s.dev.cust.mcRun = true → (s.dev.core c).mcWait = true → (s.dev.core c).micro = none →
    (s.dev.core c).ext = [] → (s.dev.core c).entry = none →
    Does (.mcLoadCore c) s fun d =>
      (d.core c).csgen = s.dev.cust.mcPlvl + BitVec.ofNat 8 s.dev.cust.loads ∧ (d.core c).mcWait = false ∧
      ((∀ j < 96, j ≠ c.val → (s.dev.core j).mcWait = false) → Answers false s.dev.cust.mcTag 0 d ∧ d.cust.mcRun = false ∧
        d.cust.loads = s.dev.cust.loads + 1 ∧ d.fld offCUSTSTAT 31 24 = s.dev.cust.mcPlvl.toNat)) ∧
  (∀ (s : State) (v : View) (b : LockBlock), ByCustody v (lockReg b) s → Lands (.blockLockSet v b) s fun d => d.bit (lockReg b) 0 = true) ∧
  (∀ (s : State) (t : TapOp),
    let open' := s.dev.debugLocked = false
    let ok := match t with
      | .idcode | .bypass | .samplePreload => True
      | .extest => s.dev.board.perst = true
      | .ieee1500 => open'
      | .bist => open' ∧ s.dev.board.perst = true
    s.dev.board.railsDropped = false →
    (ok → Does (.tapInstruction t) s fun d => d.board.tap = t ∧ d.out = s.dev.out ++ [.tap t]) ∧
    (¬ ok → Does (.tapInstruction t) s fun d => d.board.tap = .bypass ∧ d.out = s.dev.out ++ [.tap .bypass])) ∧
  (∀ (s : State) (a : BitVec 44) (cs : List Cell) (n : Nat) (busy : Bool),
    let ps := s.dev.physN a.toNat n
    let qs := s.dev.physN a.toNat cs.length
    let free (l : List PLoc) : Prop := s.dev.postQueued l = false ∧ ∀ p ∈ l, p.isLocal = true ∨ s.dev.bankHeld p.addr = false
    (s.dev.debugLocked = true → exec (.custodyDebugAccess a none n busy) s = .next (withDev s ((now s).send .debugRefused))) ∧
    (s.dev.debugLocked = false → s.dev.active = true → (∀ p ∈ ps, s.dev.debugReach p.addr = true) → free ps →
      (busy = false ∨ ∀ p ∈ ps, p.isLocal = true) →
      let d := (now s).readLines ps
      exec (.custodyDebugAccess a none n busy) s = .next (withDev s (d.send (.debugData (d.cells ps) (d.debugInfos ps) false)))) ∧
    (s.dev.debugLocked = false → s.dev.active = true → (∀ p ∈ qs, s.dev.debugReach p.addr = true) → free qs →
      (∀ p ∈ qs, s.dev.ownCheck p.addr 6 = .ok) →
      exec (.custodyDebugAccess a (some cs) n busy) s = .next (withDev s
        ((qs.map (·.addr / 64)).eraseDups.foldl Dev.dropCode ((now s).writeLoc { cells := qs } cs 12 none)))) ∧
    (s.dev.debugLocked = false → s.dev.active = true → (∀ p ∈ qs, s.dev.debugReach p.addr = true) → free qs →
      (∃ p ∈ qs, s.dev.ownCheck p.addr 6 = .refused) →
      exec (.custodyDebugAccess a (some cs) n busy) s = .next (withDev s ((now s).send .debugRefused))) ∧
    (s.dev.debugLocked = false → (∀ p ∈ qs, s.dev.debugReach p.addr = true) → (∀ p ∈ qs, s.dev.ownCheck p.addr 6 ≠ .refused) →
      (∃ p ∈ qs, s.dev.ownCheck p.addr 6 = .waits) → exec (.custodyDebugAccess a (some cs) n busy) s = .next (withDev s (now s))) ∧
    (s.dev.debugLocked = false → s.dev.active = true → (∀ p ∈ ps, s.dev.debugReach p.addr = true) → free ps →
      busy = true → (∃ p ∈ ps, p.isLocal = false) → Does (.custodyDebugAccess a none n busy) s fun d => d.mem = s.dev.mem ∧
        ∃ xs info, xs.length = n ∧ d.out.getLast? = some (.debugData xs info true)) ∧
    (∀ p, s.dev.debugLocked = false → (ps.find? fun p => !s.dev.debugReach p.addr) = some p →
      exec (.custodyDebugAccess a none n busy) s = .fault (.noStorage p.addr))) ∧
  (∀ (s : State) (t : Transport) (b : Byte), s.dev.custodyUp = true → (t = .pcieVdm → s.dev.board.linkUp = true) →
    (b = 0xFF ∨ (1 ≤ b.toNat ∧ b.toNat ≤ 6)) →
    let ks := if b = 0xFF then [1, 2, 3, 4, 5, 6] else [b.toNat]
    Does (.spdmRequest t .getMeasurements b) s fun d =>
      ∃ r : SpdmReply, d.out = s.dev.out ++ [.spdm t r] ∧ r.supported = true ∧ r.version = 0x12 ∧ r.digests = ks.map s.digest) ∧
  (∀ (s : State) (f : Bool),
    let shows (k : CfgField) (v : Nat) : Prop :=
      exec (.configurationRequest f (.read k)) s = .next (withDev s ((now s).send (.cfgData (BitVec.ofNat 32 v))))
    s.dev.board.perst = false → s.dev.board.railsDropped = false → s.dev.board.thermtrip = false → s.dev.board.linkUp = true →
    shows .vendorId 0x1C6B ∧ shows .deviceId (if f then 0x0937 else 0x0936) ∧ shows .revisionId 0x11 ∧ shows .classCode 0x120000 ∧ shows .subsystemVendorId 0x1C6B ∧
    shows .subsystemId (match s.dev.c192, s.dev.xgrade with | false, false => 1 | true, false => 2 | false, true => 3 | true, true => 4))

namespace Sys2Proof.Claims

/-- PWRSTAT.STATE (R501). -/
def pwrState (d : Dev) : Nat := d.fld offPWRSTAT 1 0

/-- A paired primary of two devices, which sends a dying gasp (R439, R504, R536). -/
def Gasps (d : Dev) : Prop := d.pair = 2 ∧ d.roleStandby = false ∧ d.mode ≠ 3

/-- The debug registers answer the host: debug is open (R507, R523). -/
def Probed (off : Nat) (s : State) : Prop := ByCustody .pf1 off s ∧ s.dev.debugLocked = false

/-- TARGET of comparator `n` once it has passed the time base by whole periods (R503). -/
def nextTarget (n : Fin 16) (s : State) : Nat :=
  let p := s.dev.fld (offFCMPC n) 63 32
  let t := s.dev.rd (offFCMPT n)
  t + ((s.fum.time - t) / p + 1) * p

/-- MISS of comparator `n` with `k` more, saturating. -/
def missed (n : Fin 16) (s : State) (k : Nat) : Nat := Nat.min (s.dev.fld (offFCMPC n) 31 24 + k) 255

end Sys2Proof.Claims

open Sys2Proof.Claims

/-- The device goes dormant unless a cause refuses it, and wakes; islands gate when idle; clock, throttle and trip act; comparators,
alarms, watchdog and time steps work on Fumarole's time; lost clocks are answered; a halted core stays halted until it is resumed
(R435, R497 to R505, R509, R510, R523, R534 to R536). -/
def Obligations.PowerAndTimeAreKept : Prop :=
  (∀ (s : State) (v : View), ByCustody v offPWRCTL s → s.dev.board.dormant = false →
    let refuses (n : Nat) : Prop := Lands (.dormantRequest v) s fun d => d.fld offPWRSTAT 11 8 = n ∧ d.board.dormant = false
    let paired := s.dev.pair = 1 ∨ s.dev.pair = 2
    let streams := ∃ x ∈ s.dev.islands, x.2.ctxs ≠ []
    (paired → refuses 1) ∧ (¬ paired → streams → refuses 2) ∧ (¬ paired → ¬ streams → s.dev.quiet = false → refuses 3) ∧
    (s.dev.dormantRefusal = 0 → Lands (.dormantRequest v) s fun d =>
      d.fld offPWRSTAT 11 8 = 0 ∧ pwrState d = 1 ∧ d.board.dormant = true ∧ d.active = false ∧ d.mem = s.dev.mem)) ∧
  (∀ (s : State) (ns : Nat),
    (1000 ≤ ns → s.dev.board.dormant = true → Does (.fumWakeAssert ns) s fun d => pwrState d = 2) ∧
    (ns < 1000 → exec (.fumWakeAssert ns) s = .next (withDev s (now s)))) ∧
  (∀ s : State, s.dev.board.dormant = true → pwrState s.dev = 2 →
    (∃ t, exec (.wakeComplete true) s = .next t ∧ t.dev.board.dormant = false ∧ pwrState t.dev = 0 ∧ t.fum = s.fum ∧
      t.dev.board.ledgerOk = s.dev.board.ledgerOk ∧ ∀ q ∈ t.dev.queues, q.2.latched = false) ∧
    Does (.wakeComplete false) s fun d => d.board.dormant = false ∧ d.active = false ∧ d.board.perst = false ∧ d.cust.starting = true ∧
      d.mem = s.dev.mem) ∧
  (∀ (s : State) (i : IslandId),
    let idle := s.dev.bit (offISLCLK i) 8 = true ∧ (s.dev.isl i).running = none ∧ (s.dev.isl i).order = [] ∧ (s.dev.isl i).atomics = [] ∧
      ∀ c, c / 8 = i.val → ((s.dev.core c).idle = true ∨ (s.dev.core c).fenced = true) ∧ (s.dev.core c).sbuf = []
    (s.dev.active = true → idle → Does (.islandGate i) s fun d => d.bit (offISLCLK i) 9 = true) ∧
    (¬ idle → exec (.islandGate i) s = .next (withDev s (now s))) ∧
    Does (.islandUngate i) s fun d => d.bit (offISLCLK i) 9 = false) ∧
  (∀ (s : State) (v : View) (i : IslandId) (x : Reg), ByCustody v (offISLCLK i) s →
    Lands (.freqChange v i x) s fun d =>
      d.fld (offISLCLK i) 4 0 = Nat.max 4 (Nat.min 22 (bitsOf x.toNat 4 0)) ∧ d.bit (offISLCLK i) 8 = bitOf x.toNat 8 ∧
      d.bit (offISLCLK i) 9 = s.dev.bit (offISLCLK i) 9) ∧
  (∀ (s : State) (die : Bool) (t : Int),
    let top : Int := if s.dev.xgrade then 196 else 186
    Does (.throttleStep die t) s fun d => ∀ i < 12,
      let x := s.dev.isl i
      let f := s.dev.fld (offISLCLK i) 4 0
      d.isl i = if decide (6 ≤ i) = die then
          { x with cap := if top ≤ t then Nat.max 4 (Nat.min x.cap f - 1) else if t ≤ top - 6 then Nat.min f (x.cap + 1) else x.cap }
        else x) ∧
  (∀ (s : State) (stack : Bool) (t : Int), (if stack = false ∧ s.dev.xgrade = true then 220 else 210) ≤ t → s.dev.board.railsDropped = false →
    Does (.thermalTrip stack t) s fun d => d.active = false ∧ d.board.ledgerOk = false ∧ d.board.thermtrip = true ∧ d.board.tripped = true ∧
      (Gasps s.dev → d.out = s.dev.out ++ [.dyingGasp]) ∧ (¬ Gasps s.dev → d.out = s.dev.out)) ∧
  (∀ (s : State) (n : Fin 16),
    let p := s.dev.fld (offFCMPC n) 63 32
    let i : Instr := .comparatorMatch n
    s.dev.bit (offFCMPC n) 0 = true → s.dev.rd (offFCMPT n) ≤ s.fum.time → s.fum.time + p < 2 ^ 64 →
    (s.dev.board.railsDropped = false → Does i s fun d =>
      (if p = 0 then d.bit (offFCMPC n) 0 = false ∧ d.fld (offFCMPC n) 31 24 = missed n s 0
       else d.rd (offFCMPT n) = nextTarget n s ∧ s.fum.time < nextTarget n s ∧
         d.fld (offFCMPC n) 31 24 = missed n s ((s.fum.time - s.dev.rd (offFCMPT n)) / p)) ∧
      (s.dev.bit (offFCMPC n) 1 = true → d.bit (offISRC (896 + n)) 63 = true) ∧
      (s.dev.bit (offFCMPC n) 3 = true → s.dev.board.dormant = true → pwrState d = 2)) ∧
    (∀ c sl, s.dev.board.railsDropped = false → bitsOf (s.dev.rd (offFCMPC n)) 3 1 = 2 → s.dev.fld (offFCMPC n) 23 17 = c →
      s.dev.fld (offFCMPC n) 16 11 = sl → c < 96 → (n.val < 8 → ((s.dev.core c).slot sl).world = false) →
      ∃ d, EventDone c sl 8 (sl * 256 + 3) (now s) d ∧ exec i s = .next (withDev s (d.rearm n 0))) ∧
    (s.dev.board.railsDropped = true → Does i s fun d => d.irqNet = s.dev.irqNet ∧ d.cores = s.dev.cores ∧
      (p = 0 → d.bit (offFCMPC n) 0 = false ∧ d.fld (offFCMPC n) 31 24 = missed n s 1))) ∧
  (∀ (s : State) (k : Fin 4) (x : BitVec 10),
    let th := s.dev.fld (offFANA k) 9 0
    let hy := s.dev.fld (offFANA k) 25 16
    let crossed := if s.dev.bit (offFANA k) 30 then x.toNat < th else th < x.toNat
    let back := if s.dev.bit (offFANA k) 30 then th + hy ≤ x.toNat else x.toNat + hy ≤ th
    let i : Instr := .analogAlarm k x
    (s.dev.bit (offFANA k) 31 = false → crossed → Does i s fun d =>
      d.bit (offFANA k) 31 = true ∧ d.bit (offISRC (912 + k)) 63 = true ∧
      d.out = s.dev.out ++ if k = 3 ∧ s.dev.pair = 2 ∧ s.dev.roleStandby = false ∧ s.dev.mode ≠ 3 then [.dyingGasp] else []) ∧
    (s.dev.bit (offFANA k) 31 = true → back → Does i s fun d => d.bit (offFANA k) 31 = false ∧ d.out = s.dev.out) ∧
    (¬ (if s.dev.bit (offFANA k) 31 then back else crossed) → exec i s = .next (withDev s (now s)))) ∧
  (∀ s : State, s.dev.bit offFWD 16 = true → s.fum.wdLeft = 0 →
    ∃ t, exec .watchdogExpiry s = .next t ∧ t.fum = { s.fum with wdLeft := s.dev.fld offFWD 15 0 * 64000 } ∧
      (s.dev.board.wdExpired = false → t.dev.board.wdExpired = true ∧ t.dev.bit (offISRC 916) 63 = true) ∧
      (s.dev.board.wdExpired = true → Fresh .custodyCore s.dev →
        t.dev.hub.lasting = s.dev.hub.lasting ++ [(.custodyCore, s.fum.time)])) ∧
  (∀ (s : State) (v : View) (x : Byte), ByCustody v offFWD s →
    ∃ t, exec (.watchdogKick v x) s = .next t ∧ t.fuses = s.fuses ∧
      t.fum = if x = 0xA5 then { s.fum with wdLeft := t.dev.fld offFWD 15 0 * 64000 } else s.fum) ∧
  (∀ (s : State) (v : View) (x : BitVec 32), ByCustody v offFTBADJ s →
    ∃ t, exec (.timeStep v x) s = .next t ∧ t.fuses = s.fuses ∧ t.dev.fld offFTBADJ 63 32 = s.dev.fld offFTBADJ 63 32 ∧
      if x.toNat < 2 ^ 31 then t.fum = { s.fum with time := s.fum.time + x.toNat }
      else t.fum = { s.fum with absorb := s.fum.absorb + (2 ^ 32 - x.toNat) * 2 ^ 32 }) ∧
  (∀ (s : State) (k : RefClock), ∃ t, exec (.refclockLoss k) s = .next t ∧ k ∈ t.dev.board.clocks ∧ t.fuses = s.fuses ∧
    t.fum = (if k = .fum then { s.fum with clockLost := true } else s.fum) ∧
    (k = .sysclk → s.dev.active = true → t.dev.bit (offISRC 1015) 63 = true) ∧
    (k = .pcie → s.dev.board.linkUp = true → t.dev.active = false ∧ t.dev.board.linkUp = false ∧ t.dev.board.perst = true ∧
      t.dev.mem = s.dev.mem) ∧
    (k = .eth → t.dev.board.eth0 = false ∧ t.dev.board.eth1 = false ∧ t.dev.bit (offISRC 320) 63 = true ∧
      t.dev.bit (offISRC 321) 63 = true)) ∧
  (∀ (s : State) (c : CoreId), Probed (offDBGC c) s →
    (Lands (.debugHalt c) s fun d => d.bit (offDBGC c) 0 = true ∧
      ((s.dev.core c).ext = [] → (s.dev.core c).entry = none → d.bit (offDBGC c) 1 = true)) ∧
    (Lands (.debugResume c) s fun d => d.bit (offDBGC c) 0 = false ∧ d.bit (offDBGC c) 1 = false) ∧
    (s.dev.bit (offDBGC c) 1 = true → s.dev.bit (offDBGC c) 0 = true → Lands (.debugStep c) s fun d =>
      (d.core c).stepArmed = true ∧ d.bit (offDBGC c) 1 = true)) ∧
  (∀ (s : State) (i : IslandId), Probed (offTRCTL i) s →
    Lands (.traceEnable i) s fun d => d.bit (offTRCTL i) 0 = true ∧ d.fld (offTRBASE i) 63 32 = 0)

/-- A register write always completes: a write to an offset that no chapter assigns, or of a register that PF0 may not write, changes no
register but the log's; RSTVEC takes its value until it is locked (R8, R512, R515, R519). -/
def Obligations.RegisterWritesComplete : Prop :=
  (∀ (s : State) (v : View) (off : BitVec 28) (n : Fin 9) (x : Reg),
    ∃ t, exec (.registerWrite v off n x) s = .next t ∧ t.pending = s.pending) ∧
  (∀ (s : State) (v : View) (off : BitVec 28) (x : Reg), (now s).answers v off.toNat = true → Calm s → off.toNat % 8 = 0 →
    off.toNat < 0x1F00000 ∨ 0x2000000 ≤ off.toNat → mbData v off.toNat = none → regFields (regKey v off.toNat) = none →
    offVoid off.toNat = false →
    Lands (.registerWrite v off 8 x) s fun d => d = (now s).logIgnored off.toNat x.toNat) ∧
  (∀ (s : State) (off : BitVec 28) (n : Fin 9) (x : Reg) (o : Nat),
    let key := off.toNat / 8 * 8
    (now s).answers .pf0 off.toNat = true → Calm s → (n.val = 8 ∨ n.val = 4) → off.toNat % n.val = 0 → off.toNat < 0x20000 →
    (∀ m < 1024, key ≠ offISRC m ∨ s.dev.bit (offISRC m) 60 = true) →
    (∀ f ∈ (regFields key).getD [], f.w0 = true → ∃ m < 1024, key = offISRC m) → o < 0x30000 → (∀ m < 1024, o ≠ offISRC m) →
    Lands (.registerWrite .pf0 off n x) s fun d => d.rd o = s.dev.rd o) ∧
  (∀ (s : State) (v : View) (x : Reg), ByCustody v offRSTVEC s → x.toNat < 2 ^ 36 →
    Lands (.registerWrite v (BitVec.ofNat 28 offRSTVEC) 8 x) s fun d =>
      d.rd offRSTVEC % 2 ^ 36 = if s.dev.bit offCPLOCK 0 then s.dev.rd offRSTVEC % 2 ^ 36 else x.toNat)

namespace Sys2Proof.Claims

/-! ## Frames and entries -/

/-- G registers that a written operand names (R70). -/
def dstRegs : Dst → List Nat
  | .g r n => if n = 8 then [r, r + 1] else [r]
  | _ => []

/-- Cells that a written operand names. -/
def dstCells : Dst → List PLoc
  | .mem loc _ => loc.cells
  | _ => []

/-- Blocks that storing cells at an operand touches (R243). -/
def dstBlocks (cs : List Cell) : Dst → Nat
  | .mem loc _ => (runsBy 16 (loc.cells.zip cs)).length
  | _ => 0

/-- Values that wait in the store buffer of `k` for the cell at physical address `a`, oldest first (R243). -/
def waiting (k : Core) (a : Nat) : List Cell := k.sbuf.filterMap fun e => if e.block = a / 16 then (e.cells.find (a % 16)).map (·.v) else none

/-- Nothing of the device but core `c` has changed. -/
def OnlyCore (c : Nat) (d d' : Dev) : Prop := ∃ ks, d' = { d with cores := ks } ∧ ∀ j, j ≠ c → d'.core j = d.core j

/-- The frame of an instruction that writes operand `dst` and the registers of `upd` and raises flags: in memory it touches only the
operand's cells, which wait in the store buffer; every other register but the PC, SF and the loop registers stays. -/
def Framed (c : Nat) (dst : Dst) (upd : AMap Word) (d d' : Dev) : Prop :=
  OnlyCore c d d' ∧
  let k := d.core c
  let k' := d'.core c
  (∀ b r, (b = k.bankNo → r ∉ dstRegs dst ∧ ∀ u ∈ upd, u.1 ≠ r) → k'.gAt b r = k.gAt b r) ∧
  (∀ b i, k'.segAt b i = k.segAt b i) ∧
  (∀ a, (∀ p ∈ dstCells dst, p.addr ≠ a) → waiting k' a = waiting k a) ∧
  bitsOf k'.cstat.toNat 35 14 = bitsOf k.cstat.toNat 35 14 ∧ k'.f = k.f ∧ k'.v = k.v ∧ k'.m = k.m ∧ k'.vcfg = k.vcfg ∧
  k'.vresume = k.vresume ∧ k'.bwin = k.bwin ∧ k'.led = k.led ∧ k'.cus = k.cus ∧ k'.slots = k.slots ∧ k'.runSlot = k.runSlot ∧
  k'.taskBank = k.taskBank ∧ k'.posts = k.posts ∧ k'.beside = k.beside ∧ k'.reqs = k.reqs

/-- Core `c` has no distance open and is not single-stepped or halted, and its store buffer takes `n` more entries. -/
def Plain (c n : Nat) (d : Dev) : Prop :=
  (d.core c).exposed = [] ∧ (d.core c).stepArmed = false ∧ d.bit (offDBGC c) 0 = false ∧ (d.core c).sbuf.length + n ≤ 8

/-- Instructions permitted in LS and CS only that name no operand (R77). -/
def supOnly : List ((CoreId → Instr) × Nat × Nat) :=
  [(fun c => .sret c 0, 0o006, 0), (fun c => .rte c 0, 0o007, 0), (fun c => .tlbsync c 0, 0o031, 0), (fun c => .idle c 0, 0o377, 3)]

/-- The privilege fault of core `c` at its PC is taken, and with it the instruction ends (R77, R198, R212). -/
def Refused (c : Nat) (d d' : Dev) : Prop :=
  let pc := (d.core c).pc
  ∃ d1, Gives (deliver c { vec := 2, world := (d.core c).world, spc := pc, fpc := pc }) d () d1 ∧
    d' = (d1.updCore c fun k => { k with ext := [] }).endStep c

end Sys2Proof.Claims

open Sys2Proof.Claims

/-- The frame of NEG to POPC, ADD to PERM and the compares: against the device as their operand steps leave it, they change nothing but
their operand, the registers that modes 4 and 5 update, the flags, the PC and the loop registers (R72, R84, R85, R87). -/
def Obligations.IntegerInstructionsKeepTheRest : Prop :=
  (∀ r ∈ oneSource, ∀ (s : State) (c : CoreId) (ob : BitVec 6) (a e : Spec) (x : Nat) (dst : Dst) (upd : AMap Word) (d1 d2 : Dev),
    let i : Ins := { c := c, op := r.op, ob := ob.toNat, specs := [a, e] }
    let n := widthCells ob
    let v := r.val (bits ob) x
    let cs := natCells n v.1
    Ready i (now s) → (ob.toNat % 16 = 0 ∧ r.ok ob = true ∧ okIntSrc n a = true ∧ okIntDst n e = true) →
    One c n a e (now s) x dst upd d1 → Writes c upd dst cs d1 d2 → NoTrap c v.2 d2 → Plain c (dstBlocks cs dst) d1 →
    Does (r.cmd c ob a e) s (Framed c dst upd d1)) ∧
  (∀ r ∈ twoSources, ∀ (s : State) (c : CoreId) (ob : BitVec 6) (a b e : Spec) (x y : Nat) (dst : Dst) (upd : AMap Word) (d1 d2 : Dev),
    let i : Ins := { c := c, op := r.op, ob := ob.toNat, specs := [a, b, e] }
    let n := widthCells ob
    let nb := if r.word then 4 else n
    let v := r.val (bits ob) x y
    let cs := natCells n v.1
    Ready i (now s) →
    (ob.toNat % 16 = 0 ∧ r.ok ob = true ∧ okIntSrc n a = true ∧ okIntSrc nb b = true ∧ okIntDst n e = true) →
    Two c n nb a b e (now s) x y dst upd d1 → Writes c upd dst cs d1 d2 → NoTrap c v.2 d2 → Plain c (dstBlocks cs dst) d1 →
    Does (r.cmd c ob a b e) s (Framed c dst upd d1)) ∧
  (∀ r ∈ compares, ∀ (s : State) (c : CoreId) (ob : BitVec 6) (a b e : Spec) (x y : Nat) (upd : AMap Word) (d1 d2 : Dev),
    let i : Ins := { c := c, op := r.op, ob := ob.toNat, specs := [a, b, e] }
    let n := widthCells ob
    Ready i (now s) → (ob.toNat % 16 = 0 ∧ okIntSrc n a = true ∧ okIntSrc n b = true ∧ okReg e = true) →
    Sources c n n a b (now s) x y upd d1 → WritesG c upd e.reg.toNat (if r.holds (bits ob) x y then 1 else 0) d1 d2 → Plain c 0 d1 →
    Does (r.cmd c ob a b e) s (Framed c (.g e.reg.toNat 4) upd d1))

/-- A delivery whose entry, stack and frame are in order saves the frame below the stack and enters the handler at its level, in its
context and bank; an instruction that its context does not permit takes the privilege fault and has no other effect (R77, R198 to R200,
R204, R206). -/
def Obligations.EntriesAreTaken : Prop :=
  (∀ (c : Nat) (v : Delivery) (d d1 d2 d3 : Dev) (cs : List Cell) (sg : SegReg) (x : SegDesc) (ps : List PLoc),
    let d0 := d.updCore c Core.flushExp
    let k := d0.core c
    let ws := cellsWords cs
    let w0 := (ws.getD 0 0).toNat
    let l := v.level.getD (bitsOf w0 30 28)
    let n := if v.micro.isSome then 18 else 12
    let own := bitsOf w0 15 0 = 0
    let top := if own then (k.gr 15).toNat else (ws.getD 2 0).toNat
    let base := (top + 2 ^ 36 - 4 * n) % 2 ^ 36
    let u := match v.micro with | some u => (u.upc.toNat, u.ck.toNat) | none => (0, 0)
    (d.core c).plev ≠ 7 → v.vec ≠ 41 →
    Gives (readLin c v.world {} ((k.wr v.world).hdtb.toNat * 4096 + 16 * v.vec) 16) d0 cs d1 → hdtOk ws v = true →
    (v.level.isSome = true ∨ l = 7 ∨ (k.mlev < l ∧ k.plev < l)) → (v.world = true ∨ d1.levelWorld c l = false) →
    (if own then 2 * flagNat v.world + 1 = k.ctx ∧ sg = k.segAt k.bankNo 1 ∧ d2 = d1
     else Gives (loadSeg c v.world false (bitsOf w0 15 0) {}) d1 sg d2) →
    Gives (segCheck sg .write { off := base } (4 * n)) d2 x d2 →
    Gives (do
      let ps ← linAccess c v.world true .write x.key.toNat (k.wr v.world).pkr.toNat { off := base } (x.base.toNat + base) (4 * n)
      storeLoc c { cells := ps, jr := x.jr, segtag := x.segtag } ((frameWords k v l (decide own) d2.now u.1 u.2).flatMap (natCells 4))
      pure ps) d2 ps d3 →
    ∃ d4, Gives (deliver c v) d () d4 ∧
      let k' := d4.core c
      k'.pc = ws.getD 1 0 ∧ k'.micro = none ∧ k'.gAt (levelBank l) 15 = BitVec.ofNat 36 base ∧ k'.segAt (levelBank l) 1 = sg ∧
      bitsOf k'.cstat.toNat 35 34 = bitsOf w0 32 31 ∧ bitsOf k'.cstat.toNat 33 31 = l % 8 ∧
      bitsOf k'.cstat.toNat 30 28 = Nat.max l (bitsOf w0 27 25) % 8 ∧ bitsOf k'.cstat.toNat 21 14 = 0 ∧
      bitsOf k'.cstat.toNat 13 6 = bitsOf k.cstat.toNat 13 6) ∧
  (∀ r ∈ supOnly, ∀ (s : State) (c : CoreId),
    let i : Ins := { c := c, op := r.2.1, sec := r.2.2, ob := 0 }
    Ready i (now s) → (s.dev.core c).sup = false → PipeEmpty c (now s) → ∀ d, Refused c (now s) d →
    exec (r.1 c) s = .next (withDev s d)) ∧
  (∀ (s : State) (c : CoreId) (ob : BitVec 6) (e : Spec) (d : Dev), PipeEmpty c (now s) → Refused c (now s) d →
    (Ready { c := c, op := 0o012, ob := ob.toNat, specs := [e] } (now s) → ¬ InCS c (now s) → ctlPerWorld ob.toNat = true →
      okIntDst 4 e = true → exec (.mfcw c ob e) s = .next (withDev s d)) ∧
    (Ready { c := c, op := 0o013, ob := ob.toNat, specs := [e] } (now s) → ¬ InCS c (now s) → ctlPerWorld ob.toNat = true →
      okIntSrc 4 e = true → exec (.mtcw c ob e) s = .next (withDev s d)))

/-- A step runs the command at the front of the queue on the state with the queue's rest; on an empty queue one nanosecond of Fumarole's
clock passes (the model's choice, log entry 9). -/
def Obligations.StepRunsTheFrontCommand : Prop :=
  (∀ (c : Instr) (rest : List Instr) (s : State), s.pending = c :: rest → step s = exec c { s with pending := rest }) ∧
  (∀ s : State, s.pending = [] → s.fum.on = false → step s = .next s) ∧
  (∀ s : State, s.pending = [] → s.fum.on = true → s.fum.clockLost = false → s.fum.frac < 2 ^ 32 → s.fum.absorb = 0 →
    s.dev.fld offFTBADJ 63 32 = 0 → s.dev.regNet = [] → Calm s →
    ∃ t, step s = .next t ∧ t.pending = [] ∧ t.fuses = s.fuses ∧ t.fum.time = s.fum.time + 1 ∧ t.dev.now = s.fum.time + 1)

/-- After reset every register holds the value of its Reset column, SEQ is 1, memory is empty and canonical, no core has started, no
command waits, and LEDGER_OK is low; the invariants hold (R9, R25, R421, R451, R493, R501, R505, R511). -/
def Obligations.ResetState : Prop :=
  let s := State.reset
  s.pending = [] ∧ Safety.memOk s ∧ Calm s ∧ s.dev.mem = [] ∧ s.fuses.svn ≤ 64 ∧
  (∀ off, s.dev.rd off = regReset off) ∧
  s.dev.rd offSNSEQ = 1 ∧ s.dev.fld offSNCFG 47 40 = 100 ∧ s.dev.fld offFWD 15 0 = 1000 ∧ s.dev.fld (offISLCLK 3) 4 0 = 22 ∧
  s.dev.bit (offISLCLK 3) 8 = true ∧ s.dev.fld offFHCFG 14 8 = 95 ∧ s.dev.fld offFHCFG 7 0 = 16 ∧ s.dev.bit offFHCFG 16 = true ∧
  s.dev.fld offPLCFG 31 16 = 0xB936 ∧ s.dev.fld (offFANA 2) 25 16 = 8 ∧ s.dev.fld (offFANA 2) 9 0 = 1023 ∧ s.dev.phase = 0 ∧
  s.dev.board.ledgerOk = false ∧ s.dev.active = false ∧ s.fum.time = 0 ∧ ∀ c, (s.dev.core c).started = false

/-- The time base never goes backward, while VAON stays up (R502). -/
def Obligations.TimeNeverGoesBackward : Prop :=
  ∀ s t : State, step s = .next t → s.pending.head? ≠ some .vaonPowerUp → s.pending.head? ≠ some .vaonRemoval → s.fum.time ≤ t.fum.time

/-- No step changes a fuse, but that the count of blown SVN bits may rise, to 64 at most (R482, R490). -/
def Obligations.FusesOnlyGain : Prop :=
  ∀ s t : State, step s = .next t →
    t.fuses.rootkh = s.fuses.rootkh ∧ t.fuses.krev = s.fuses.krev ∧ t.fuses.mckey = s.fuses.mckey ∧ t.fuses.uds = s.fuses.uds ∧
    s.fuses.svn ≤ t.fuses.svn ∧ (s.fuses.svn ≤ 64 → t.fuses.svn ≤ 64)

/-- Memory keeps its canonical form: equal memories are equal lists. Every step keeps it. -/
def Obligations.MemoryStaysCanonical : Prop := ∀ s t : State, step s = .next t → Safety.memOk s → Safety.memOk t

/-- What a register write sends to Fumarole and to the custody controller arrives within its command: every step keeps that (R489, R502,
R505). -/
def Obligations.NothingStaysOnItsWay : Prop := ∀ s t : State, step s = .next t → Calm s → Calm t
end

