-- ==== Sys2Proof/Laws/Actions.lean ====
section
/-!
SUPPORT. How actions on the device run, one lemma for each way to build one, and what running an instruction comes to.
-/

namespace Sys2Proof.Machine

theorem bind_ok {α β : Type} {m : M α} {f : α → M β} {d d' : Dev} {a : α} (h : m d = (.ok a, d')) : (m >>= f) d = f a d' := by
  show (StateT.bind m (ExceptT.bindCont f)) d = _
  simp only [StateT.bind, h]
  rfl

theorem bind_error {α β : Type} {m : M α} {f : α → M β} {d d' : Dev} {e : Stop} (h : m d = (.error e, d')) :
    (m >>= f) d = (.error e, d') := by
  show (StateT.bind m (ExceptT.bindCont f)) d = _
  simp only [StateT.bind, h]
  rfl

@[simp] theorem pure_run {α : Type} (a : α) (d : Dev) : (pure a : M α) d = (.ok a, d) := rfl

@[simp] theorem get_run (d : Dev) : (get : M Dev) d = (.ok d, d) := rfl

@[simp] theorem set_run (x d : Dev) : (set x : M Unit) d = (.ok (), x) := rfl

@[simp] theorem modify_run (f : Dev → Dev) (d : Dev) : (modify f : M Unit) d = (.ok (), f d) := rfl

@[simp] theorem getCore_run (c : Nat) (d : Dev) : (getCore c) d = (.ok (d.core c), d) := rfl

@[simp] theorem modCore_run (c : Nat) (f : Core → Core) (d : Dev) : (modCore c f) d = (.ok (), d.updCore c f) := rfl

@[simp] theorem raiseE_run {α : Type} (e : Exc) (d : Dev) : (raiseE e : M α) d = (.error (.exc e), d) := rfl

@[simp] theorem waitM_run {α : Type} (d : Dev) : (waitM : M α) d = (.error .wait, d) := rfl

theorem need_true {b : Bool} (e : Exc) (d : Dev) (h : b = true) : (need b e) d = (.ok (), d) := by
  subst h; rfl

theorem need_false {b : Bool} (e : Exc) (d : Dev) (h : b = false) : (need b e) d = (.error (.exc e), d) := by
  subst h; rfl

/-- An instruction passes the checks made before its own: no micro-state is resumed, no fetch fault waits in a parcel, and it is not
too long. -/
theorem frontChecks_run {x : Ins} {d : Dev} (hm : (d.core x.c).micro = none)
    (hf : (d.core x.c).fetchFault (d.core x.c).pc.toNat (Nat.min x.len 10) = none) (hl : x.len ≤ 10) :
    (frontChecks x) d = (.ok (), d) := by
  unfold frontChecks
  rw [bind_ok (getCore_run x.c d)]
  simp only [hm, hf]
  exact need_true _ _ (by simpa using hl)

/-- A body that completes, and its completion, are the whole effect of an instruction. -/
theorem runInstr_done {x : Ins} {body : M Done} {d d1 d2 : Dev} {r : Done} (hr : d.canRun x.c = true)
    (hf : (frontChecks x) d = (.ok (), d)) (hb : body d = (.ok r, d1)) (hc : (complete x.c x.len r) d1 = (.ok (), d2)) :
    runInstr x body d = d2.endStep x.c := by
  unfold runInstr
  simp only [hr, Bool.not_true, Bool.false_eq_true, if_false]
  rw [bind_ok hf, bind_ok hb, hc]

/-- An instruction of a core that cannot run changes nothing. -/
theorem runInstr_stopped {x : Ins} {body : M Done} {d : Dev} (h : d.canRun x.c = false) : runInstr x body d = d := by
  simp [runInstr, h]

/-- An instruction whose body waits changes nothing. -/
theorem runInstr_wait {x : Ins} {body : M Done} {d d1 : Dev} (hr : d.canRun x.c = true) (hf : (frontChecks x) d = (.ok (), d))
    (hb : body d = (.error .wait, d1)) : runInstr x body d = d := by
  unfold runInstr
  simp only [hr, Bool.not_true, Bool.false_eq_true, if_false]
  rw [bind_ok hf, bind_error hb]

/-- Completion without a transfer or a trap: the loop-back check, the exposed distances and the PC (R101, R80). -/
theorem complete_falls (c len : Nat) (d : Dev) :
    (complete c len {}) d = (.ok (), d.updCore c fun k =>
      { ((k.setBank k.bankNo (loopBack (d.core c).bank (d.core c).pc.toNat (((d.core c).pc.toNat + len) % 2 ^ 36)).1).countExp).useLines
          (d.core c).pc.toNat len with
        pc := BitVec.ofNat 36 (loopBack (d.core c).bank (d.core c).pc.toNat (((d.core c).pc.toNat + len) % 2 ^ 36)).2
        ext := [], micro := none, fresh := false, strDone := 0 }) := by
  unfold complete
  rfl

/-- Outcomes of a command that acts on the device alone. -/
theorem onDev_eq (f : Dev → Dev) (s : State) : onDev f s = .next { s with dev := f { s.dev with now := s.fum.time } } := rfl

theorem instr_eq (x : Ins) (body : M Done) (s : State) :
    instr x body s = .next { s with dev := runInstr x body { s.dev with now := s.fum.time } } := rfl

end Sys2Proof.Machine
end

