-- ==== Sys2Proof/Laws/Maps.lean ====
section
/-!
SUPPORT. Finite maps and bit fields: reading after writing, and that writing keeps keys rising.
-/

namespace Sys2Proof.Machine

variable {α : Type}

@[simp] theorem AMap.find_put_same (m : AMap α) (k : Nat) (v : α) : (m.put k v).find k = some v := by
  induction m with
  | nil => simp [AMap.put, AMap.find]
  | cons p t ih =>
    obtain ⟨j, w⟩ := p
    simp only [AMap.put]
    split
    · simp [AMap.find]
    · split
      · simp [AMap.find]
      · rename_i h _
        simp [AMap.find, h, ih]

theorem AMap.find_put_other (m : AMap α) {k j : Nat} (v : α) (h : j ≠ k) : (m.put k v).find j = m.find j := by
  induction m with
  | nil => simp [AMap.put, AMap.find, Ne.symm h]
  | cons p t ih =>
    obtain ⟨i, w⟩ := p
    simp only [AMap.put]
    split
    · subst_vars
      simp [AMap.find, Ne.symm h]
    · split
      · simp [AMap.find, Ne.symm h]
      · simp only [AMap.find, ih]

@[simp] theorem AMap.getD'_put_same (m : AMap α) (k : Nat) (v d : α) : (m.put k v).getD' k d = v := by
  simp [AMap.getD']

theorem AMap.getD'_put_other (m : AMap α) {k j : Nat} (v d : α) (h : j ≠ k) : (m.put k v).getD' j d = m.getD' j d := by
  simp [AMap.getD', AMap.find_put_other m v h]

@[simp] theorem AMap.find_del_same (m : AMap α) (k : Nat) : (m.del k).find k = none := by
  induction m with
  | nil => rfl
  | cons p t ih =>
    obtain ⟨j, w⟩ := p
    simp only [AMap.del]
    split
    · exact ih
    · rename_i h
      simp [AMap.find, h, ih]

theorem AMap.find_del_other (m : AMap α) {k j : Nat} (h : j ≠ k) : (m.del k).find j = m.find j := by
  induction m with
  | nil => rfl
  | cons p t ih =>
    obtain ⟨i, w⟩ := p
    simp only [AMap.del]
    split
    · subst_vars
      simp [AMap.find, Ne.symm h, ih]
    · simp only [AMap.find, ih]

/-- An entry of a map after a write: the written one, or one that was there. -/
theorem AMap.mem_put {m : AMap α} {k : Nat} {v : α} {p : Nat × α} (h : p ∈ m.put k v) : p = (k, v) ∨ p ∈ m := by
  induction m with
  | nil => simpa [AMap.put] using h
  | cons q t ih =>
    obtain ⟨j, w⟩ := q
    simp only [AMap.put] at h
    split at h
    · rcases List.mem_cons.1 h with h | h
      · exact .inl h
      · exact .inr (List.mem_cons_of_mem _ h)
    · split at h
      · rcases List.mem_cons.1 h with h | h
        · exact .inl h
        · exact .inr h
      · rcases List.mem_cons.1 h with h | h
        · exact .inr (h ▸ List.mem_cons_self)
        · exact (ih h).imp_right (List.mem_cons_of_mem _)

theorem AMap.mem_del {m : AMap α} {k : Nat} {p : Nat × α} (h : p ∈ m.del k) : p ∈ m := by
  induction m with
  | nil => exact h
  | cons q t ih =>
    obtain ⟨j, w⟩ := q
    simp only [AMap.del] at h
    split at h
    · exact List.mem_cons_of_mem _ (ih h)
    · rcases List.mem_cons.1 h with h | h
      · exact h ▸ List.mem_cons_self
      · exact List.mem_cons_of_mem _ (ih h)

/-- Keys of a map rise. -/
abbrev AMap.rising (m : AMap α) : Prop := m.Pairwise fun a b => a.1 < b.1

theorem AMap.rising_put {m : AMap α} (k : Nat) (v : α) (h : m.rising) : (m.put k v).rising := by
  induction m with
  | nil => simp [AMap.put, AMap.rising]
  | cons p t ih =>
    obtain ⟨j, w⟩ := p
    obtain ⟨hj, ht⟩ := List.pairwise_cons.1 h
    simp only [AMap.put]
    split
    · subst_vars
      exact List.pairwise_cons.2 ⟨hj, ht⟩
    · split
      · refine List.pairwise_cons.2 ⟨fun q hq => ?_, h⟩
        rcases List.mem_cons.1 hq with hq | hq
        · subst hq; assumption
        · exact Nat.lt_trans ‹k < j› (hj q hq)
      · refine List.pairwise_cons.2 ⟨fun q hq => ?_, ih ht⟩
        rcases AMap.mem_put hq with hq | hq
        · subst hq; show j < k; omega
        · exact hj q hq

theorem AMap.rising_del {m : AMap α} (k : Nat) (h : m.rising) : (m.del k).rising := by
  induction m with
  | nil => exact h
  | cons p t ih =>
    obtain ⟨j, w⟩ := p
    obtain ⟨hj, ht⟩ := List.pairwise_cons.1 h
    simp only [AMap.del]
    split
    · exact ih ht
    · exact List.pairwise_cons.2 ⟨fun q hq => hj q (AMap.mem_del hq), ih ht⟩

/-! ## Bit fields -/

theorem bitsOf_lt (v hi lo : Nat) : bitsOf v hi lo < 2 ^ (hi + 1 - lo) := Nat.mod_lt _ (Nat.two_pow_pos _)

theorem testBit_bitsOf (v hi lo i : Nat) : (bitsOf v hi lo).testBit i = (decide (i < hi + 1 - lo) && v.testBit (lo + i)) := by
  simp [bitsOf, Nat.testBit_mod_two_pow, Nat.testBit_div_two_pow, Nat.add_comm]

/-- Every bit of a number after a field of it has been set. -/
theorem testBit_setBits (v : Nat) {hi lo : Nat} (x : Nat) (h : lo ≤ hi) (i : Nat) :
    (setBits v hi lo x).testBit i = if lo ≤ i ∧ i ≤ hi then x.testBit (i - lo) else v.testBit i := by
  obtain ⟨n, hn⟩ : ∃ n, hi + 1 = lo + n := ⟨hi + 1 - lo, by omega⟩
  have e : setBits v hi lo x = 2 ^ lo * (2 ^ n * (v / 2 ^ (lo + n)) + x % 2 ^ n) + v % 2 ^ lo := by
    unfold setBits
    rw [hn, Nat.add_sub_cancel_left, Nat.pow_add, Nat.mul_add]
    simp only [Nat.mul_comm, Nat.mul_left_comm, Nat.mul_assoc]
  rw [e, Nat.testBit_two_pow_mul_add _ (Nat.mod_lt _ (Nat.two_pow_pos _)), Nat.testBit_two_pow_mul_add _ (Nat.mod_lt _ (Nat.two_pow_pos _))]
  simp only [Nat.testBit_mod_two_pow, Nat.testBit_div_two_pow]
  by_cases h1 : i < lo
  · simp [h1, show ¬ lo ≤ i by omega]
  · by_cases h2 : i - lo < n
    · simp [h1, h2, show lo ≤ i ∧ i ≤ hi by omega]
    · simp [h1, h2, show ¬ (lo ≤ i ∧ i ≤ hi) by omega, show i - lo - n + (lo + n) = i by omega]

/-- A field reads as it was set, its value taken modulo its width. -/
theorem bitsOf_setBits_same (v : Nat) {hi lo : Nat} (x : Nat) (h : lo ≤ hi) :
    bitsOf (setBits v hi lo x) hi lo = x % 2 ^ (hi + 1 - lo) := by
  apply Nat.eq_of_testBit_eq
  intro i
  rw [testBit_bitsOf, testBit_setBits v x h, Nat.testBit_mod_two_pow]
  by_cases hi' : i < hi + 1 - lo
  · simp [hi', show lo + i ≤ hi by omega]
  · simp [hi']

/-- A field keeps its value when another is set. -/
theorem bitsOf_setBits_other (v : Nat) {hi lo a b : Nat} (x : Nat) (h : lo ≤ hi) (d : a < lo ∨ hi < b) :
    bitsOf (setBits v hi lo x) a b = bitsOf v a b := by
  apply Nat.eq_of_testBit_eq
  intro i
  rw [testBit_bitsOf, testBit_bitsOf, testBit_setBits v x h]
  by_cases hi' : i < a + 1 - b
  · rw [if_neg (by omega)]
  · simp [hi']

theorem bitOf_testBit (v b : Nat) : bitOf v b = v.testBit b := by
  simp [bitOf, Nat.testBit_eq_decide_div_mod_eq]
  rfl

/-- A number below a power of two stays below it when a field below that power is set. -/
theorem setBits_lt {v hi lo x n : Nat} (h : lo ≤ hi) (hv : v < 2 ^ n) (hn : hi < n) : setBits v hi lo x < 2 ^ n := by
  apply Nat.lt_pow_two_of_testBit
  intro i hi'
  rw [testBit_setBits v x h, if_neg (by omega)]
  exact Nat.testBit_lt_two_pow (Nat.lt_of_lt_of_le hv (Nat.pow_le_pow_right (by decide) hi'))

end Sys2Proof.Machine
end

