-- ==== Sys2Proof/Laws/State.lean ====
section
/-!
SUPPORT. What each update of the device leaves alone, field by field, and what it sets.
-/

namespace Sys2Proof.Machine

variable (d : Dev)

@[simp] theorem Dev.wr_mem (off v : Nat) : (d.wr off v).mem = d.mem := rfl
@[simp] theorem Dev.wr_info (off v : Nat) : (d.wr off v).info = d.info := rfl
@[simp] theorem Dev.wr_upsets (off v : Nat) : (d.wr off v).upsets = d.upsets := rfl
@[simp] theorem Dev.wr_parity (off v : Nat) : (d.wr off v).parity = d.parity := rfl
@[simp] theorem Dev.wr_bandPol (off v : Nat) : (d.wr off v).bandPol = d.bandPol := rfl
@[simp] theorem Dev.wr_cores (off v : Nat) : (d.wr off v).cores = d.cores := rfl
@[simp] theorem Dev.wr_islands (off v : Nat) : (d.wr off v).islands = d.islands := rfl
@[simp] theorem Dev.wr_pus (off v : Nat) : (d.wr off v).pus = d.pus := rfl
@[simp] theorem Dev.wr_queues (off v : Nat) : (d.wr off v).queues = d.queues := rfl
@[simp] theorem Dev.wr_locks (off v : Nat) : (d.wr off v).locks = d.locks := rfl
@[simp] theorem Dev.wr_postNet (off v : Nat) : (d.wr off v).postNet = d.postNet := rfl
@[simp] theorem Dev.wr_ackNet (off v : Nat) : (d.wr off v).ackNet = d.ackNet := rfl
@[simp] theorem Dev.wr_sigNet (off v : Nat) : (d.wr off v).sigNet = d.sigNet := rfl
@[simp] theorem Dev.wr_irqNet (off v : Nat) : (d.wr off v).irqNet = d.irqNet := rfl
@[simp] theorem Dev.wr_regNet (off v : Nat) : (d.wr off v).regNet = d.regNet := rfl
@[simp] theorem Dev.wr_epochBase (off v : Nat) : (d.wr off v).epochBase = d.epochBase := rfl
@[simp] theorem Dev.wr_nextPost (off v : Nat) : (d.wr off v).nextPost = d.nextPost := rfl
@[simp] theorem Dev.wr_sn (off v : Nat) : (d.wr off v).sn = d.sn := rfl
@[simp] theorem Dev.wr_cal (off v : Nat) : (d.wr off v).cal = d.cal := rfl
@[simp] theorem Dev.wr_hub (off v : Nat) : (d.wr off v).hub = d.hub := rfl
@[simp] theorem Dev.wr_cust (off v : Nat) : (d.wr off v).cust = d.cust := rfl
@[simp] theorem Dev.wr_board (off v : Nat) : (d.wr off v).board = d.board := rfl
@[simp] theorem Dev.wr_pf0 (off v : Nat) : (d.wr off v).pf0 = d.pf0 := rfl
@[simp] theorem Dev.wr_pf1 (off v : Nat) : (d.wr off v).pf1 = d.pf1 := rfl
@[simp] theorem Dev.wr_peers (off v : Nat) : (d.wr off v).peers = d.peers := rfl
@[simp] theorem Dev.wr_farHeld (off v : Nat) : (d.wr off v).farHeld = d.farHeld := rfl
@[simp] theorem Dev.wr_scrubAt (off v : Nat) : (d.wr off v).scrubAt = d.scrubAt := rfl
@[simp] theorem Dev.wr_c192 (off v : Nat) : (d.wr off v).c192 = d.c192 := rfl
@[simp] theorem Dev.wr_xgrade (off v : Nat) : (d.wr off v).xgrade = d.xgrade := rfl
@[simp] theorem Dev.wr_serial (off v : Nat) : (d.wr off v).serial = d.serial := rfl
@[simp] theorem Dev.wr_dbglock (off v : Nat) : (d.wr off v).dbglock = d.dbglock := rfl
@[simp] theorem Dev.wr_out (off v : Nat) : (d.wr off v).out = d.out := rfl
@[simp] theorem Dev.wr_free (off v : Nat) : (d.wr off v).free = d.free := rfl
@[simp] theorem Dev.wr_now (off v : Nat) : (d.wr off v).now = d.now := rfl

@[simp] theorem Dev.setFld_mem (off hi lo v : Nat) : (d.setFld off hi lo v).mem = d.mem := rfl
@[simp] theorem Dev.setFld_info (off hi lo v : Nat) : (d.setFld off hi lo v).info = d.info := rfl
@[simp] theorem Dev.setFld_upsets (off hi lo v : Nat) : (d.setFld off hi lo v).upsets = d.upsets := rfl
@[simp] theorem Dev.setFld_parity (off hi lo v : Nat) : (d.setFld off hi lo v).parity = d.parity := rfl
@[simp] theorem Dev.setFld_bandPol (off hi lo v : Nat) : (d.setFld off hi lo v).bandPol = d.bandPol := rfl
@[simp] theorem Dev.setFld_cores (off hi lo v : Nat) : (d.setFld off hi lo v).cores = d.cores := rfl
@[simp] theorem Dev.setFld_islands (off hi lo v : Nat) : (d.setFld off hi lo v).islands = d.islands := rfl
@[simp] theorem Dev.setFld_pus (off hi lo v : Nat) : (d.setFld off hi lo v).pus = d.pus := rfl
@[simp] theorem Dev.setFld_queues (off hi lo v : Nat) : (d.setFld off hi lo v).queues = d.queues := rfl
@[simp] theorem Dev.setFld_locks (off hi lo v : Nat) : (d.setFld off hi lo v).locks = d.locks := rfl
@[simp] theorem Dev.setFld_postNet (off hi lo v : Nat) : (d.setFld off hi lo v).postNet = d.postNet := rfl
@[simp] theorem Dev.setFld_ackNet (off hi lo v : Nat) : (d.setFld off hi lo v).ackNet = d.ackNet := rfl
@[simp] theorem Dev.setFld_sigNet (off hi lo v : Nat) : (d.setFld off hi lo v).sigNet = d.sigNet := rfl
@[simp] theorem Dev.setFld_irqNet (off hi lo v : Nat) : (d.setFld off hi lo v).irqNet = d.irqNet := rfl
@[simp] theorem Dev.setFld_regNet (off hi lo v : Nat) : (d.setFld off hi lo v).regNet = d.regNet := rfl
@[simp] theorem Dev.setFld_epochBase (off hi lo v : Nat) : (d.setFld off hi lo v).epochBase = d.epochBase := rfl
@[simp] theorem Dev.setFld_nextPost (off hi lo v : Nat) : (d.setFld off hi lo v).nextPost = d.nextPost := rfl
@[simp] theorem Dev.setFld_sn (off hi lo v : Nat) : (d.setFld off hi lo v).sn = d.sn := rfl
@[simp] theorem Dev.setFld_cal (off hi lo v : Nat) : (d.setFld off hi lo v).cal = d.cal := rfl
@[simp] theorem Dev.setFld_hub (off hi lo v : Nat) : (d.setFld off hi lo v).hub = d.hub := rfl
@[simp] theorem Dev.setFld_cust (off hi lo v : Nat) : (d.setFld off hi lo v).cust = d.cust := rfl
@[simp] theorem Dev.setFld_board (off hi lo v : Nat) : (d.setFld off hi lo v).board = d.board := rfl
@[simp] theorem Dev.setFld_pf0 (off hi lo v : Nat) : (d.setFld off hi lo v).pf0 = d.pf0 := rfl
@[simp] theorem Dev.setFld_pf1 (off hi lo v : Nat) : (d.setFld off hi lo v).pf1 = d.pf1 := rfl
@[simp] theorem Dev.setFld_peers (off hi lo v : Nat) : (d.setFld off hi lo v).peers = d.peers := rfl
@[simp] theorem Dev.setFld_farHeld (off hi lo v : Nat) : (d.setFld off hi lo v).farHeld = d.farHeld := rfl
@[simp] theorem Dev.setFld_scrubAt (off hi lo v : Nat) : (d.setFld off hi lo v).scrubAt = d.scrubAt := rfl
@[simp] theorem Dev.setFld_c192 (off hi lo v : Nat) : (d.setFld off hi lo v).c192 = d.c192 := rfl
@[simp] theorem Dev.setFld_xgrade (off hi lo v : Nat) : (d.setFld off hi lo v).xgrade = d.xgrade := rfl
@[simp] theorem Dev.setFld_serial (off hi lo v : Nat) : (d.setFld off hi lo v).serial = d.serial := rfl
@[simp] theorem Dev.setFld_dbglock (off hi lo v : Nat) : (d.setFld off hi lo v).dbglock = d.dbglock := rfl
@[simp] theorem Dev.setFld_out (off hi lo v : Nat) : (d.setFld off hi lo v).out = d.out := rfl
@[simp] theorem Dev.setFld_free (off hi lo v : Nat) : (d.setFld off hi lo v).free = d.free := rfl
@[simp] theorem Dev.setFld_now (off hi lo v : Nat) : (d.setFld off hi lo v).now = d.now := rfl

@[simp] theorem Dev.setBit_mem (off b : Nat) (v : Bool) : (d.setBit off b v).mem = d.mem := rfl
@[simp] theorem Dev.setBit_info (off b : Nat) (v : Bool) : (d.setBit off b v).info = d.info := rfl
@[simp] theorem Dev.setBit_upsets (off b : Nat) (v : Bool) : (d.setBit off b v).upsets = d.upsets := rfl
@[simp] theorem Dev.setBit_parity (off b : Nat) (v : Bool) : (d.setBit off b v).parity = d.parity := rfl
@[simp] theorem Dev.setBit_bandPol (off b : Nat) (v : Bool) : (d.setBit off b v).bandPol = d.bandPol := rfl
@[simp] theorem Dev.setBit_cores (off b : Nat) (v : Bool) : (d.setBit off b v).cores = d.cores := rfl
@[simp] theorem Dev.setBit_islands (off b : Nat) (v : Bool) : (d.setBit off b v).islands = d.islands := rfl
@[simp] theorem Dev.setBit_pus (off b : Nat) (v : Bool) : (d.setBit off b v).pus = d.pus := rfl
@[simp] theorem Dev.setBit_queues (off b : Nat) (v : Bool) : (d.setBit off b v).queues = d.queues := rfl
@[simp] theorem Dev.setBit_locks (off b : Nat) (v : Bool) : (d.setBit off b v).locks = d.locks := rfl
@[simp] theorem Dev.setBit_postNet (off b : Nat) (v : Bool) : (d.setBit off b v).postNet = d.postNet := rfl
@[simp] theorem Dev.setBit_ackNet (off b : Nat) (v : Bool) : (d.setBit off b v).ackNet = d.ackNet := rfl
@[simp] theorem Dev.setBit_sigNet (off b : Nat) (v : Bool) : (d.setBit off b v).sigNet = d.sigNet := rfl
@[simp] theorem Dev.setBit_irqNet (off b : Nat) (v : Bool) : (d.setBit off b v).irqNet = d.irqNet := rfl
@[simp] theorem Dev.setBit_regNet (off b : Nat) (v : Bool) : (d.setBit off b v).regNet = d.regNet := rfl
@[simp] theorem Dev.setBit_epochBase (off b : Nat) (v : Bool) : (d.setBit off b v).epochBase = d.epochBase := rfl
@[simp] theorem Dev.setBit_nextPost (off b : Nat) (v : Bool) : (d.setBit off b v).nextPost = d.nextPost := rfl
@[simp] theorem Dev.setBit_sn (off b : Nat) (v : Bool) : (d.setBit off b v).sn = d.sn := rfl
@[simp] theorem Dev.setBit_cal (off b : Nat) (v : Bool) : (d.setBit off b v).cal = d.cal := rfl
@[simp] theorem Dev.setBit_hub (off b : Nat) (v : Bool) : (d.setBit off b v).hub = d.hub := rfl
@[simp] theorem Dev.setBit_cust (off b : Nat) (v : Bool) : (d.setBit off b v).cust = d.cust := rfl
@[simp] theorem Dev.setBit_board (off b : Nat) (v : Bool) : (d.setBit off b v).board = d.board := rfl
@[simp] theorem Dev.setBit_pf0 (off b : Nat) (v : Bool) : (d.setBit off b v).pf0 = d.pf0 := rfl
@[simp] theorem Dev.setBit_pf1 (off b : Nat) (v : Bool) : (d.setBit off b v).pf1 = d.pf1 := rfl
@[simp] theorem Dev.setBit_peers (off b : Nat) (v : Bool) : (d.setBit off b v).peers = d.peers := rfl
@[simp] theorem Dev.setBit_farHeld (off b : Nat) (v : Bool) : (d.setBit off b v).farHeld = d.farHeld := rfl
@[simp] theorem Dev.setBit_scrubAt (off b : Nat) (v : Bool) : (d.setBit off b v).scrubAt = d.scrubAt := rfl
@[simp] theorem Dev.setBit_c192 (off b : Nat) (v : Bool) : (d.setBit off b v).c192 = d.c192 := rfl
@[simp] theorem Dev.setBit_xgrade (off b : Nat) (v : Bool) : (d.setBit off b v).xgrade = d.xgrade := rfl
@[simp] theorem Dev.setBit_serial (off b : Nat) (v : Bool) : (d.setBit off b v).serial = d.serial := rfl
@[simp] theorem Dev.setBit_dbglock (off b : Nat) (v : Bool) : (d.setBit off b v).dbglock = d.dbglock := rfl
@[simp] theorem Dev.setBit_out (off b : Nat) (v : Bool) : (d.setBit off b v).out = d.out := rfl
@[simp] theorem Dev.setBit_free (off b : Nat) (v : Bool) : (d.setBit off b v).free = d.free := rfl
@[simp] theorem Dev.setBit_now (off b : Nat) (v : Bool) : (d.setBit off b v).now = d.now := rfl

@[simp] theorem Dev.addSat_mem (off hi lo n : Nat) : (d.addSat off hi lo n).mem = d.mem := rfl
@[simp] theorem Dev.addSat_info (off hi lo n : Nat) : (d.addSat off hi lo n).info = d.info := rfl
@[simp] theorem Dev.addSat_upsets (off hi lo n : Nat) : (d.addSat off hi lo n).upsets = d.upsets := rfl
@[simp] theorem Dev.addSat_parity (off hi lo n : Nat) : (d.addSat off hi lo n).parity = d.parity := rfl
@[simp] theorem Dev.addSat_bandPol (off hi lo n : Nat) : (d.addSat off hi lo n).bandPol = d.bandPol := rfl
@[simp] theorem Dev.addSat_cores (off hi lo n : Nat) : (d.addSat off hi lo n).cores = d.cores := rfl
@[simp] theorem Dev.addSat_islands (off hi lo n : Nat) : (d.addSat off hi lo n).islands = d.islands := rfl
@[simp] theorem Dev.addSat_pus (off hi lo n : Nat) : (d.addSat off hi lo n).pus = d.pus := rfl
@[simp] theorem Dev.addSat_queues (off hi lo n : Nat) : (d.addSat off hi lo n).queues = d.queues := rfl
@[simp] theorem Dev.addSat_locks (off hi lo n : Nat) : (d.addSat off hi lo n).locks = d.locks := rfl
@[simp] theorem Dev.addSat_postNet (off hi lo n : Nat) : (d.addSat off hi lo n).postNet = d.postNet := rfl
@[simp] theorem Dev.addSat_ackNet (off hi lo n : Nat) : (d.addSat off hi lo n).ackNet = d.ackNet := rfl
@[simp] theorem Dev.addSat_sigNet (off hi lo n : Nat) : (d.addSat off hi lo n).sigNet = d.sigNet := rfl
@[simp] theorem Dev.addSat_irqNet (off hi lo n : Nat) : (d.addSat off hi lo n).irqNet = d.irqNet := rfl
@[simp] theorem Dev.addSat_regNet (off hi lo n : Nat) : (d.addSat off hi lo n).regNet = d.regNet := rfl
@[simp] theorem Dev.addSat_epochBase (off hi lo n : Nat) : (d.addSat off hi lo n).epochBase = d.epochBase := rfl
@[simp] theorem Dev.addSat_nextPost (off hi lo n : Nat) : (d.addSat off hi lo n).nextPost = d.nextPost := rfl
@[simp] theorem Dev.addSat_sn (off hi lo n : Nat) : (d.addSat off hi lo n).sn = d.sn := rfl
@[simp] theorem Dev.addSat_cal (off hi lo n : Nat) : (d.addSat off hi lo n).cal = d.cal := rfl
@[simp] theorem Dev.addSat_hub (off hi lo n : Nat) : (d.addSat off hi lo n).hub = d.hub := rfl
@[simp] theorem Dev.addSat_cust (off hi lo n : Nat) : (d.addSat off hi lo n).cust = d.cust := rfl
@[simp] theorem Dev.addSat_board (off hi lo n : Nat) : (d.addSat off hi lo n).board = d.board := rfl
@[simp] theorem Dev.addSat_pf0 (off hi lo n : Nat) : (d.addSat off hi lo n).pf0 = d.pf0 := rfl
@[simp] theorem Dev.addSat_pf1 (off hi lo n : Nat) : (d.addSat off hi lo n).pf1 = d.pf1 := rfl
@[simp] theorem Dev.addSat_peers (off hi lo n : Nat) : (d.addSat off hi lo n).peers = d.peers := rfl
@[simp] theorem Dev.addSat_farHeld (off hi lo n : Nat) : (d.addSat off hi lo n).farHeld = d.farHeld := rfl
@[simp] theorem Dev.addSat_scrubAt (off hi lo n : Nat) : (d.addSat off hi lo n).scrubAt = d.scrubAt := rfl
@[simp] theorem Dev.addSat_c192 (off hi lo n : Nat) : (d.addSat off hi lo n).c192 = d.c192 := rfl
@[simp] theorem Dev.addSat_xgrade (off hi lo n : Nat) : (d.addSat off hi lo n).xgrade = d.xgrade := rfl
@[simp] theorem Dev.addSat_serial (off hi lo n : Nat) : (d.addSat off hi lo n).serial = d.serial := rfl
@[simp] theorem Dev.addSat_dbglock (off hi lo n : Nat) : (d.addSat off hi lo n).dbglock = d.dbglock := rfl
@[simp] theorem Dev.addSat_out (off hi lo n : Nat) : (d.addSat off hi lo n).out = d.out := rfl
@[simp] theorem Dev.addSat_free (off hi lo n : Nat) : (d.addSat off hi lo n).free = d.free := rfl
@[simp] theorem Dev.addSat_now (off hi lo n : Nat) : (d.addSat off hi lo n).now = d.now := rfl

@[simp] theorem Dev.setCore_regs (c : Nat) (k : Core) : (d.setCore c k).regs = d.regs := rfl
@[simp] theorem Dev.setCore_mem (c : Nat) (k : Core) : (d.setCore c k).mem = d.mem := rfl
@[simp] theorem Dev.setCore_info (c : Nat) (k : Core) : (d.setCore c k).info = d.info := rfl
@[simp] theorem Dev.setCore_upsets (c : Nat) (k : Core) : (d.setCore c k).upsets = d.upsets := rfl
@[simp] theorem Dev.setCore_parity (c : Nat) (k : Core) : (d.setCore c k).parity = d.parity := rfl
@[simp] theorem Dev.setCore_bandPol (c : Nat) (k : Core) : (d.setCore c k).bandPol = d.bandPol := rfl
@[simp] theorem Dev.setCore_islands (c : Nat) (k : Core) : (d.setCore c k).islands = d.islands := rfl
@[simp] theorem Dev.setCore_pus (c : Nat) (k : Core) : (d.setCore c k).pus = d.pus := rfl
@[simp] theorem Dev.setCore_queues (c : Nat) (k : Core) : (d.setCore c k).queues = d.queues := rfl
@[simp] theorem Dev.setCore_locks (c : Nat) (k : Core) : (d.setCore c k).locks = d.locks := rfl
@[simp] theorem Dev.setCore_postNet (c : Nat) (k : Core) : (d.setCore c k).postNet = d.postNet := rfl
@[simp] theorem Dev.setCore_ackNet (c : Nat) (k : Core) : (d.setCore c k).ackNet = d.ackNet := rfl
@[simp] theorem Dev.setCore_sigNet (c : Nat) (k : Core) : (d.setCore c k).sigNet = d.sigNet := rfl
@[simp] theorem Dev.setCore_irqNet (c : Nat) (k : Core) : (d.setCore c k).irqNet = d.irqNet := rfl
@[simp] theorem Dev.setCore_regNet (c : Nat) (k : Core) : (d.setCore c k).regNet = d.regNet := rfl
@[simp] theorem Dev.setCore_epochBase (c : Nat) (k : Core) : (d.setCore c k).epochBase = d.epochBase := rfl
@[simp] theorem Dev.setCore_nextPost (c : Nat) (k : Core) : (d.setCore c k).nextPost = d.nextPost := rfl
@[simp] theorem Dev.setCore_sn (c : Nat) (k : Core) : (d.setCore c k).sn = d.sn := rfl
@[simp] theorem Dev.setCore_cal (c : Nat) (k : Core) : (d.setCore c k).cal = d.cal := rfl
@[simp] theorem Dev.setCore_hub (c : Nat) (k : Core) : (d.setCore c k).hub = d.hub := rfl
@[simp] theorem Dev.setCore_cust (c : Nat) (k : Core) : (d.setCore c k).cust = d.cust := rfl
@[simp] theorem Dev.setCore_board (c : Nat) (k : Core) : (d.setCore c k).board = d.board := rfl
@[simp] theorem Dev.setCore_pf0 (c : Nat) (k : Core) : (d.setCore c k).pf0 = d.pf0 := rfl
@[simp] theorem Dev.setCore_pf1 (c : Nat) (k : Core) : (d.setCore c k).pf1 = d.pf1 := rfl
@[simp] theorem Dev.setCore_peers (c : Nat) (k : Core) : (d.setCore c k).peers = d.peers := rfl
@[simp] theorem Dev.setCore_farHeld (c : Nat) (k : Core) : (d.setCore c k).farHeld = d.farHeld := rfl
@[simp] theorem Dev.setCore_scrubAt (c : Nat) (k : Core) : (d.setCore c k).scrubAt = d.scrubAt := rfl
@[simp] theorem Dev.setCore_c192 (c : Nat) (k : Core) : (d.setCore c k).c192 = d.c192 := rfl
@[simp] theorem Dev.setCore_xgrade (c : Nat) (k : Core) : (d.setCore c k).xgrade = d.xgrade := rfl
@[simp] theorem Dev.setCore_serial (c : Nat) (k : Core) : (d.setCore c k).serial = d.serial := rfl
@[simp] theorem Dev.setCore_dbglock (c : Nat) (k : Core) : (d.setCore c k).dbglock = d.dbglock := rfl
@[simp] theorem Dev.setCore_out (c : Nat) (k : Core) : (d.setCore c k).out = d.out := rfl
@[simp] theorem Dev.setCore_free (c : Nat) (k : Core) : (d.setCore c k).free = d.free := rfl
@[simp] theorem Dev.setCore_now (c : Nat) (k : Core) : (d.setCore c k).now = d.now := rfl

@[simp] theorem Dev.updCore_regs (c : Nat) (f : Core → Core) : (d.updCore c f).regs = d.regs := rfl
@[simp] theorem Dev.updCore_mem (c : Nat) (f : Core → Core) : (d.updCore c f).mem = d.mem := rfl
@[simp] theorem Dev.updCore_info (c : Nat) (f : Core → Core) : (d.updCore c f).info = d.info := rfl
@[simp] theorem Dev.updCore_upsets (c : Nat) (f : Core → Core) : (d.updCore c f).upsets = d.upsets := rfl
@[simp] theorem Dev.updCore_parity (c : Nat) (f : Core → Core) : (d.updCore c f).parity = d.parity := rfl
@[simp] theorem Dev.updCore_bandPol (c : Nat) (f : Core → Core) : (d.updCore c f).bandPol = d.bandPol := rfl
@[simp] theorem Dev.updCore_islands (c : Nat) (f : Core → Core) : (d.updCore c f).islands = d.islands := rfl
@[simp] theorem Dev.updCore_pus (c : Nat) (f : Core → Core) : (d.updCore c f).pus = d.pus := rfl
@[simp] theorem Dev.updCore_queues (c : Nat) (f : Core → Core) : (d.updCore c f).queues = d.queues := rfl
@[simp] theorem Dev.updCore_locks (c : Nat) (f : Core → Core) : (d.updCore c f).locks = d.locks := rfl
@[simp] theorem Dev.updCore_postNet (c : Nat) (f : Core → Core) : (d.updCore c f).postNet = d.postNet := rfl
@[simp] theorem Dev.updCore_ackNet (c : Nat) (f : Core → Core) : (d.updCore c f).ackNet = d.ackNet := rfl
@[simp] theorem Dev.updCore_sigNet (c : Nat) (f : Core → Core) : (d.updCore c f).sigNet = d.sigNet := rfl
@[simp] theorem Dev.updCore_irqNet (c : Nat) (f : Core → Core) : (d.updCore c f).irqNet = d.irqNet := rfl
@[simp] theorem Dev.updCore_regNet (c : Nat) (f : Core → Core) : (d.updCore c f).regNet = d.regNet := rfl
@[simp] theorem Dev.updCore_epochBase (c : Nat) (f : Core → Core) : (d.updCore c f).epochBase = d.epochBase := rfl
@[simp] theorem Dev.updCore_nextPost (c : Nat) (f : Core → Core) : (d.updCore c f).nextPost = d.nextPost := rfl
@[simp] theorem Dev.updCore_sn (c : Nat) (f : Core → Core) : (d.updCore c f).sn = d.sn := rfl
@[simp] theorem Dev.updCore_cal (c : Nat) (f : Core → Core) : (d.updCore c f).cal = d.cal := rfl
@[simp] theorem Dev.updCore_hub (c : Nat) (f : Core → Core) : (d.updCore c f).hub = d.hub := rfl
@[simp] theorem Dev.updCore_cust (c : Nat) (f : Core → Core) : (d.updCore c f).cust = d.cust := rfl
@[simp] theorem Dev.updCore_board (c : Nat) (f : Core → Core) : (d.updCore c f).board = d.board := rfl
@[simp] theorem Dev.updCore_pf0 (c : Nat) (f : Core → Core) : (d.updCore c f).pf0 = d.pf0 := rfl
@[simp] theorem Dev.updCore_pf1 (c : Nat) (f : Core → Core) : (d.updCore c f).pf1 = d.pf1 := rfl
@[simp] theorem Dev.updCore_peers (c : Nat) (f : Core → Core) : (d.updCore c f).peers = d.peers := rfl
@[simp] theorem Dev.updCore_farHeld (c : Nat) (f : Core → Core) : (d.updCore c f).farHeld = d.farHeld := rfl
@[simp] theorem Dev.updCore_scrubAt (c : Nat) (f : Core → Core) : (d.updCore c f).scrubAt = d.scrubAt := rfl
@[simp] theorem Dev.updCore_c192 (c : Nat) (f : Core → Core) : (d.updCore c f).c192 = d.c192 := rfl
@[simp] theorem Dev.updCore_xgrade (c : Nat) (f : Core → Core) : (d.updCore c f).xgrade = d.xgrade := rfl
@[simp] theorem Dev.updCore_serial (c : Nat) (f : Core → Core) : (d.updCore c f).serial = d.serial := rfl
@[simp] theorem Dev.updCore_dbglock (c : Nat) (f : Core → Core) : (d.updCore c f).dbglock = d.dbglock := rfl
@[simp] theorem Dev.updCore_out (c : Nat) (f : Core → Core) : (d.updCore c f).out = d.out := rfl
@[simp] theorem Dev.updCore_free (c : Nat) (f : Core → Core) : (d.updCore c f).free = d.free := rfl
@[simp] theorem Dev.updCore_now (c : Nat) (f : Core → Core) : (d.updCore c f).now = d.now := rfl

@[simp] theorem Dev.updIsl_regs (i : Nat) (f : Island → Island) : (d.updIsl i f).regs = d.regs := rfl
@[simp] theorem Dev.updIsl_mem (i : Nat) (f : Island → Island) : (d.updIsl i f).mem = d.mem := rfl
@[simp] theorem Dev.updIsl_info (i : Nat) (f : Island → Island) : (d.updIsl i f).info = d.info := rfl
@[simp] theorem Dev.updIsl_upsets (i : Nat) (f : Island → Island) : (d.updIsl i f).upsets = d.upsets := rfl
@[simp] theorem Dev.updIsl_parity (i : Nat) (f : Island → Island) : (d.updIsl i f).parity = d.parity := rfl
@[simp] theorem Dev.updIsl_bandPol (i : Nat) (f : Island → Island) : (d.updIsl i f).bandPol = d.bandPol := rfl
@[simp] theorem Dev.updIsl_cores (i : Nat) (f : Island → Island) : (d.updIsl i f).cores = d.cores := rfl
@[simp] theorem Dev.updIsl_pus (i : Nat) (f : Island → Island) : (d.updIsl i f).pus = d.pus := rfl
@[simp] theorem Dev.updIsl_queues (i : Nat) (f : Island → Island) : (d.updIsl i f).queues = d.queues := rfl
@[simp] theorem Dev.updIsl_locks (i : Nat) (f : Island → Island) : (d.updIsl i f).locks = d.locks := rfl
@[simp] theorem Dev.updIsl_postNet (i : Nat) (f : Island → Island) : (d.updIsl i f).postNet = d.postNet := rfl
@[simp] theorem Dev.updIsl_ackNet (i : Nat) (f : Island → Island) : (d.updIsl i f).ackNet = d.ackNet := rfl
@[simp] theorem Dev.updIsl_sigNet (i : Nat) (f : Island → Island) : (d.updIsl i f).sigNet = d.sigNet := rfl
@[simp] theorem Dev.updIsl_irqNet (i : Nat) (f : Island → Island) : (d.updIsl i f).irqNet = d.irqNet := rfl
@[simp] theorem Dev.updIsl_regNet (i : Nat) (f : Island → Island) : (d.updIsl i f).regNet = d.regNet := rfl
@[simp] theorem Dev.updIsl_epochBase (i : Nat) (f : Island → Island) : (d.updIsl i f).epochBase = d.epochBase := rfl
@[simp] theorem Dev.updIsl_nextPost (i : Nat) (f : Island → Island) : (d.updIsl i f).nextPost = d.nextPost := rfl
@[simp] theorem Dev.updIsl_sn (i : Nat) (f : Island → Island) : (d.updIsl i f).sn = d.sn := rfl
@[simp] theorem Dev.updIsl_cal (i : Nat) (f : Island → Island) : (d.updIsl i f).cal = d.cal := rfl
@[simp] theorem Dev.updIsl_hub (i : Nat) (f : Island → Island) : (d.updIsl i f).hub = d.hub := rfl
@[simp] theorem Dev.updIsl_cust (i : Nat) (f : Island → Island) : (d.updIsl i f).cust = d.cust := rfl
@[simp] theorem Dev.updIsl_board (i : Nat) (f : Island → Island) : (d.updIsl i f).board = d.board := rfl
@[simp] theorem Dev.updIsl_pf0 (i : Nat) (f : Island → Island) : (d.updIsl i f).pf0 = d.pf0 := rfl
@[simp] theorem Dev.updIsl_pf1 (i : Nat) (f : Island → Island) : (d.updIsl i f).pf1 = d.pf1 := rfl
@[simp] theorem Dev.updIsl_peers (i : Nat) (f : Island → Island) : (d.updIsl i f).peers = d.peers := rfl
@[simp] theorem Dev.updIsl_farHeld (i : Nat) (f : Island → Island) : (d.updIsl i f).farHeld = d.farHeld := rfl
@[simp] theorem Dev.updIsl_scrubAt (i : Nat) (f : Island → Island) : (d.updIsl i f).scrubAt = d.scrubAt := rfl
@[simp] theorem Dev.updIsl_c192 (i : Nat) (f : Island → Island) : (d.updIsl i f).c192 = d.c192 := rfl
@[simp] theorem Dev.updIsl_xgrade (i : Nat) (f : Island → Island) : (d.updIsl i f).xgrade = d.xgrade := rfl
@[simp] theorem Dev.updIsl_serial (i : Nat) (f : Island → Island) : (d.updIsl i f).serial = d.serial := rfl
@[simp] theorem Dev.updIsl_dbglock (i : Nat) (f : Island → Island) : (d.updIsl i f).dbglock = d.dbglock := rfl
@[simp] theorem Dev.updIsl_out (i : Nat) (f : Island → Island) : (d.updIsl i f).out = d.out := rfl
@[simp] theorem Dev.updIsl_free (i : Nat) (f : Island → Island) : (d.updIsl i f).free = d.free := rfl
@[simp] theorem Dev.updIsl_now (i : Nat) (f : Island → Island) : (d.updIsl i f).now = d.now := rfl

@[simp] theorem Dev.updQueue_regs (q : Nat) (f : Queue → Queue) : (d.updQueue q f).regs = d.regs := rfl
@[simp] theorem Dev.updQueue_mem (q : Nat) (f : Queue → Queue) : (d.updQueue q f).mem = d.mem := rfl
@[simp] theorem Dev.updQueue_info (q : Nat) (f : Queue → Queue) : (d.updQueue q f).info = d.info := rfl
@[simp] theorem Dev.updQueue_upsets (q : Nat) (f : Queue → Queue) : (d.updQueue q f).upsets = d.upsets := rfl
@[simp] theorem Dev.updQueue_parity (q : Nat) (f : Queue → Queue) : (d.updQueue q f).parity = d.parity := rfl
@[simp] theorem Dev.updQueue_bandPol (q : Nat) (f : Queue → Queue) : (d.updQueue q f).bandPol = d.bandPol := rfl
@[simp] theorem Dev.updQueue_cores (q : Nat) (f : Queue → Queue) : (d.updQueue q f).cores = d.cores := rfl
@[simp] theorem Dev.updQueue_islands (q : Nat) (f : Queue → Queue) : (d.updQueue q f).islands = d.islands := rfl
@[simp] theorem Dev.updQueue_pus (q : Nat) (f : Queue → Queue) : (d.updQueue q f).pus = d.pus := rfl
@[simp] theorem Dev.updQueue_locks (q : Nat) (f : Queue → Queue) : (d.updQueue q f).locks = d.locks := rfl
@[simp] theorem Dev.updQueue_postNet (q : Nat) (f : Queue → Queue) : (d.updQueue q f).postNet = d.postNet := rfl
@[simp] theorem Dev.updQueue_ackNet (q : Nat) (f : Queue → Queue) : (d.updQueue q f).ackNet = d.ackNet := rfl
@[simp] theorem Dev.updQueue_sigNet (q : Nat) (f : Queue → Queue) : (d.updQueue q f).sigNet = d.sigNet := rfl
@[simp] theorem Dev.updQueue_irqNet (q : Nat) (f : Queue → Queue) : (d.updQueue q f).irqNet = d.irqNet := rfl
@[simp] theorem Dev.updQueue_regNet (q : Nat) (f : Queue → Queue) : (d.updQueue q f).regNet = d.regNet := rfl
@[simp] theorem Dev.updQueue_epochBase (q : Nat) (f : Queue → Queue) : (d.updQueue q f).epochBase = d.epochBase := rfl
@[simp] theorem Dev.updQueue_nextPost (q : Nat) (f : Queue → Queue) : (d.updQueue q f).nextPost = d.nextPost := rfl
@[simp] theorem Dev.updQueue_sn (q : Nat) (f : Queue → Queue) : (d.updQueue q f).sn = d.sn := rfl
@[simp] theorem Dev.updQueue_cal (q : Nat) (f : Queue → Queue) : (d.updQueue q f).cal = d.cal := rfl
@[simp] theorem Dev.updQueue_hub (q : Nat) (f : Queue → Queue) : (d.updQueue q f).hub = d.hub := rfl
@[simp] theorem Dev.updQueue_cust (q : Nat) (f : Queue → Queue) : (d.updQueue q f).cust = d.cust := rfl
@[simp] theorem Dev.updQueue_board (q : Nat) (f : Queue → Queue) : (d.updQueue q f).board = d.board := rfl
@[simp] theorem Dev.updQueue_pf0 (q : Nat) (f : Queue → Queue) : (d.updQueue q f).pf0 = d.pf0 := rfl
@[simp] theorem Dev.updQueue_pf1 (q : Nat) (f : Queue → Queue) : (d.updQueue q f).pf1 = d.pf1 := rfl
@[simp] theorem Dev.updQueue_peers (q : Nat) (f : Queue → Queue) : (d.updQueue q f).peers = d.peers := rfl
@[simp] theorem Dev.updQueue_farHeld (q : Nat) (f : Queue → Queue) : (d.updQueue q f).farHeld = d.farHeld := rfl
@[simp] theorem Dev.updQueue_scrubAt (q : Nat) (f : Queue → Queue) : (d.updQueue q f).scrubAt = d.scrubAt := rfl
@[simp] theorem Dev.updQueue_c192 (q : Nat) (f : Queue → Queue) : (d.updQueue q f).c192 = d.c192 := rfl
@[simp] theorem Dev.updQueue_xgrade (q : Nat) (f : Queue → Queue) : (d.updQueue q f).xgrade = d.xgrade := rfl
@[simp] theorem Dev.updQueue_serial (q : Nat) (f : Queue → Queue) : (d.updQueue q f).serial = d.serial := rfl
@[simp] theorem Dev.updQueue_dbglock (q : Nat) (f : Queue → Queue) : (d.updQueue q f).dbglock = d.dbglock := rfl
@[simp] theorem Dev.updQueue_out (q : Nat) (f : Queue → Queue) : (d.updQueue q f).out = d.out := rfl
@[simp] theorem Dev.updQueue_free (q : Nat) (f : Queue → Queue) : (d.updQueue q f).free = d.free := rfl
@[simp] theorem Dev.updQueue_now (q : Nat) (f : Queue → Queue) : (d.updQueue q f).now = d.now := rfl

@[simp] theorem Dev.send_regs (o : Out) : (d.send o).regs = d.regs := rfl
@[simp] theorem Dev.send_mem (o : Out) : (d.send o).mem = d.mem := rfl
@[simp] theorem Dev.send_info (o : Out) : (d.send o).info = d.info := rfl
@[simp] theorem Dev.send_upsets (o : Out) : (d.send o).upsets = d.upsets := rfl
@[simp] theorem Dev.send_parity (o : Out) : (d.send o).parity = d.parity := rfl
@[simp] theorem Dev.send_bandPol (o : Out) : (d.send o).bandPol = d.bandPol := rfl
@[simp] theorem Dev.send_cores (o : Out) : (d.send o).cores = d.cores := rfl
@[simp] theorem Dev.send_islands (o : Out) : (d.send o).islands = d.islands := rfl
@[simp] theorem Dev.send_pus (o : Out) : (d.send o).pus = d.pus := rfl
@[simp] theorem Dev.send_queues (o : Out) : (d.send o).queues = d.queues := rfl
@[simp] theorem Dev.send_locks (o : Out) : (d.send o).locks = d.locks := rfl
@[simp] theorem Dev.send_postNet (o : Out) : (d.send o).postNet = d.postNet := rfl
@[simp] theorem Dev.send_ackNet (o : Out) : (d.send o).ackNet = d.ackNet := rfl
@[simp] theorem Dev.send_sigNet (o : Out) : (d.send o).sigNet = d.sigNet := rfl
@[simp] theorem Dev.send_irqNet (o : Out) : (d.send o).irqNet = d.irqNet := rfl
@[simp] theorem Dev.send_regNet (o : Out) : (d.send o).regNet = d.regNet := rfl
@[simp] theorem Dev.send_epochBase (o : Out) : (d.send o).epochBase = d.epochBase := rfl
@[simp] theorem Dev.send_nextPost (o : Out) : (d.send o).nextPost = d.nextPost := rfl
@[simp] theorem Dev.send_sn (o : Out) : (d.send o).sn = d.sn := rfl
@[simp] theorem Dev.send_cal (o : Out) : (d.send o).cal = d.cal := rfl
@[simp] theorem Dev.send_hub (o : Out) : (d.send o).hub = d.hub := rfl
@[simp] theorem Dev.send_cust (o : Out) : (d.send o).cust = d.cust := rfl
@[simp] theorem Dev.send_board (o : Out) : (d.send o).board = d.board := rfl
@[simp] theorem Dev.send_pf0 (o : Out) : (d.send o).pf0 = d.pf0 := rfl
@[simp] theorem Dev.send_pf1 (o : Out) : (d.send o).pf1 = d.pf1 := rfl
@[simp] theorem Dev.send_peers (o : Out) : (d.send o).peers = d.peers := rfl
@[simp] theorem Dev.send_farHeld (o : Out) : (d.send o).farHeld = d.farHeld := rfl
@[simp] theorem Dev.send_scrubAt (o : Out) : (d.send o).scrubAt = d.scrubAt := rfl
@[simp] theorem Dev.send_c192 (o : Out) : (d.send o).c192 = d.c192 := rfl
@[simp] theorem Dev.send_xgrade (o : Out) : (d.send o).xgrade = d.xgrade := rfl
@[simp] theorem Dev.send_serial (o : Out) : (d.send o).serial = d.serial := rfl
@[simp] theorem Dev.send_dbglock (o : Out) : (d.send o).dbglock = d.dbglock := rfl
@[simp] theorem Dev.send_free (o : Out) : (d.send o).free = d.free := rfl
@[simp] theorem Dev.send_now (o : Out) : (d.send o).now = d.now := rfl

@[simp] theorem Dev.poke_regs (p : PLoc) (x : Cell) : (d.poke p x).regs = d.regs := rfl
@[simp] theorem Dev.poke_info (p : PLoc) (x : Cell) : (d.poke p x).info = d.info := rfl
@[simp] theorem Dev.poke_upsets (p : PLoc) (x : Cell) : (d.poke p x).upsets = d.upsets := rfl
@[simp] theorem Dev.poke_bandPol (p : PLoc) (x : Cell) : (d.poke p x).bandPol = d.bandPol := rfl
@[simp] theorem Dev.poke_cores (p : PLoc) (x : Cell) : (d.poke p x).cores = d.cores := rfl
@[simp] theorem Dev.poke_islands (p : PLoc) (x : Cell) : (d.poke p x).islands = d.islands := rfl
@[simp] theorem Dev.poke_pus (p : PLoc) (x : Cell) : (d.poke p x).pus = d.pus := rfl
@[simp] theorem Dev.poke_queues (p : PLoc) (x : Cell) : (d.poke p x).queues = d.queues := rfl
@[simp] theorem Dev.poke_locks (p : PLoc) (x : Cell) : (d.poke p x).locks = d.locks := rfl
@[simp] theorem Dev.poke_postNet (p : PLoc) (x : Cell) : (d.poke p x).postNet = d.postNet := rfl
@[simp] theorem Dev.poke_ackNet (p : PLoc) (x : Cell) : (d.poke p x).ackNet = d.ackNet := rfl
@[simp] theorem Dev.poke_sigNet (p : PLoc) (x : Cell) : (d.poke p x).sigNet = d.sigNet := rfl
@[simp] theorem Dev.poke_irqNet (p : PLoc) (x : Cell) : (d.poke p x).irqNet = d.irqNet := rfl
@[simp] theorem Dev.poke_regNet (p : PLoc) (x : Cell) : (d.poke p x).regNet = d.regNet := rfl
@[simp] theorem Dev.poke_epochBase (p : PLoc) (x : Cell) : (d.poke p x).epochBase = d.epochBase := rfl
@[simp] theorem Dev.poke_nextPost (p : PLoc) (x : Cell) : (d.poke p x).nextPost = d.nextPost := rfl
@[simp] theorem Dev.poke_sn (p : PLoc) (x : Cell) : (d.poke p x).sn = d.sn := rfl
@[simp] theorem Dev.poke_cal (p : PLoc) (x : Cell) : (d.poke p x).cal = d.cal := rfl
@[simp] theorem Dev.poke_hub (p : PLoc) (x : Cell) : (d.poke p x).hub = d.hub := rfl
@[simp] theorem Dev.poke_cust (p : PLoc) (x : Cell) : (d.poke p x).cust = d.cust := rfl
@[simp] theorem Dev.poke_board (p : PLoc) (x : Cell) : (d.poke p x).board = d.board := rfl
@[simp] theorem Dev.poke_pf0 (p : PLoc) (x : Cell) : (d.poke p x).pf0 = d.pf0 := rfl
@[simp] theorem Dev.poke_pf1 (p : PLoc) (x : Cell) : (d.poke p x).pf1 = d.pf1 := rfl
@[simp] theorem Dev.poke_peers (p : PLoc) (x : Cell) : (d.poke p x).peers = d.peers := rfl
@[simp] theorem Dev.poke_farHeld (p : PLoc) (x : Cell) : (d.poke p x).farHeld = d.farHeld := rfl
@[simp] theorem Dev.poke_scrubAt (p : PLoc) (x : Cell) : (d.poke p x).scrubAt = d.scrubAt := rfl
@[simp] theorem Dev.poke_c192 (p : PLoc) (x : Cell) : (d.poke p x).c192 = d.c192 := rfl
@[simp] theorem Dev.poke_xgrade (p : PLoc) (x : Cell) : (d.poke p x).xgrade = d.xgrade := rfl
@[simp] theorem Dev.poke_serial (p : PLoc) (x : Cell) : (d.poke p x).serial = d.serial := rfl
@[simp] theorem Dev.poke_dbglock (p : PLoc) (x : Cell) : (d.poke p x).dbglock = d.dbglock := rfl
@[simp] theorem Dev.poke_out (p : PLoc) (x : Cell) : (d.poke p x).out = d.out := rfl
@[simp] theorem Dev.poke_free (p : PLoc) (x : Cell) : (d.poke p x).free = d.free := rfl
@[simp] theorem Dev.poke_now (p : PLoc) (x : Cell) : (d.poke p x).now = d.now := rfl

@[simp] theorem Dev.setInfo_regs (p : PLoc) (x : LineInfo) : (d.setInfo p x).regs = d.regs := rfl
@[simp] theorem Dev.setInfo_mem (p : PLoc) (x : LineInfo) : (d.setInfo p x).mem = d.mem := rfl
@[simp] theorem Dev.setInfo_upsets (p : PLoc) (x : LineInfo) : (d.setInfo p x).upsets = d.upsets := rfl
@[simp] theorem Dev.setInfo_parity (p : PLoc) (x : LineInfo) : (d.setInfo p x).parity = d.parity := rfl
@[simp] theorem Dev.setInfo_bandPol (p : PLoc) (x : LineInfo) : (d.setInfo p x).bandPol = d.bandPol := rfl
@[simp] theorem Dev.setInfo_cores (p : PLoc) (x : LineInfo) : (d.setInfo p x).cores = d.cores := rfl
@[simp] theorem Dev.setInfo_islands (p : PLoc) (x : LineInfo) : (d.setInfo p x).islands = d.islands := rfl
@[simp] theorem Dev.setInfo_pus (p : PLoc) (x : LineInfo) : (d.setInfo p x).pus = d.pus := rfl
@[simp] theorem Dev.setInfo_queues (p : PLoc) (x : LineInfo) : (d.setInfo p x).queues = d.queues := rfl
@[simp] theorem Dev.setInfo_locks (p : PLoc) (x : LineInfo) : (d.setInfo p x).locks = d.locks := rfl
@[simp] theorem Dev.setInfo_postNet (p : PLoc) (x : LineInfo) : (d.setInfo p x).postNet = d.postNet := rfl
@[simp] theorem Dev.setInfo_ackNet (p : PLoc) (x : LineInfo) : (d.setInfo p x).ackNet = d.ackNet := rfl
@[simp] theorem Dev.setInfo_sigNet (p : PLoc) (x : LineInfo) : (d.setInfo p x).sigNet = d.sigNet := rfl
@[simp] theorem Dev.setInfo_irqNet (p : PLoc) (x : LineInfo) : (d.setInfo p x).irqNet = d.irqNet := rfl
@[simp] theorem Dev.setInfo_regNet (p : PLoc) (x : LineInfo) : (d.setInfo p x).regNet = d.regNet := rfl
@[simp] theorem Dev.setInfo_epochBase (p : PLoc) (x : LineInfo) : (d.setInfo p x).epochBase = d.epochBase := rfl
@[simp] theorem Dev.setInfo_nextPost (p : PLoc) (x : LineInfo) : (d.setInfo p x).nextPost = d.nextPost := rfl
@[simp] theorem Dev.setInfo_sn (p : PLoc) (x : LineInfo) : (d.setInfo p x).sn = d.sn := rfl
@[simp] theorem Dev.setInfo_cal (p : PLoc) (x : LineInfo) : (d.setInfo p x).cal = d.cal := rfl
@[simp] theorem Dev.setInfo_hub (p : PLoc) (x : LineInfo) : (d.setInfo p x).hub = d.hub := rfl
@[simp] theorem Dev.setInfo_cust (p : PLoc) (x : LineInfo) : (d.setInfo p x).cust = d.cust := rfl
@[simp] theorem Dev.setInfo_board (p : PLoc) (x : LineInfo) : (d.setInfo p x).board = d.board := rfl
@[simp] theorem Dev.setInfo_pf0 (p : PLoc) (x : LineInfo) : (d.setInfo p x).pf0 = d.pf0 := rfl
@[simp] theorem Dev.setInfo_pf1 (p : PLoc) (x : LineInfo) : (d.setInfo p x).pf1 = d.pf1 := rfl
@[simp] theorem Dev.setInfo_peers (p : PLoc) (x : LineInfo) : (d.setInfo p x).peers = d.peers := rfl
@[simp] theorem Dev.setInfo_farHeld (p : PLoc) (x : LineInfo) : (d.setInfo p x).farHeld = d.farHeld := rfl
@[simp] theorem Dev.setInfo_scrubAt (p : PLoc) (x : LineInfo) : (d.setInfo p x).scrubAt = d.scrubAt := rfl
@[simp] theorem Dev.setInfo_c192 (p : PLoc) (x : LineInfo) : (d.setInfo p x).c192 = d.c192 := rfl
@[simp] theorem Dev.setInfo_xgrade (p : PLoc) (x : LineInfo) : (d.setInfo p x).xgrade = d.xgrade := rfl
@[simp] theorem Dev.setInfo_serial (p : PLoc) (x : LineInfo) : (d.setInfo p x).serial = d.serial := rfl
@[simp] theorem Dev.setInfo_dbglock (p : PLoc) (x : LineInfo) : (d.setInfo p x).dbglock = d.dbglock := rfl
@[simp] theorem Dev.setInfo_out (p : PLoc) (x : LineInfo) : (d.setInfo p x).out = d.out := rfl
@[simp] theorem Dev.setInfo_free (p : PLoc) (x : LineInfo) : (d.setInfo p x).free = d.free := rfl
@[simp] theorem Dev.setInfo_now (p : PLoc) (x : LineInfo) : (d.setInfo p x).now = d.now := rfl

@[simp] theorem Dev.updSn_regs (f : Sinter → Sinter) : (d.updSn f).regs = d.regs := rfl
@[simp] theorem Dev.updSn_mem (f : Sinter → Sinter) : (d.updSn f).mem = d.mem := rfl
@[simp] theorem Dev.updSn_info (f : Sinter → Sinter) : (d.updSn f).info = d.info := rfl
@[simp] theorem Dev.updSn_upsets (f : Sinter → Sinter) : (d.updSn f).upsets = d.upsets := rfl
@[simp] theorem Dev.updSn_parity (f : Sinter → Sinter) : (d.updSn f).parity = d.parity := rfl
@[simp] theorem Dev.updSn_bandPol (f : Sinter → Sinter) : (d.updSn f).bandPol = d.bandPol := rfl
@[simp] theorem Dev.updSn_cores (f : Sinter → Sinter) : (d.updSn f).cores = d.cores := rfl
@[simp] theorem Dev.updSn_islands (f : Sinter → Sinter) : (d.updSn f).islands = d.islands := rfl
@[simp] theorem Dev.updSn_pus (f : Sinter → Sinter) : (d.updSn f).pus = d.pus := rfl
@[simp] theorem Dev.updSn_queues (f : Sinter → Sinter) : (d.updSn f).queues = d.queues := rfl
@[simp] theorem Dev.updSn_locks (f : Sinter → Sinter) : (d.updSn f).locks = d.locks := rfl
@[simp] theorem Dev.updSn_postNet (f : Sinter → Sinter) : (d.updSn f).postNet = d.postNet := rfl
@[simp] theorem Dev.updSn_ackNet (f : Sinter → Sinter) : (d.updSn f).ackNet = d.ackNet := rfl
@[simp] theorem Dev.updSn_sigNet (f : Sinter → Sinter) : (d.updSn f).sigNet = d.sigNet := rfl
@[simp] theorem Dev.updSn_irqNet (f : Sinter → Sinter) : (d.updSn f).irqNet = d.irqNet := rfl
@[simp] theorem Dev.updSn_regNet (f : Sinter → Sinter) : (d.updSn f).regNet = d.regNet := rfl
@[simp] theorem Dev.updSn_epochBase (f : Sinter → Sinter) : (d.updSn f).epochBase = d.epochBase := rfl
@[simp] theorem Dev.updSn_nextPost (f : Sinter → Sinter) : (d.updSn f).nextPost = d.nextPost := rfl
@[simp] theorem Dev.updSn_cal (f : Sinter → Sinter) : (d.updSn f).cal = d.cal := rfl
@[simp] theorem Dev.updSn_hub (f : Sinter → Sinter) : (d.updSn f).hub = d.hub := rfl
@[simp] theorem Dev.updSn_cust (f : Sinter → Sinter) : (d.updSn f).cust = d.cust := rfl
@[simp] theorem Dev.updSn_board (f : Sinter → Sinter) : (d.updSn f).board = d.board := rfl
@[simp] theorem Dev.updSn_pf0 (f : Sinter → Sinter) : (d.updSn f).pf0 = d.pf0 := rfl
@[simp] theorem Dev.updSn_pf1 (f : Sinter → Sinter) : (d.updSn f).pf1 = d.pf1 := rfl
@[simp] theorem Dev.updSn_peers (f : Sinter → Sinter) : (d.updSn f).peers = d.peers := rfl
@[simp] theorem Dev.updSn_farHeld (f : Sinter → Sinter) : (d.updSn f).farHeld = d.farHeld := rfl
@[simp] theorem Dev.updSn_scrubAt (f : Sinter → Sinter) : (d.updSn f).scrubAt = d.scrubAt := rfl
@[simp] theorem Dev.updSn_c192 (f : Sinter → Sinter) : (d.updSn f).c192 = d.c192 := rfl
@[simp] theorem Dev.updSn_xgrade (f : Sinter → Sinter) : (d.updSn f).xgrade = d.xgrade := rfl
@[simp] theorem Dev.updSn_serial (f : Sinter → Sinter) : (d.updSn f).serial = d.serial := rfl
@[simp] theorem Dev.updSn_dbglock (f : Sinter → Sinter) : (d.updSn f).dbglock = d.dbglock := rfl
@[simp] theorem Dev.updSn_out (f : Sinter → Sinter) : (d.updSn f).out = d.out := rfl
@[simp] theorem Dev.updSn_free (f : Sinter → Sinter) : (d.updSn f).free = d.free := rfl
@[simp] theorem Dev.updSn_now (f : Sinter → Sinter) : (d.updSn f).now = d.now := rfl

@[simp] theorem Dev.updHub_regs (f : FaultHub → FaultHub) : (d.updHub f).regs = d.regs := rfl
@[simp] theorem Dev.updHub_mem (f : FaultHub → FaultHub) : (d.updHub f).mem = d.mem := rfl
@[simp] theorem Dev.updHub_info (f : FaultHub → FaultHub) : (d.updHub f).info = d.info := rfl
@[simp] theorem Dev.updHub_upsets (f : FaultHub → FaultHub) : (d.updHub f).upsets = d.upsets := rfl
@[simp] theorem Dev.updHub_parity (f : FaultHub → FaultHub) : (d.updHub f).parity = d.parity := rfl
@[simp] theorem Dev.updHub_bandPol (f : FaultHub → FaultHub) : (d.updHub f).bandPol = d.bandPol := rfl
@[simp] theorem Dev.updHub_cores (f : FaultHub → FaultHub) : (d.updHub f).cores = d.cores := rfl
@[simp] theorem Dev.updHub_islands (f : FaultHub → FaultHub) : (d.updHub f).islands = d.islands := rfl
@[simp] theorem Dev.updHub_pus (f : FaultHub → FaultHub) : (d.updHub f).pus = d.pus := rfl
@[simp] theorem Dev.updHub_queues (f : FaultHub → FaultHub) : (d.updHub f).queues = d.queues := rfl
@[simp] theorem Dev.updHub_locks (f : FaultHub → FaultHub) : (d.updHub f).locks = d.locks := rfl
@[simp] theorem Dev.updHub_postNet (f : FaultHub → FaultHub) : (d.updHub f).postNet = d.postNet := rfl
@[simp] theorem Dev.updHub_ackNet (f : FaultHub → FaultHub) : (d.updHub f).ackNet = d.ackNet := rfl
@[simp] theorem Dev.updHub_sigNet (f : FaultHub → FaultHub) : (d.updHub f).sigNet = d.sigNet := rfl
@[simp] theorem Dev.updHub_irqNet (f : FaultHub → FaultHub) : (d.updHub f).irqNet = d.irqNet := rfl
@[simp] theorem Dev.updHub_regNet (f : FaultHub → FaultHub) : (d.updHub f).regNet = d.regNet := rfl
@[simp] theorem Dev.updHub_epochBase (f : FaultHub → FaultHub) : (d.updHub f).epochBase = d.epochBase := rfl
@[simp] theorem Dev.updHub_nextPost (f : FaultHub → FaultHub) : (d.updHub f).nextPost = d.nextPost := rfl
@[simp] theorem Dev.updHub_sn (f : FaultHub → FaultHub) : (d.updHub f).sn = d.sn := rfl
@[simp] theorem Dev.updHub_cal (f : FaultHub → FaultHub) : (d.updHub f).cal = d.cal := rfl
@[simp] theorem Dev.updHub_cust (f : FaultHub → FaultHub) : (d.updHub f).cust = d.cust := rfl
@[simp] theorem Dev.updHub_board (f : FaultHub → FaultHub) : (d.updHub f).board = d.board := rfl
@[simp] theorem Dev.updHub_pf0 (f : FaultHub → FaultHub) : (d.updHub f).pf0 = d.pf0 := rfl
@[simp] theorem Dev.updHub_pf1 (f : FaultHub → FaultHub) : (d.updHub f).pf1 = d.pf1 := rfl
@[simp] theorem Dev.updHub_peers (f : FaultHub → FaultHub) : (d.updHub f).peers = d.peers := rfl
@[simp] theorem Dev.updHub_farHeld (f : FaultHub → FaultHub) : (d.updHub f).farHeld = d.farHeld := rfl
@[simp] theorem Dev.updHub_scrubAt (f : FaultHub → FaultHub) : (d.updHub f).scrubAt = d.scrubAt := rfl
@[simp] theorem Dev.updHub_c192 (f : FaultHub → FaultHub) : (d.updHub f).c192 = d.c192 := rfl
@[simp] theorem Dev.updHub_xgrade (f : FaultHub → FaultHub) : (d.updHub f).xgrade = d.xgrade := rfl
@[simp] theorem Dev.updHub_serial (f : FaultHub → FaultHub) : (d.updHub f).serial = d.serial := rfl
@[simp] theorem Dev.updHub_dbglock (f : FaultHub → FaultHub) : (d.updHub f).dbglock = d.dbglock := rfl
@[simp] theorem Dev.updHub_out (f : FaultHub → FaultHub) : (d.updHub f).out = d.out := rfl
@[simp] theorem Dev.updHub_free (f : FaultHub → FaultHub) : (d.updHub f).free = d.free := rfl
@[simp] theorem Dev.updHub_now (f : FaultHub → FaultHub) : (d.updHub f).now = d.now := rfl

@[simp] theorem Dev.bumpFree_regs : (d.bumpFree).regs = d.regs := rfl
@[simp] theorem Dev.bumpFree_mem : (d.bumpFree).mem = d.mem := rfl
@[simp] theorem Dev.bumpFree_info : (d.bumpFree).info = d.info := rfl
@[simp] theorem Dev.bumpFree_upsets : (d.bumpFree).upsets = d.upsets := rfl
@[simp] theorem Dev.bumpFree_parity : (d.bumpFree).parity = d.parity := rfl
@[simp] theorem Dev.bumpFree_bandPol : (d.bumpFree).bandPol = d.bandPol := rfl
@[simp] theorem Dev.bumpFree_cores : (d.bumpFree).cores = d.cores := rfl
@[simp] theorem Dev.bumpFree_islands : (d.bumpFree).islands = d.islands := rfl
@[simp] theorem Dev.bumpFree_pus : (d.bumpFree).pus = d.pus := rfl
@[simp] theorem Dev.bumpFree_queues : (d.bumpFree).queues = d.queues := rfl
@[simp] theorem Dev.bumpFree_locks : (d.bumpFree).locks = d.locks := rfl
@[simp] theorem Dev.bumpFree_postNet : (d.bumpFree).postNet = d.postNet := rfl
@[simp] theorem Dev.bumpFree_ackNet : (d.bumpFree).ackNet = d.ackNet := rfl
@[simp] theorem Dev.bumpFree_sigNet : (d.bumpFree).sigNet = d.sigNet := rfl
@[simp] theorem Dev.bumpFree_irqNet : (d.bumpFree).irqNet = d.irqNet := rfl
@[simp] theorem Dev.bumpFree_regNet : (d.bumpFree).regNet = d.regNet := rfl
@[simp] theorem Dev.bumpFree_epochBase : (d.bumpFree).epochBase = d.epochBase := rfl
@[simp] theorem Dev.bumpFree_nextPost : (d.bumpFree).nextPost = d.nextPost := rfl
@[simp] theorem Dev.bumpFree_sn : (d.bumpFree).sn = d.sn := rfl
@[simp] theorem Dev.bumpFree_cal : (d.bumpFree).cal = d.cal := rfl
@[simp] theorem Dev.bumpFree_hub : (d.bumpFree).hub = d.hub := rfl
@[simp] theorem Dev.bumpFree_cust : (d.bumpFree).cust = d.cust := rfl
@[simp] theorem Dev.bumpFree_board : (d.bumpFree).board = d.board := rfl
@[simp] theorem Dev.bumpFree_pf0 : (d.bumpFree).pf0 = d.pf0 := rfl
@[simp] theorem Dev.bumpFree_pf1 : (d.bumpFree).pf1 = d.pf1 := rfl
@[simp] theorem Dev.bumpFree_peers : (d.bumpFree).peers = d.peers := rfl
@[simp] theorem Dev.bumpFree_farHeld : (d.bumpFree).farHeld = d.farHeld := rfl
@[simp] theorem Dev.bumpFree_scrubAt : (d.bumpFree).scrubAt = d.scrubAt := rfl
@[simp] theorem Dev.bumpFree_c192 : (d.bumpFree).c192 = d.c192 := rfl
@[simp] theorem Dev.bumpFree_xgrade : (d.bumpFree).xgrade = d.xgrade := rfl
@[simp] theorem Dev.bumpFree_serial : (d.bumpFree).serial = d.serial := rfl
@[simp] theorem Dev.bumpFree_dbglock : (d.bumpFree).dbglock = d.dbglock := rfl
@[simp] theorem Dev.bumpFree_out : (d.bumpFree).out = d.out := rfl
@[simp] theorem Dev.bumpFree_now : (d.bumpFree).now = d.now := rfl

/-! ## What an update sets -/

@[simp] theorem Dev.core_setCore_same (c : Nat) (k : Core) : (d.setCore c k).core c = k := by simp [Dev.core, Dev.setCore]

theorem Dev.core_setCore_other {c j : Nat} (k : Core) (h : j ≠ c) : (d.setCore c k).core j = d.core j := by
  simp [Dev.core, Dev.setCore, AMap.getD'_put_other _ _ _ h]

@[simp] theorem Dev.core_updCore_same (c : Nat) (f : Core → Core) : (d.updCore c f).core c = f (d.core c) := by simp [Dev.updCore]

theorem Dev.core_updCore_other {c j : Nat} (f : Core → Core) (h : j ≠ c) : (d.updCore c f).core j = d.core j := by
  simp [Dev.updCore, Dev.core_setCore_other d _ h]

@[simp] theorem Dev.isl_updIsl_same (i : Nat) (f : Island → Island) : (d.updIsl i f).isl i = f (d.isl i) := by simp [Dev.isl, Dev.updIsl]

theorem Dev.isl_updIsl_other {i j : Nat} (f : Island → Island) (h : j ≠ i) : (d.updIsl i f).isl j = d.isl j := by
  simp [Dev.isl, Dev.updIsl, AMap.getD'_put_other _ _ _ h]

@[simp] theorem Dev.queue_updQueue_same (q : Nat) (f : Queue → Queue) : (d.updQueue q f).queue q = f (d.queue q) := by
  simp [Dev.queue, Dev.updQueue, Dev.setQueue]

theorem Dev.queue_updQueue_other {q j : Nat} (f : Queue → Queue) (h : j ≠ q) : (d.updQueue q f).queue j = d.queue j := by
  simp [Dev.queue, Dev.updQueue, Dev.setQueue, AMap.getD'_put_other _ _ _ h]

@[simp] theorem Dev.send_out (o : Out) : (d.send o).out = d.out ++ [o] := rfl

/-! ## Registers -/

@[simp] theorem Dev.rd_wr_same (off v : Nat) : (d.wr off v).rd off = v % 2 ^ 64 := by simp [Dev.rd, Dev.wr]

theorem Dev.rd_wr_other {off o : Nat} (v : Nat) (h : o ≠ off) : (d.wr off v).rd o = d.rd o := by
  simp [Dev.rd, Dev.wr, AMap.find_put_other _ _ h]

theorem Dev.rd_setFld_other {off o : Nat} (hi lo v : Nat) (h : o ≠ off) : (d.setFld off hi lo v).rd o = d.rd o := d.rd_wr_other _ h

theorem Dev.rd_setBit_other {off o : Nat} (b : Nat) (v : Bool) (h : o ≠ off) : (d.setBit off b v).rd o = d.rd o := d.rd_wr_other _ h

/-- A field of a register below bit 64 reads as it was set. -/
theorem Dev.fld_setFld_same (off : Nat) {hi lo : Nat} (v : Nat) (h : lo ≤ hi) (h' : hi < 64) :
    (d.setFld off hi lo v).fld off hi lo = v % 2 ^ (hi + 1 - lo) := by
  apply Nat.eq_of_testBit_eq
  intro i
  have e := congrArg (fun n => n.testBit i) (bitsOf_setBits_same (d.rd off) v h)
  simp only [testBit_bitsOf] at e
  simp only [Dev.fld, Dev.setFld, Dev.rd_wr_same, testBit_bitsOf, Nat.testBit_mod_two_pow, ← e]
  by_cases hb : i < hi + 1 - lo
  · simp [show lo + i < 64 by omega]
  · simp [hb]

/-- A field keeps its value when another field of its register is set. -/
theorem Dev.fld_setFld_other (off : Nat) {hi lo a b : Nat} (v : Nat) (h : lo ≤ hi) (ha : a < 64) (n : a < lo ∨ hi < b) :
    (d.setFld off hi lo v).fld off a b = d.fld off a b := by
  apply Nat.eq_of_testBit_eq
  intro i
  have e := congrArg (fun n => n.testBit i) (bitsOf_setBits_other (d.rd off) v h n)
  simp only [testBit_bitsOf] at e
  simp only [Dev.fld, Dev.setFld, Dev.rd_wr_same, testBit_bitsOf, Nat.testBit_mod_two_pow, ← e]
  by_cases hb : i < a + 1 - b
  · simp [show b + i < 64 by omega]
  · simp [hb]

end Sys2Proof.Machine
end

