-- ==== Sys2Proof/Laws/Memory.lean ====
section
/-!
SUPPORT. Stored cells: a read after a write, and that every memory operation keeps the canonical form and changes only the cells
that it names.
-/

namespace Sys2Proof.Machine

/-! ## The stored cells -/

@[simp] theorem Memory.read_write_same (m : AMap Cell) (k : Nat) (c : Cell) : Memory.read (Memory.write m k c) k = c := by
  unfold Memory.read Memory.write
  split <;> simp [AMap.getD', *]

theorem Memory.read_write_other (m : AMap Cell) {j k : Nat} (c : Cell) (h : j ≠ k) :
    Memory.read (Memory.write m k c) j = Memory.read m j := by
  unfold Memory.read Memory.write
  split
  · simp [AMap.getD', AMap.find_del_other m h]
  · exact AMap.getD'_put_other m c 0 h

theorem AMap.mem_del_ne {α : Type} {m : AMap α} {k : Nat} {p : Nat × α} (h : p ∈ m.del k) : p.1 ≠ k := by
  induction m with
  | nil => cases h
  | cons q t ih =>
    obtain ⟨j, w⟩ := q
    simp only [AMap.del] at h
    split at h
    · exact ih h
    · rcases List.mem_cons.1 h with h | h
      · subst h; assumption
      · exact ih h

/-- Writing a cell keeps the canonical form. -/
theorem Memory.wf_write {m : AMap Cell} (k : Nat) (c : Cell) (h : Memory.wf m) : Memory.wf (Memory.write m k c) := by
  unfold Memory.write
  split
  · exact ⟨AMap.rising_del k h.1, fun p hp => h.2 p (AMap.mem_del hp)⟩
  · refine ⟨AMap.rising_put k c h.1, fun p hp => ?_⟩
    rcases AMap.mem_put hp with hp | hp
    · subst hp; assumption
    · exact h.2 p hp

/-- In the canonical form a memory is what its cells read as. -/
theorem Memory.ext_of_read {m m' : AMap Cell} (h : Memory.wf m) (h' : Memory.wf m')
    (e : ∀ k, Memory.read m k = Memory.read m' k) : m = m' := by
  have head : ∀ {x : Nat × Cell} {t : AMap Cell}, Memory.wf (x :: t) → ∀ k, k < x.1 → Memory.read (x :: t) k = 0 := by
    intro x t hw k hk
    have : ∀ l : AMap Cell, (∀ p ∈ l, k < p.1) → AMap.find k l = none := by
      intro l hl
      induction l with
      | nil => rfl
      | cons q l ih =>
        obtain ⟨j, w⟩ := q
        have := hl (j, w) List.mem_cons_self
        simp only [AMap.find]
        rw [if_neg (by simp at this; omega)]
        exact ih fun p hp => hl p (List.mem_cons_of_mem _ hp)
    simp only [Memory.read, AMap.getD']
    rw [this]
    · rfl
    · intro p hp
      rcases List.mem_cons.1 hp with hp | hp
      · subst hp; exact hk
      · exact Nat.lt_trans hk ((List.pairwise_cons.1 hw.1).1 p hp)
  have same : ∀ (x : Nat × Cell) (t : AMap Cell), Memory.read (x :: t) x.1 = x.2 := by
    intro x t; simp [Memory.read, AMap.getD', AMap.find]
  induction m generalizing m' with
  | nil =>
    cases m' with
    | nil => rfl
    | cons y t =>
      have := e y.1
      rw [same] at this
      exact absurd this.symm (h'.2 y List.mem_cons_self)
  | cons x t ih =>
    cases m' with
    | nil =>
      have := e x.1
      rw [same] at this
      exact absurd this (h.2 x List.mem_cons_self)
    | cons y u =>
      have hk : x.1 = y.1 := by
        rcases Nat.lt_trichotomy x.1 y.1 with hlt | heq | hlt
        · have := e x.1
          rw [same, head h' _ hlt] at this
          exact absurd this (h.2 x List.mem_cons_self)
        · exact heq
        · have := e y.1
          rw [same, head h _ hlt] at this
          exact absurd this.symm (h'.2 y List.mem_cons_self)
      have hv : x.2 = y.2 := by
        have := e x.1
        rw [same, hk, same] at this
        exact this
      have hxy : x = y := Prod.ext hk hv
      subst hxy
      have ht : Memory.wf t := ⟨(List.pairwise_cons.1 h.1).2, fun p hp => h.2 p (List.mem_cons_of_mem _ hp)⟩
      have hu : Memory.wf u := ⟨(List.pairwise_cons.1 h'.1).2, fun p hp => h'.2 p (List.mem_cons_of_mem _ hp)⟩
      congr 1
      refine ih ht hu fun k => ?_
      by_cases hkx : k = x.1
      · subst hkx
        have a : ∀ {l : AMap Cell}, Memory.wf (x :: l) → Memory.read l x.1 = 0 := by
          intro l hw
          cases l with
          | nil => rfl
          | cons z l =>
            exact head ⟨(List.pairwise_cons.1 hw.1).2, fun p hp => hw.2 p (List.mem_cons_of_mem _ hp)⟩ _
              ((List.pairwise_cons.1 hw.1).1 z List.mem_cons_self)
        rw [a h, a h']
      · have := e k
        simpa [Memory.read, AMap.getD', AMap.find, Ne.symm hkx] using this

theorem reset_memory_wf : Memory.wf State.reset.dev.mem := ⟨List.Pairwise.nil, fun p hp => by cases hp⟩

theorem reset_memOk : Safety.memOk State.reset := reset_memory_wf

/-! ## Cells at locations -/

@[simp] theorem Dev.cell_poke_same (d : Dev) (p : PLoc) (c : Cell) : (d.poke p c).cell p = c := Memory.read_write_same _ _ _

theorem Dev.cell_poke_other (d : Dev) {p q : PLoc} (c : Cell) (h : q.key ≠ p.key) : (d.poke p c).cell q = d.cell q :=
  Memory.read_write_other _ _ h

theorem Dev.wf_poke {d : Dev} (p : PLoc) (c : Cell) (h : Memory.wf d.mem) : Memory.wf (d.poke p c).mem := Memory.wf_write _ _ h

theorem Dev.wf_pokes {d : Dev} (ps : List PLoc) (cs : List Cell) (h : Memory.wf d.mem) : Memory.wf (d.pokes ps cs).mem := by
  induction ps generalizing d cs with
  | nil => exact h
  | cons p ps ih =>
    cases cs with
    | nil => exact h
    | cons c cs => exact ih cs (Dev.wf_poke p c h)

theorem Dev.cell_pokes_other (d : Dev) {q : PLoc} (ps : List PLoc) (cs : List Cell) (h : ∀ p ∈ ps, q.key ≠ p.key) :
    (d.pokes ps cs).cell q = d.cell q := by
  induction ps generalizing d cs with
  | nil => rfl
  | cons p ps ih =>
    cases cs with
    | nil => rfl
    | cons c cs =>
      show ((d.poke p c).pokes ps cs).cell q = _
      rw [ih _ _ fun p' hp' => h p' (List.mem_cons_of_mem _ hp'), Dev.cell_poke_other d c (h p List.mem_cons_self)]

/-! ## Operations that leave the cells alone -/

@[simp] theorem Dev.mem_raise (d : Dev) (n : Nat) : (d.raise n).mem = d.mem := by
  unfold Dev.raise
  split
  · rfl
  · dsimp only
    split <;> rfl

@[simp] theorem Dev.mem_log (d : Dev) (kind cls ut ux sp a x : Nat) : (d.log kind cls ut ux sp a x).mem = d.mem := by
  unfold Dev.log
  by_cases hc : cls = 0x10
  all_goals
    simp only [hc, if_true, if_false]
    split
    · rfl
    · split
      · exact Dev.mem_raise _ _
      · rfl

@[simp] theorem Dev.mem_logEvent (d : Dev) (cls ut ux sp a x : Nat) : (d.logEvent cls ut ux sp a x).mem = d.mem :=
  Dev.mem_log _ _ _ _ _ _ _ _

@[simp] theorem Dev.mem_logIgnored (d : Dev) (off v : Nat) : (d.logIgnored off v).mem = d.mem := Dev.mem_log _ _ _ _ _ _ _ _

@[simp] theorem Dev.mem_datagram (d : Dev) (peer : Nat) (b : PoolBody) : (d.datagram peer b).mem = d.mem := rfl

@[simp] theorem Dev.mem_forwardCopies (d : Dev) (l : List (PLoc × Cell)) : (d.forwardCopies l).mem = d.mem := by
  induction l generalizing d with
  | nil => rfl
  | cons p t ih =>
    unfold Dev.forwardCopies
    rw [ih]
    split
    · split <;> rfl
    · rfl

@[simp] theorem Dev.mem_updInfo (d : Dev) (p : PLoc) (f : LineInfo → LineInfo) : (d.updInfo p f).mem = d.mem := by
  unfold Dev.updInfo
  split
  · have : ∀ (l : List PLoc) (e : Dev), (l.foldl (fun e q => e.setInfo q (f (e.lineInfo q))) e).mem = e.mem := by
      intro l
      induction l with
      | nil => intro e; rfl
      | cons q l ih => intro e; exact (ih _).trans rfl
    exact this _ _
  · rfl

@[simp] theorem Dev.mem_dropL1 (d : Dev) (line : Nat) (keep : Option Nat) : (d.dropL1 line keep).mem = d.mem := rfl

@[simp] theorem Dev.mem_lineRead (d : Dev) (p : PLoc) : (d.lineRead p).mem = d.mem := by
  unfold Dev.lineRead
  split
  · rfl
  · dsimp only
    split
    · rfl
    · simp
    · simp

@[simp] theorem Dev.mem_readLines (d : Dev) (ps : List PLoc) : (d.readLines ps).mem = d.mem := by
  unfold Dev.readLines
  generalize lineRuns ps = l
  induction l generalizing d with
  | nil => rfl
  | cons r t ih =>
    rw [List.foldl_cons, ih]
    cases r with
    | nil => rfl
    | cons p _ => exact Dev.mem_lineRead d p

@[simp] theorem Dev.mem_numberRecord (d : Dev) (mk : Nat → Record) : (d.numberRecord mk).mem = d.mem := rfl

@[simp] theorem Dev.mem_recordRun (d : Dev) (run : List (PLoc × Cell)) (segtag : BitVec 16) (src : Option Nat) :
    (d.recordRun run segtag src).mem = d.mem := by
  unfold Dev.recordRun
  split
  · rfl
  · split
    · rfl
    · simp only [apply_ite Dev.mem, Dev.mem_raise, Dev.mem_numberRecord, ite_self]

@[simp] theorem Dev.mem_recordRuns (l : List (List (PLoc × Cell))) (d : Dev) (segtag : BitVec 16) (src : Option Nat) :
    (l.foldl (fun d r => d.recordRun r segtag src) d).mem = d.mem := by
  induction l generalizing d with
  | nil => rfl
  | cons r t ih => rw [List.foldl_cons, ih, Dev.mem_recordRun]

/-! ## Writes -/

theorem Dev.wf_foldl_poke {d : Dev} (l : List PLoc) (c : Cell) (h : Memory.wf d.mem) :
    Memory.wf (l.foldl (fun d q => d.poke q c) d).mem := by
  induction l generalizing d with
  | nil => exact h
  | cons q l ih => exact ih (Dev.wf_poke q c h)

theorem Dev.wf_pokeBoth {d : Dev} (ps : List PLoc) (cs : List Cell) (h : Memory.wf d.mem) : Memory.wf (d.pokeBoth ps cs).mem := by
  unfold Dev.pokeBoth
  rw [Dev.mem_forwardCopies]
  generalize ps.zip cs = l
  induction l generalizing d with
  | nil => exact h
  | cons x l ih => exact ih (Dev.wf_foldl_poke _ _ h)

theorem Dev.wf_lineWrite {d : Dev} (ps : List PLoc) (cs : List Cell) (heat : Nat) (keep : Option Nat) (h : Memory.wf d.mem) :
    Memory.wf (d.lineWrite ps cs heat keep).mem := by
  unfold Dev.lineWrite
  split
  · exact h
  · dsimp only
    rw [Dev.mem_dropL1, Dev.mem_updInfo]
    apply Dev.wf_pokeBoth
    split
    · exact h
    · rw [Dev.mem_lineRead]; exact h

theorem Dev.wf_writeRun {d : Dev} (run : List (PLoc × Cell)) (jr : Bool) (segtag : BitVec 16) (heat : Nat) (src keep : Option Nat)
    (h : Memory.wf d.mem) : Memory.wf (d.writeRun run jr segtag heat src keep).mem := by
  unfold Dev.writeRun
  split
  · exact h
  · cases jr
    · simpa using Dev.wf_lineWrite (d := d) _ _ _ _ h
    · simp only [if_true, Dev.mem_updInfo]
      apply Dev.wf_lineWrite
      rw [Dev.mem_recordRuns]
      exact h

theorem Dev.wf_writeLoc {d : Dev} (loc : MemLoc) (cs : List Cell) (heat : Nat) (src keep : Option Nat) (h : Memory.wf d.mem) :
    Memory.wf (d.writeLoc loc cs heat src keep).mem := by
  unfold Dev.writeLoc
  generalize runsBy 128 (loc.cells.zip cs) = l
  induction l generalizing d with
  | nil => exact h
  | cons r l ih => exact ih (Dev.wf_writeRun r _ _ _ _ _ h)

theorem Dev.wf_unitWrite {d : Dev} (who : Nat) (ps : List PLoc) (cs : List Cell) (heat : Nat) (h : Memory.wf d.mem) :
    Memory.wf (d.unitWrite who ps cs heat).mem := by
  unfold Dev.unitWrite
  split
  · rw [Dev.mem_logEvent]; exact h
  · exact Dev.wf_lineWrite _ _ _ _ h

theorem Dev.wf_setPhysWord {d : Dev} (a v heat : Nat) (h : Memory.wf d.mem) : Memory.wf (d.setPhysWord a v heat).mem :=
  Dev.wf_unitWrite _ _ _ _ h

theorem Dev.wf_trace {d : Dev} (c kind arg : Nat) (pc : Word) (h : Memory.wf d.mem) : Memory.wf (d.trace c kind arg pc).mem := by
  unfold Dev.trace
  dsimp only
  split
  · split
    · simpa using Dev.wf_lineWrite _ _ _ _ h
    · simpa using h
  · exact h

/-- Leaving entries out keeps the canonical form. -/
theorem Memory.wf_filter {m : AMap Cell} (f : Nat × Cell → Bool) (h : Memory.wf m) : Memory.wf (m.filter f) :=
  ⟨h.1.filter f, fun p hp => h.2 p (List.mem_filter.1 hp).1⟩

end Sys2Proof.Machine
end

