-- ==== Sys2Proof/Laws/Ops.lean ====
section
/-!
SUPPORT. What each shared operation can do, said once: commands as outcomes, sources, results, stores, exposed distances, the loop-back
check, and taking an exception.
-/

namespace Sys2Proof.Machine

/-! ## Commands as outcomes -/

/-- A command in front of the queue is run on the state with the queue's rest. -/
theorem step_cons (c : Instr) (rest : List Instr) (s : State) :
    step { s with pending := c :: rest } = exec c { s with pending := rest } := rfl

/-- On an empty queue one nanosecond passes. -/
theorem step_nil (s : State) (h : s.pending = []) : step s = .next (tick s) := by
  unfold step; rw [h]

theorem onDev_next {f : Dev → Dev} {s t : State} (h : onDev f s = .next t) :
    t.dev = f { s.dev with now := s.fum.time } ∧ t.fum = s.fum ∧ t.fuses = s.fuses ∧ t.pending = s.pending := by
  cases h; exact ⟨rfl, rfl, rfl, rfl⟩

theorem instr_next {x : Ins} {body : M Done} {s t : State} (h : instr x body s = .next t) :
    t.dev = runInstr x body { s.dev with now := s.fum.time } ∧ t.fum = s.fum ∧ t.fuses = s.fuses ∧ t.pending = s.pending :=
  onDev_next h

theorem regCmd_eq (f : Dev → Dev) (s : State) :
    regCmd f s = .next { s with dev := f { s.dev with now := s.fum.time } }.settle := rfl

/-- A mailbox command acts on the device and the fuses only. -/
theorem State.mbRun_keeps (s : State) (c : MbCmd) : (s.mbRun c).fum = s.fum ∧ (s.mbRun c).pending = s.pending := by
  unfold State.mbRun
  dsimp only
  split
  · exact ⟨rfl, rfl⟩
  · split <;> (try split) <;> (try split) <;> exact ⟨rfl, rfl⟩

/-- Mailbox commands leave Fumarole and the queue alone. -/
theorem State.mailboxes_keeps (s : State) : s.mailboxes.fum = s.fum ∧ s.mailboxes.pending = s.pending := by
  have aux : ∀ (l : List MbCmd) (s : State), (l.foldl State.mbRun s).fum = s.fum ∧ (l.foldl State.mbRun s).pending = s.pending := by
    intro l
    induction l with
    | nil => exact fun s => ⟨rfl, rfl⟩
    | cons c l ih => exact fun s => ⟨(ih _).1.trans (s.mbRun_keeps c).1, (ih _).2.trans (s.mbRun_keeps c).2⟩
  unfold State.mailboxes
  split
  · exact ⟨rfl, rfl⟩
  · exact aux _ _

theorem State.settle_pending (s : State) : s.settle.pending = s.pending := by
  unfold State.settle; exact (State.mailboxes_keeps _).2

theorem regCmd_pending {f : Dev → Dev} {s t : State} (h : regCmd f s = .next t) : t.pending = s.pending := by
  cases h; exact State.settle_pending _

/-! ## Interrupt sources (R222) -/

/-- An event of a source does one of three things: it merges into the pending one; it sets PEND and its request is sent on; it sets PEND
and no request is sent, because the routing names no level or no core. -/
theorem Dev.raise_cases (d : Dev) (n : Nat) :
    (d.bit (offISRC n) 63 = true ∧ d.raise n = d) ∨
    (d.bit (offISRC n) 63 = false ∧ (∃ r, (d.setBit (offISRC n) 63 true).routed n = some r ∧
      d.raise n = { d.setBit (offISRC n) 63 true with irqNet := d.irqNet ++ [r] })) ∨
    (d.bit (offISRC n) 63 = false ∧ (d.setBit (offISRC n) 63 true).routed n = none ∧ d.raise n = d.setBit (offISRC n) 63 true) := by
  unfold Dev.raise
  cases hb : d.bit (offISRC n) 63
  · cases hr : (d.setBit (offISRC n) 63 true).routed n with
    | none => exact .inr (.inr ⟨rfl, rfl, by simp [hr]⟩)
    | some r => exact .inr (.inl ⟨rfl, r, rfl, by simp [hr]⟩)
  · exact .inl ⟨rfl, by simp⟩

/-! ## Results in general registers (R91) -/

/-- A general register that no result is to be written to reads as it stands. -/
theorem rdG_run {c r : Nat} {d : Dev} (h : (d.core c).gBusy (d.core c).bankNo r = false) :
    (rdG c r) d = (.ok ((d.core c).gr r), d) := by
  unfold rdG
  rw [bind_ok (getCore_run c d)]
  simp [h]

/-- A read of a general register whose result is still to come waits. -/
theorem rdG_wait {c r : Nat} {d : Dev} (h : (d.core c).gBusy (d.core c).bankNo r = true) : (rdG c r) d = (.error .wait, d) := by
  unfold rdG
  rw [bind_ok (getCore_run c d)]
  simp [h]

theorem wrG_run {c r : Nat} {v : Word} {d : Dev} (h : (d.core c).gBusy (d.core c).bankNo r = false) :
    (wrG c r v) d = (.ok (), d.updCore c fun k => k.setG r v) := by
  unfold wrG
  rw [bind_ok (getCore_run c d)]
  simp [h]

theorem wrG_wait {c r : Nat} {v : Word} {d : Dev} (h : (d.core c).gBusy (d.core c).bankNo r = true) :
    (wrG c r v) d = (.error .wait, d) := by
  unfold wrG
  rw [bind_ok (getCore_run c d)]
  simp [h]

theorem idleCells_run {c : Nat} {ps : List PLoc} {d : Dev} (h : (ps.any fun p => (d.core c).cellBusy p.addr) = false) :
    (idleCells c ps) d = (.ok (), d) := by
  unfold idleCells
  rw [bind_ok (getCore_run c d)]
  simp [h]

/-! ## Actions whose event becomes a value -/

theorem attempt_ok {α : Type} {m : M α} {d d' : Dev} {a : α} (h : m d = (.ok a, d')) : (attempt m) d = (.ok (.ok a), d') := by
  show (match m d with | (.ok a, d') => _ | (.error (.exc e), d') => _ | (.error s, d') => _) = _
  rw [h]

theorem attempt_exc {α : Type} {m : M α} {d d' : Dev} {e : Exc} (h : m d = (.error (.exc e), d')) :
    (attempt m) d = (.ok (.error e), d') := by
  show (match m d with | (.ok a, d') => _ | (.error (.exc e), d') => _ | (.error s, d') => _) = _
  rw [h]

/-! ## The store buffer (R243) -/

/-- With an empty buffer nothing drains. -/
theorem Dev.drainOne_empty {d : Dev} {c : Nat} (h : (d.core c).sbuf = []) : d.drainOne c = some d := by
  unfold Dev.drainOne; rw [h]

theorem Dev.drainOne_cons {d : Dev} {c : Nat} {e : SbEntry} {t : List SbEntry} (h : (d.core c).sbuf = e :: t) :
    d.drainOne c = (d.drainEntry c e).map fun d => d.updCore c fun k => { k with sbuf := t } := by
  unfold Dev.drainOne; rw [h]

/-- A drained run keeps memory in its canonical form. -/
theorem Dev.wf_drainRun {d : Dev} (c : Nat) (e : SbEntry) (r : AMap SbCell) (hw : Memory.wf d.mem) :
    Memory.wf (d.drainRun c e r).mem := by
  unfold Dev.drainRun
  dsimp only
  split
  · split
    all_goals try split
    all_goals first
      | exact hw
      | exact Dev.wf_writeRun _ _ _ _ _ _ hw
      | (simpa using hw)
  · exact hw

/-- A drained entry keeps memory in its canonical form. -/
theorem Dev.wf_drainEntry {d d' : Dev} {c : Nat} {e : SbEntry} (h : d.drainEntry c e = some d') (hw : Memory.wf d.mem) :
    Memory.wf d'.mem := by
  unfold Dev.drainEntry at h
  dsimp only at h
  have hf : ∀ (l : List (AMap SbCell)) (d : Dev), Memory.wf d.mem → Memory.wf (l.foldl (fun d r => d.drainRun c e r) d).mem := by
    intro l
    induction l with
    | nil => exact fun _ h => h
    | cons r t ih => exact fun d hd => ih _ (Dev.wf_drainRun c e r hd)
  generalize (sbRuns e.cells) = rs at h
  repeat' split at h
  all_goals cases h
  all_goals exact hf _ _ hw

theorem Dev.wf_drainOne {d d' : Dev} {c : Nat} (h : d.drainOne c = some d') (hw : Memory.wf d.mem) : Memory.wf d'.mem := by
  unfold Dev.drainOne at h
  split at h
  · cases h; exact hw
  · obtain ⟨d1, h1, rfl⟩ := Option.map_eq_some_iff.1 h
    exact (Dev.wf_drainEntry h1 hw : Memory.wf d1.mem)

theorem wf_drainN {c n : Nat} {d d' : Dev} {r : Except Stop Unit} (h : (drainN c n) d = (r, d')) (hw : Memory.wf d.mem) :
    Memory.wf d'.mem := by
  induction n generalizing d with
  | zero => cases h; exact hw
  | succ n ih =>
    unfold drainN at h
    rw [bind_ok (get_run d)] at h
    cases ho : d.drainOne c with
    | none =>
      rw [ho] at h
      cases h; exact hw
    | some d1 =>
      rw [ho] at h
      exact ih h (Dev.wf_drainOne ho hw)

/-! ## Loop-back (R101) and exposed distances (R80) -/

/-- The loop-back check: the loop goes round, or it is popped, or it is not reached. -/
theorem loopBack_cases (b : Bank) (pc n : Nat) :
    (b.dep ≠ 0 ∧ pc < b.cur.exit.toNat ∧ b.cur.exit.toNat ≤ n ∧ 1 < b.cur.rem.toNat ∧
      loopBack b pc n = ({ b with cur := { b.cur with rem := b.cur.rem - 1 } }, b.cur.top.toNat)) ∨
    (b.dep ≠ 0 ∧ pc < b.cur.exit.toNat ∧ b.cur.exit.toNat ≤ n ∧ b.cur.rem.toNat ≤ 1 ∧ loopBack b pc n = (b.popLoop, n)) ∨
    (¬ (b.dep ≠ 0 ∧ pc < b.cur.exit.toNat ∧ b.cur.exit.toNat ≤ n) ∧ loopBack b pc n = (b, n)) := by
  unfold loopBack
  by_cases h : b.dep ≠ 0 ∧ pc < b.cur.exit.toNat ∧ b.cur.exit.toNat ≤ n
  · by_cases h1 : 1 < b.cur.rem.toNat
    · exact .inl ⟨h.1, h.2.1, h.2.2, h1, by rw [if_pos h, if_pos h1]⟩
    · exact .inr (.inl ⟨h.1, h.2.1, h.2.2, by omega, by rw [if_pos h, if_neg h1]⟩)
  · exact .inr (.inr ⟨h, by rw [if_neg h]⟩)

/-- With no exposed write under way, a completed instruction changes nothing by its distances. -/
theorem Core.countExp_none (k : Core) (h : k.exposed = []) : k.countExp = k := by
  cases k
  simp only at h
  subst h
  rfl

theorem Core.flushExp_none (k : Core) (h : k.exposed = []) : k.flushExp = k := by
  cases k
  simp only at h
  subst h
  rfl

/-! ## Taking an exception (R199 to R213) -/

/-- A synchronous event is delivered through the vector and the world that R203 and R219 give; a trap resumes at the next instruction, a
fault at its own. -/
theorem takeExc_run (c : Nat) (e : Exc) (fpc next : Word) (d : Dev) :
    (takeExc c e fpc next) d = ((if decide (16 ≤ e.vec) && decide (e.vec ≤ 19) then deliverAfter c else deliver c) {
      vec := e.vec, world := d.excWorld c e.vec,
      spc := (if decide (16 ≤ e.vec) && decide (e.vec ≤ 19) then next else fpc), fpc := fpc,
      info0 := e.info0, info1 := e.info1, lin := e.lin }) d := by
  unfold takeExc
  rw [bind_ok (get_run d)]
  split <;> rfl

/-- A delivery that ends without waiting is all that `deliverAfter` does. -/
theorem deliverAfter_ok {c : Nat} {v : Delivery} {d d' : Dev} (h : (deliver c v) d = (.ok (), d')) :
    (deliverAfter c v) d = (.ok (), d') := by
  show (match deliver c v d with | (.error .hold, d') => _ | r => _) = _
  rw [h]

/-- At level 7 no event can be delivered: the core checkstops (R201). -/
theorem deliver_checkstops {c : Nat} {v : Delivery} {d : Dev} (h : (d.core c).plev = 7) :
    (deliver c v) d = (.ok (), d.checkstop c) := by
  unfold deliver
  rw [bind_ok (getCore_run c d)]
  simp [h]

/-- A delivery below level 7 that succeeds is the whole of taking the event; the machine check is logged as well. -/
theorem deliver_ok {c : Nat} {v : Delivery} {d d' : Dev} (h : (d.core c).plev ≠ 7) (ho : (deliverOnce c v) d = (.ok (.ok ()), d')) :
    (deliver c v) d = (.ok (), if v.vec = 41 then d'.logEvent 0x05 1 c 0 0 c else d') := by
  unfold deliver
  rw [bind_ok (getCore_run c d)]
  simp only [h, if_false]
  rw [bind_ok ho]
  dsimp only
  split <;> rfl

/-- A checkstopped core runs no instruction. -/
theorem Dev.checkstop_stops (d : Dev) (c : Nat) : ((d.checkstop c).core c).checkstop = true := by
  have hr : ∀ (e : Dev) (n : Nat), (e.raise n).cores = e.cores := by
    intro e n
    unfold Dev.raise
    split
    · rfl
    · dsimp only
      split <;> rfl
  have hl : ∀ (e : Dev) (a b x y z u w : Nat), (e.log a b x y z u w).cores = e.cores := by
    intro e a b x y z u w
    unfold Dev.log
    by_cases hc : b = 0x10
    all_goals
      simp only [hc, if_true, if_false]
      split
      · rfl
      · split
        · exact hr _ _
        · rfl
  unfold Dev.checkstop
  simp only [Dev.core, hr, hl]
  simp [Dev.setCore]

end Sys2Proof.Machine
end

