-- ==== Sys2Proof/WellFormed.lean ====
section
/-!
DEFINITION. Well-formed commands: a specifier holds the extension parcels that its EXT field announces (R67), an in-line
displacement the parcels that bits 1:0 announce (R76), a line 128 cells (R41), a record its sixteen words (R423), an access
one to eight bytes (R514).
-/

namespace Sys2Proof

/-- EXT gives the number of extension parcels; values 4 to 7 have none (they are illegal, R67). -/
def Spec.wf (p : Spec) : Bool := p.xs.length == (if p.ext.toNat ≤ 3 then p.ext.toNat else 0)

/-- The specifiers of a core instruction, in specifier order (R65). -/
def Instr.specs : Instr → List Spec
  | .nop _ _ => []
  | .fence _ _ => []
  | .fenceP _ _ => []
  | .iflush _ _ => []
  | .svc _ _ => []
  | .sret _ _ => []
  | .rte _ _ => []
  | .mfc _ _ d => [d]
  | .mtc _ _ a => [a]
  | .mfcw _ _ d => [d]
  | .mtcw _ _ a => [a]
  | .mfb _ _ d => [d]
  | .mtb _ _ a => [a]
  | .lseg _ _ a => [a]
  | .sseg _ _ d => [d]
  | .br _ _ _ => []
  | .bz _ _ _ => []
  | .bnz _ _ _ => []
  | .jmp _ _ a => [a]
  | .call _ _ _ _ => []
  | .ret _ _ => []
  | .loop _ _ _ a => [a]
  | .lbrk _ _ => []
  | .tlbi _ _ a => [a]
  | .tlbsync _ _ => []
  | .cwr _ _ a d => [a, d]
  | .crd _ _ a d => [a, d]
  | .sgoStart _ _ a => [a]
  | .sgoResume _ _ a => [a]
  | .sgoCancel _ _ a => [a]
  | .twait _ _ a => [a]
  | .tsig _ _ a => [a]
  | .gateCall _ _ a => [a]
  | .tbrd _ _ d => [d]
  | .tslotRead _ _ a d => [a, d]
  | .tslotWrite _ _ a d => [a, d]
  | .idle _ _ => []
  | .add _ _ a b d => [a, b, d]
  | .sub _ _ a b d => [a, b, d]
  | .mul _ _ a b d => [a, b, d]
  | .mulu _ _ a b d => [a, b, d]
  | .div _ _ a b d => [a, b, d]
  | .divu _ _ a b d => [a, b, d]
  | .neg _ _ a d => [a, d]
  | .abs _ _ a d => [a, d]
  | .besidePipeComplete _ => []
  | .mov _ _ a d => [a, d]
  | .and _ _ a b d => [a, b, d]
  | .or _ _ a b d => [a, b, d]
  | .xor _ _ a b d => [a, b, d]
  | .andn _ _ a b d => [a, b, d]
  | .not _ _ a d => [a, d]
  | .shl _ _ a b d => [a, b, d]
  | .shr _ _ a b d => [a, b, d]
  | .sha _ _ a b d => [a, b, d]
  | .rol _ _ a b d => [a, b, d]
  | .ror _ _ a b d => [a, b, d]
  | .ins _ _ a b d => [a, b, d]
  | .ext _ _ a b d => [a, b, d]
  | .extu _ _ a b d => [a, b, d]
  | .clz _ _ a d => [a, d]
  | .popc _ _ a d => [a, d]
  | .perm _ _ a b d => [a, b, d]
  | .ceq _ _ a b d => [a, b, d]
  | .cne _ _ a b d => [a, b, d]
  | .clt _ _ a b d => [a, b, d]
  | .cle _ _ a b d => [a, b, d]
  | .cltu _ _ a b d => [a, b, d]
  | .cleu _ _ a b d => [a, b, d]
  | .tst _ _ a b d => [a, b, d]
  | .dadd _ _ _ a b d => [a, b, d]
  | .dsub _ _ _ a b d => [a, b, d]
  | .dmul _ _ _ a b d => [a, b, d]
  | .ddiv _ _ _ a b d => [a, b, d]
  | .dcmp _ _ _ a b d => [a, b, d]
  | .dsrp _ _ _ a b d => [a, b, d]
  | .dzad _ _ _ a d => [a, d]
  | .dtst _ _ _ a d => [a, d]
  | .cvzp _ _ _ a d => [a, d]
  | .cvpz _ _ _ a d => [a, d]
  | .cvdb _ _ _ a d => [a, d]
  | .cvdx _ _ _ a d => [a, d]
  | .cvbd _ _ _ a d => [a, d]
  | .cvxd _ _ _ a d => [a, d]
  | .cvdq _ _ _ a d => [a, d]
  | .cvqd _ _ _ a d => [a, d]
  | .daddm _ _ _ a b d => [a, b, d]
  | .dsubm _ _ _ a b d => [a, b, d]
  | .dcmpm _ _ _ a b d => [a, b, d]
  | .dzadm _ _ _ a d => [a, d]
  | .dtstm _ _ _ a d => [a, d]
  | .cvzpm _ _ _ a d => [a, d]
  | .cvpzm _ _ _ a d => [a, d]
  | .dclz _ _ _ a d => [a, d]
  | .zadd _ _ _ a b d => [a, b, d]
  | .zsub _ _ _ a b d => [a, b, d]
  | .zmul _ _ _ a b d => [a, b, d]
  | .zdiv _ _ _ a b d => [a, b, d]
  | .zcmp _ _ _ a b d => [a, b, d]
  | .zsrp _ _ _ a b d => [a, b, d]
  | .zzad _ _ _ a d => [a, d]
  | .ztst _ _ _ a d => [a, d]
  | .mva _ _ a d => [a, d]
  | .mvl _ _ a d => [a, d]
  | .mvf _ _ a d f => [a, d, f]
  | .mvm _ _ a d => [a, d]
  | .cmc _ _ a b d => [a, b, d]
  | .xlat _ _ d t => [d, t]
  | .xtst _ _ a t d => [a, t, d]
  | .src _ _ a v d => [a, v, d]
  | .srm _ _ a d => [a, d]
  | .edit _ _ p a d g => [p, a, d, g]
  | .edtm _ _ p a d g m => [p, a, d, g, m]
  | .fadd _ _ a b d => [a, b, d]
  | .fsub _ _ a b d => [a, b, d]
  | .fmul _ _ a b d => [a, b, d]
  | .fdiv _ _ a b d => [a, b, d]
  | .fma _ _ a b e d => [a, b, e, d]
  | .fsqrt _ _ a d => [a, d]
  | .fcmp _ _ a b d => [a, b, d]
  | .fcvt _ _ a d => [a, d]
  | .qadd _ _ a b d => [a, b, d]
  | .qsub _ _ a b d => [a, b, d]
  | .qmul _ _ a b d => [a, b, d]
  | .qdiv _ _ a b d => [a, b, d]
  | .qfma _ _ a b e d => [a, b, e, d]
  | .qsqrt _ _ a d => [a, d]
  | .qcmp _ _ a b d => [a, b, d]
  | .qqua _ _ a b d => [a, b, d]
  | .qcvt _ _ a d => [a, d]
  | .fmov _ _ a d => [a, d]
  | .qmov _ _ a d => [a, d]
  | .vld _ _ a d => [a, d]
  | .vst _ _ a d => [a, d]
  | .vadd _ _ a b d => [a, b, d]
  | .vsub _ _ a b d => [a, b, d]
  | .vmul _ _ a b d => [a, b, d]
  | .vmulw _ _ a b d => [a, b, d]
  | .vdmul _ _ a b d => [a, b, d]
  | .vdot _ _ a b d => [a, b, d]
  | .vddot _ _ a b d => [a, b, d]
  | .vand _ _ a b d => [a, b, d]
  | .vor _ _ a b d => [a, b, d]
  | .vxor _ _ a b d => [a, b, d]
  | .vcmp _ _ a b d => [a, b, d]
  | .vsel _ _ a b d => [a, b, d]
  | .vmask _ _ a b d => [a, b, d]
  | .svl _ _ a d => [a, d]
  | .padd _ _ a d => [a, d]
  | .padf _ _ a f d => [a, f, d]
  | .pswp _ _ r d => [r, d]
  | .pcas _ _ e n d => [e, n, d]
  | .pbad _ _ a d => [a, d]
  | .lkt _ _ lk g => [lk, g]
  | .lkr _ _ lk => [lk]
  | .postingStatusReturn _ => []
  | .interruptRequestArrival _ => []
  | .interruptAccept _ => []
  | .schedulerEvent _ _ _ _ => []
  | .signalArrival _ => []
  | .preempt _ => []
  | .detModeEnter _ => []
  | .storeBufferDrain _ => []
  | .lineBufferFill _ _ _ _ => []
  | .tableWalk _ _ => []
  | .invalidationArrival _ => []
  | .epochAging _ => []
  | .epochageWrite _ _ => []
  | .descriptorCheck _ => []
  | .elementCommit _ => []
  | .descriptorEnd _ => []
  | .geyserFence _ => []
  | .programEnd _ => []
  | .contextSwitch _ => []
  | .runFormation _ => []
  | .mergePass _ => []
  | .postingArrival _ => []
  | .groupService _ => []
  | .postingAcknowledge _ => []
  | .bankAtomic _ => []
  | .scrubRead _ _ _ => []
  | .refresh _ _ => []
  | .bankHandover _ _ _ _ => []
  | .handoverComplete _ _ => []
  | .forcedHandover _ _ _ _ => []
  | .bankrepWrite _ _ _ _ => []
  | .heatSample _ _ _ _ => []
  | .windowEnd => []
  | .forwardingLapse _ => []
  | .moveBudgetTick => []
  | .pageMoveStart => []
  | .pageMoveCopyDone _ => []
  | .pageMoveFinish _ => []
  | .moveAbandon _ => []
  | .clmoveRead _ _ => []
  | .clfrzWrite _ _ => []
  | .clhtbEnable _ _ => []
  | .sqDoorbell _ _ => []
  | .cqDoorbell _ _ => []
  | .queueEnable _ _ _ => []
  | .queueReset _ _ _ => []
  | .queueResetDone _ => []
  | .descriptorFetch _ _ _ => []
  | .nopDescriptor _ => []
  | .writeDescriptor _ => []
  | .readDescriptor _ => []
  | .postDescriptor _ => []
  | .msgDescriptor _ => []
  | .streamDescriptor _ => []
  | .conversionRecord _ => []
  | .hostDmaComplete _ _ _ => []
  | .qdone _ _ _ => []
  | .completionWrite _ => []
  | .coalesceTimeout _ => []
  | .msixUnmask _ _ => []
  | .cellWindowWrite _ _ => []
  | .cellWindowRead _ _ => []
  | .hostReadCompletion _ _ _ => []
  | .functionLevelReset _ => []
  | .linkRetrain _ _ => []
  | .spdmRequest _ _ _ => []
  | .sourceEvent _ => []
  | .swset _ _ => []
  | .isrcRouteChange _ _ _ => []
  | .join _ _ => []
  | .promote _ _ => []
  | .demote _ => []
  | .resolveContinue _ => []
  | .resolveYield _ => []
  | .leave _ => []
  | .recordHandover => []
  | .recordApply _ => []
  | .ackTimer => []
  | .twinAckReceive _ => []
  | .asyncLagExceeded => []
  | .heartbeatSend => []
  | .heartbeatReceive _ _ _ _ => []
  | .twinArbToggle => []
  | .twinArbSample _ => []
  | .twinArbEdge => []
  | .heartbeatTimeout => []
  | .dyingGaspReceive => []
  | .takeoverFrameReceive _ => []
  | .lineCopyRequest _ => []
  | .lineCopyResponse _ _ _ => []
  | .resyncComplete => []
  | .forwardedDescriptor _ _ _ => []
  | .closeMarker => []
  | .batchDigest _ => []
  | .ppsOutPulse => []
  | .ppsInEdge => []
  | .ptpMessage _ _ => []
  | .poolDatagram _ _ _ _ => []
  | .poolResend _ => []
  | .farRequest _ _ => []
  | .promotionAnnounce _ => []
  | .ethernetLinkChange _ _ => []
  | .parityError _ _ _ _ _ => []
  | .faultFence => []
  | .recoveryComplete => []
  | .recoveryOverBudget => []
  | .coldStart => []
  | .startStepComplete _ _ _ _ => []
  | .warmReset _ => []
  | .islandReset _ _ => []
  | .coreReset _ _ => []
  | .mailboxStatus _ _ => []
  | .flashWrite _ _ _ => []
  | .mcLoad _ _ _ => []
  | .mcLoadCore _ => []
  | .fuseSvn _ _ => []
  | .softRepair _ _ _ _ _ => []
  | .debugUnlock _ _ _ _ _ => []
  | .lockFields _ _ => []
  | .blockLockSet _ _ => []
  | .microwordReload _ _ => []
  | .dormantRequest _ => []
  | .fumWakeAssert _ => []
  | .wakeComplete _ => []
  | .islandGate _ => []
  | .islandUngate _ => []
  | .freqChange _ _ _ => []
  | .throttleStep _ _ => []
  | .thermalTrip _ _ => []
  | .comparatorMatch _ => []
  | .analogAlarm _ _ => []
  | .watchdogExpiry => []
  | .watchdogKick _ _ => []
  | .timeStep _ _ => []
  | .vaonPowerUp => []
  | .railDrop _ => []
  | .refclockLoss _ => []
  | .debugHalt _ => []
  | .debugResume _ => []
  | .debugStep _ => []
  | .custodyDebugAccess _ _ _ _ => []
  | .traceEnable _ => []
  | .registerWrite _ _ _ _ => []
  | .warmStart => []
  | .vaonRemoval => []
  | .twinLinkChange _ _ => []
  | .configurationRequest _ _ => []
  | .tapInstruction _ => []
  | .arbseenExpiry => []
  | .journalRecordAged => []

/-- Bits 1:0 of the opcode parcel announce the in-line parcels of BR, BZ, BNZ, CALL and LOOP (R76). -/
def inlineWf (ob : BitVec 6) (ps : List Parcel) : Bool := ps.length == ob.toNat % 4

/-- A journal record has eleven body words (words 3 to 13, R423). -/
def Record.wf (r : Record) : Bool := r.body.length == 11

/-- The further checks of a command's operands. -/
def Instr.argsWf : Instr → Bool
  | .nop _ _ => true
  | .fence _ _ => true
  | .fenceP _ _ => true
  | .iflush _ _ => true
  | .svc _ _ => true
  | .sret _ _ => true
  | .rte _ _ => true
  | .mfc _ _ _ => true
  | .mtc _ _ _ => true
  | .mfcw _ _ _ => true
  | .mtcw _ _ _ => true
  | .mfb _ _ _ => true
  | .mtb _ _ _ => true
  | .lseg _ _ _ => true
  | .sseg _ _ _ => true
  | .br _ ob ps => inlineWf ob ps
  | .bz _ ob ps => inlineWf ob ps
  | .bnz _ ob ps => inlineWf ob ps
  | .jmp _ _ _ => true
  | .call _ ob _ ps => inlineWf ob ps
  | .ret _ _ => true
  | .loop _ ob ps _ => inlineWf ob ps
  | .lbrk _ _ => true
  | .tlbi _ _ _ => true
  | .tlbsync _ _ => true
  | .cwr _ _ _ _ => true
  | .crd _ _ _ _ => true
  | .sgoStart _ _ _ => true
  | .sgoResume _ _ _ => true
  | .sgoCancel _ _ _ => true
  | .twait _ _ _ => true
  | .tsig _ _ _ => true
  | .gateCall _ _ _ => true
  | .tbrd _ _ _ => true
  | .tslotRead _ _ _ _ => true
  | .tslotWrite _ _ _ _ => true
  | .idle _ _ => true
  | .add _ _ _ _ _ => true
  | .sub _ _ _ _ _ => true
  | .mul _ _ _ _ _ => true
  | .mulu _ _ _ _ _ => true
  | .div _ _ _ _ _ => true
  | .divu _ _ _ _ _ => true
  | .neg _ _ _ _ => true
  | .abs _ _ _ _ => true
  | .besidePipeComplete _ => true
  | .mov _ _ _ _ => true
  | .and _ _ _ _ _ => true
  | .or _ _ _ _ _ => true
  | .xor _ _ _ _ _ => true
  | .andn _ _ _ _ _ => true
  | .not _ _ _ _ => true
  | .shl _ _ _ _ _ => true
  | .shr _ _ _ _ _ => true
  | .sha _ _ _ _ _ => true
  | .rol _ _ _ _ _ => true
  | .ror _ _ _ _ _ => true
  | .ins _ _ _ _ _ => true
  | .ext _ _ _ _ _ => true
  | .extu _ _ _ _ _ => true
  | .clz _ _ _ _ => true
  | .popc _ _ _ _ => true
  | .perm _ _ _ _ _ => true
  | .ceq _ _ _ _ _ => true
  | .cne _ _ _ _ _ => true
  | .clt _ _ _ _ _ => true
  | .cle _ _ _ _ _ => true
  | .cltu _ _ _ _ _ => true
  | .cleu _ _ _ _ _ => true
  | .tst _ _ _ _ _ => true
  | .dadd _ _ _ _ _ _ => true
  | .dsub _ _ _ _ _ _ => true
  | .dmul _ _ _ _ _ _ => true
  | .ddiv _ _ _ _ _ _ => true
  | .dcmp _ _ _ _ _ _ => true
  | .dsrp _ _ _ _ _ _ => true
  | .dzad _ _ _ _ _ => true
  | .dtst _ _ _ _ _ => true
  | .cvzp _ _ _ _ _ => true
  | .cvpz _ _ _ _ _ => true
  | .cvdb _ _ _ _ _ => true
  | .cvdx _ _ _ _ _ => true
  | .cvbd _ _ _ _ _ => true
  | .cvxd _ _ _ _ _ => true
  | .cvdq _ _ _ _ _ => true
  | .cvqd _ _ _ _ _ => true
  | .daddm _ _ _ _ _ _ => true
  | .dsubm _ _ _ _ _ _ => true
  | .dcmpm _ _ _ _ _ _ => true
  | .dzadm _ _ _ _ _ => true
  | .dtstm _ _ _ _ _ => true
  | .cvzpm _ _ _ _ _ => true
  | .cvpzm _ _ _ _ _ => true
  | .dclz _ _ _ _ _ => true
  | .zadd _ _ _ _ _ _ => true
  | .zsub _ _ _ _ _ _ => true
  | .zmul _ _ _ _ _ _ => true
  | .zdiv _ _ _ _ _ _ => true
  | .zcmp _ _ _ _ _ _ => true
  | .zsrp _ _ _ _ _ _ => true
  | .zzad _ _ _ _ _ => true
  | .ztst _ _ _ _ _ => true
  | .mva _ _ _ _ => true
  | .mvl _ _ _ _ => true
  | .mvf _ _ _ _ _ => true
  | .mvm _ _ _ _ => true
  | .cmc _ _ _ _ _ => true
  | .xlat _ _ _ _ => true
  | .xtst _ _ _ _ _ => true
  | .src _ _ _ _ _ => true
  | .srm _ _ _ _ => true
  | .edit _ _ _ _ _ _ => true
  | .edtm _ _ _ _ _ _ _ => true
  | .fadd _ _ _ _ _ => true
  | .fsub _ _ _ _ _ => true
  | .fmul _ _ _ _ _ => true
  | .fdiv _ _ _ _ _ => true
  | .fma _ _ _ _ _ _ => true
  | .fsqrt _ _ _ _ => true
  | .fcmp _ _ _ _ _ => true
  | .fcvt _ _ _ _ => true
  | .qadd _ _ _ _ _ => true
  | .qsub _ _ _ _ _ => true
  | .qmul _ _ _ _ _ => true
  | .qdiv _ _ _ _ _ => true
  | .qfma _ _ _ _ _ _ => true
  | .qsqrt _ _ _ _ => true
  | .qcmp _ _ _ _ _ => true
  | .qqua _ _ _ _ _ => true
  | .qcvt _ _ _ _ => true
  | .fmov _ _ _ _ => true
  | .qmov _ _ _ _ => true
  | .vld _ _ _ _ => true
  | .vst _ _ _ _ => true
  | .vadd _ _ _ _ _ => true
  | .vsub _ _ _ _ _ => true
  | .vmul _ _ _ _ _ => true
  | .vmulw _ _ _ _ _ => true
  | .vdmul _ _ _ _ _ => true
  | .vdot _ _ _ _ _ => true
  | .vddot _ _ _ _ _ => true
  | .vand _ _ _ _ _ => true
  | .vor _ _ _ _ _ => true
  | .vxor _ _ _ _ _ => true
  | .vcmp _ _ _ _ _ => true
  | .vsel _ _ _ _ _ => true
  | .vmask _ _ _ _ _ => true
  | .svl _ _ _ _ => true
  | .padd _ _ _ _ => true
  | .padf _ _ _ _ _ => true
  | .pswp _ _ _ _ => true
  | .pcas _ _ _ _ _ => true
  | .pbad _ _ _ _ => true
  | .lkt _ _ _ _ => true
  | .lkr _ _ _ => true
  | .postingStatusReturn _ => true
  | .interruptRequestArrival _ => true
  | .interruptAccept _ => true
  | .schedulerEvent _ _ _ _ => true
  | .signalArrival _ => true
  | .preempt _ => true
  | .detModeEnter _ => true
  | .storeBufferDrain _ => true
  | .lineBufferFill _ _ _ _ => true
  | .tableWalk _ _ => true
  | .invalidationArrival _ => true
  | .epochAging _ => true
  | .epochageWrite _ _ => true
  | .descriptorCheck _ => true
  | .elementCommit _ => true
  | .descriptorEnd _ => true
  | .geyserFence _ => true
  | .programEnd _ => true
  | .contextSwitch _ => true
  | .runFormation _ => true
  | .mergePass _ => true
  | .postingArrival _ => true
  | .groupService _ => true
  | .postingAcknowledge _ => true
  | .bankAtomic _ => true
  | .scrubRead _ slot _ => slot < 3 * 2 ^ 21
  | .refresh _ _ => true
  | .bankHandover _ _ _ _ => true
  | .handoverComplete _ _ => true
  | .forcedHandover _ _ _ _ => true
  | .bankrepWrite _ _ _ _ => true
  | .heatSample _ _ _ _ => true
  | .windowEnd => true
  | .forwardingLapse _ => true
  | .moveBudgetTick => true
  | .pageMoveStart => true
  | .pageMoveCopyDone _ => true
  | .pageMoveFinish _ => true
  | .moveAbandon _ => true
  | .clmoveRead _ size => 0 < size.val
  | .clfrzWrite _ _ => true
  | .clhtbEnable _ _ => true
  | .sqDoorbell _ _ => true
  | .cqDoorbell _ _ => true
  | .queueEnable _ _ _ => true
  | .queueReset _ _ _ => true
  | .queueResetDone _ => true
  | .descriptorFetch _ _ _ => true
  | .nopDescriptor _ => true
  | .writeDescriptor _ => true
  | .readDescriptor _ => true
  | .postDescriptor _ => true
  | .msgDescriptor _ => true
  | .streamDescriptor _ => true
  | .conversionRecord _ => true
  | .hostDmaComplete _ _ _ => true
  | .qdone _ _ _ => true
  | .completionWrite _ => true
  | .coalesceTimeout _ => true
  | .msixUnmask _ _ => true
  | .cellWindowWrite _ bytes => 0 < bytes.length && bytes.length ≤ 4096
  | .cellWindowRead _ n => 0 < n && n ≤ 4096
  | .hostReadCompletion _ _ _ => true
  | .functionLevelReset _ => true
  | .linkRetrain _ _ => true
  | .spdmRequest _ _ _ => true
  | .sourceEvent _ => true
  | .swset _ _ => true
  | .isrcRouteChange _ _ _ => true
  | .join _ _ => true
  | .promote _ _ => true
  | .demote _ => true
  | .resolveContinue _ => true
  | .resolveYield _ => true
  | .leave _ => true
  | .recordHandover => true
  | .recordApply r => r.wf
  | .ackTimer => true
  | .twinAckReceive _ => true
  | .asyncLagExceeded => true
  | .heartbeatSend => true
  | .heartbeatReceive _ _ _ _ => true
  | .twinArbToggle => true
  | .twinArbSample _ => true
  | .twinArbEdge => true
  | .heartbeatTimeout => true
  | .dyingGaspReceive => true
  | .takeoverFrameReceive _ => true
  | .lineCopyRequest _ => true
  | .lineCopyResponse _ cells _ => cells.length == 128
  | .resyncComplete => true
  | .forwardedDescriptor _ _ _ => true
  | .closeMarker => true
  | .batchDigest _ => true
  | .ppsOutPulse => true
  | .ppsInEdge => true
  | .ptpMessage _ _ => true
  | .poolDatagram _ _ _ _ => true
  | .poolResend _ => true
  | .farRequest _ _ => true
  | .promotionAnnounce _ => true
  | .ethernetLinkChange _ _ => true
  | .parityError _ _ _ _ _ => true
  | .faultFence => true
  | .recoveryComplete => true
  | .recoveryOverBudget => true
  | .coldStart => true
  | .startStepComplete _ _ _ _ => true
  | .warmReset _ => true
  | .islandReset _ _ => true
  | .coreReset _ _ => true
  | .mailboxStatus _ _ => true
  | .flashWrite _ _ _ => true
  | .mcLoad _ _ _ => true
  | .mcLoadCore _ => true
  | .fuseSvn _ _ => true
  | .softRepair _ _ _ _ row => row < 2 ^ 16
  | .debugUnlock _ _ _ _ _ => true
  | .lockFields _ _ => true
  | .blockLockSet _ _ => true
  | .microwordReload _ _ => true
  | .dormantRequest _ => true
  | .fumWakeAssert _ => true
  | .wakeComplete _ => true
  | .islandGate _ => true
  | .islandUngate _ => true
  | .freqChange _ _ _ => true
  | .throttleStep _ _ => true
  | .thermalTrip _ _ => true
  | .comparatorMatch _ => true
  | .analogAlarm _ _ => true
  | .watchdogExpiry => true
  | .watchdogKick _ _ => true
  | .timeStep _ _ => true
  | .vaonPowerUp => true
  | .railDrop _ => true
  | .refclockLoss _ => true
  | .debugHalt _ => true
  | .debugResume _ => true
  | .debugStep _ => true
  | .custodyDebugAccess _ _ n _ => 0 < n
  | .traceEnable _ => true
  | .registerWrite _ _ size _ => 0 < size.val
  | .warmStart => true
  | .vaonRemoval => true
  | .twinLinkChange _ _ => true
  | .configurationRequest _ _ => true
  | .tapInstruction _ => true
  | .arbseenExpiry => true
  | .journalRecordAged => true

/-- The check of a command: every specifier and every further operand is as the encoding gives it. -/
def Instr.wf (i : Instr) : Bool := i.specs.all Spec.wf && i.argsWf

end Sys2Proof
end

