-- ==== Sys2Proof/Tests/Slice0.lean ====
section
/-!
SUPPORT. Small tests of the model: forms that are refused, the manual's worked cases, and for each statement a state and operands that meet
its hypotheses.
-/

namespace Sys2Proof.Tests

open Sys2Proof Sys2Proof.Machine Sys2Proof.Claims

set_option Elab.async false

/-! ## Small states -/

/-- A cached translation of data page 0 to frame 0 with every right. -/
def page0 (world code : Bool) (kind : Nat) : Tlb :=
  { world := world, code := code, page := 0, ipage := 0, frame := 0, g := true, key := 0, u := true, r1 := true, w1 := true, se1 := false,
    r2 := true, w2 := true, se2 := false, kind := kind, pol := 0, d := true, grp := false, epoch := 0 }

/-- A data segment of 4096 cells at linear address 0. -/
def data : SegDesc :=
  { typ := 0, rd := true, wr := true, cw := false, jr := false, key := 0, sup := false, base := 0, limit := 4095, segtag := 0 }

/-- A segment register that holds it. -/
def flat : SegReg := { sel := 1, desc := some data }

/-- A bank whose G registers hold `gs`, every segment register naming the data segment. -/
def bankOf (gs : AMap Word) : Bank := { g := gs, s := (upto 8).map fun i => (i, flat) }

/-- A core that has started, at task level in CS (R54), with G registers `gs`. -/
def coreOf (gs : AMap Word) : Core :=
  { started := true, banks := [(0, bankOf gs)], dtlb := [page0 true false 0], cstat := 0o600000000000#36 ||| 2 ^ 25 }

/-- A device that runs, its core 0 as given. -/
def devOf (k : Core) : Dev :=
  { cores := [(0, k)], board := { stopped := false, perst := false, railsDropped := false, linkUp := true, ledgerOk := true } }

/-- A state whose core 0 has G registers `gs`. -/
def run (gs : AMap Word) : State := { dev := devOf (coreOf gs), fum := { time := 100000 } }

/-- `s` with words `ws` in the cells from physical address `a`. -/
def holding (a : Nat) (ws : List Nat) (s : State) : State :=
  { s with dev := s.dev.pokes (s.dev.physN a (4 * ws.length)) (ws.flatMap (natCells 4)) }

/-- `s` with another core 0. -/
def core0 (f : Core → Core) (s : State) : State := { s with dev := s.dev.updCore 0 f }

/-- `s` with another device. -/
def onD (f : Dev → Dev) (s : State) : State := { s with dev := f s.dev }

/-- `s` with a register at `v`. -/
def regAt (off v : Nat) (s : State) : State := onD (fun d => d.wr off v) s

/-- CSTAT of core 0 at `v`. -/
def cstat (v : Word) : State → State := core0 fun k => { k with cstat := v }

/-- Operand specifiers: G`r`; the cells at G`r` in segment `s`; a short immediate. -/
def reg (r : BitVec 4) : Spec := { mode := 0, reg := r, seg := 0, ext := 0, xs := [] }
def at' (r : BitVec 4) (s : BitVec 3) : Spec := { mode := 1, reg := r, seg := s, ext := 0, xs := [] }
def imm (n : BitVec 4) : Spec := { mode := 13, reg := n, seg := 0, ext := 0, xs := [] }

/-! ## Witnesses of actions -/

/-- What an action leaves. -/
def left {α : Type} (m : M α) (d : Dev) : Dev := (m d).2

theorem gives {α : Type} {m : M α} {d : Dev} (a : α) (h : (m d).1 = .ok a) : Gives m d a (left m d) := Prod.ext h rfl

/-- What an action answers. -/
def answer {α : Type} (m : M α) (d : Dev) : Option α := match (m d).1 with | .ok a => some a | .error _ => none

/-- Whether it answers. -/
def answers {α : Type} (m : M α) (d : Dev) : Bool := (answer m d).isSome

/-- What it answers, as it does. -/
def got {α : Type} (m : M α) (d : Dev) (h : answers m d = true) : α := (answer m d).get h

theorem gives' {α : Type} {m : M α} {d : Dev} (h : answers m d = true) : Gives m d (got m d h) (left m d) := by
  refine gives _ ?_
  cases hr : (m d).1 with
  | ok a => simp [got, answer, hr]
  | error e => simp [answers, answer, hr] at h

theorem gives₀ {m : M Unit} {d : Dev} (h : answers m d = true) : Gives m d () (left m d) := gives' h

theorem gives₂ {α β : Type} {m : M (α × β)} {d : Dev} (h : answers m d = true) : Gives m d ((got m d h).1, (got m d h).2) (left m d) :=
  gives' h

theorem gives₃ {α β γ : Type} {m : M (α × β × γ)} {d : Dev} (h : answers m d = true) :
    Gives m d ((got m d h).1, (got m d h).2.1, (got m d h).2.2) (left m d) := gives' h

theorem split₂ {α β : Type} (p : α × β) : p = (p.1, p.2) := rfl

theorem ready {x : Ins} {d : Dev} (h : d.canRun x.c = true ∧ (d.core x.c).micro = none ∧
    (d.core x.c).fetchFault (d.core x.c).pc.toNat (Nat.min x.len 10) = none ∧ x.len ≤ 10) : Ready x d := h

theorem writes {c : Nat} {upd : AMap Word} {dst : Dst} {cs : List Cell} {d : Dev} (h : answers (commitUpd c upd) d = true)
    (h' : answers (putDst c dst cs) (left (commitUpd c upd) d) = true) :
    Writes c upd dst cs d (left (putDst c dst cs) (left (commitUpd c upd) d)) := ⟨_, gives' h, gives' h'⟩

theorem noTrap {c sf : Nat} {d : Dev} (h : trapOf (d.core c).te sf = none) : NoTrap c sf d := h

theorem writesG {c : Nat} {upd : AMap Word} {r v : Nat} {d : Dev} (h : answers (commitUpd c upd) d = true)
    (h' : answers (wrG c r (BitVec.ofNat 36 v)) (left (commitUpd c upd) d) = true) :
    WritesG c upd r v d (left (wrG c r (BitVec.ofNat 36 v)) (left (commitUpd c upd) d)) := ⟨_, gives' h, gives' h'⟩

theorem ends {c : Nat} {ws : List Wr} {sf : Nat} {d : Dev} (h : (d.core c).det = false) (h' : ws.any (wrBusy (d.core c)) = false) :
    Ends c ws sf d (d.updCore c fun k => { k with beside := k.beside ++ [{ pc := k.pc, writes := ws, sf := BitVec.ofNat 8 sf, te := BitVec.ofNat 8 k.te }] }) := by
  unfold Ends; rw [h]; exact ⟨h', rfl⟩

theorem writesField {c : Nat} {upd : AMap Word} {z : Bool} {o : DecOp} {v : Int} {d : Dev} (h : answers (commitUpd c upd) d = true)
    (h' : answers (putField c o (decFit z o.n v ((left (commitUpd c upd) d).core c).dsm).1) (left (commitUpd c upd) d) = true) :
    WritesField c upd z o v d (left (putField c o (decFit z o.n v ((left (commitUpd c upd) d).core c).dsm).1) (left (commitUpd c upd) d)) :=
  ⟨_, gives' h, gives' h'⟩

theorem writesMarked {c : Nat} {upd : AMap Word} {z : Bool} {o : DecOp} {v : Int} {d : Dev} (h : answers (commitUpd c upd) d = true)
    (ho : o.dst = some (o.dst.getD (.g 0 0)))
    (h' : answers (putDst c (o.dst.getD (.g 0 0)) (((decFit z o.n v ((left (commitUpd c upd) d).core c).dsm).1.zip
      (256 :: List.replicate (o.n - 1) 0)).map fun p => BitVec.ofNat 9 (p.1 + p.2))) (left (commitUpd c upd) d) = true) :
    WritesMarked c upd z o v d (left (putDst c (o.dst.getD (.g 0 0)) (((decFit z o.n v ((left (commitUpd c upd) d).core c).dsm).1.zip
      (256 :: List.replicate (o.n - 1) 0)).map fun p => BitVec.ofNat 9 (p.1 + p.2))) (left (commitUpd c upd) d)) :=
  ⟨_, _, gives' h, ho, gives' h'⟩

/-- Whether a datum is a finite number. -/
def finite : Fp → Bool
  | .fin .. => true
  | _ => false

theorem notFinite {x : Fp} (h : finite x = false) : ∀ neg cf ex, x ≠ .fin neg cf ex := by
  intro neg cf ex e; rw [e] at h; cases h

theorem givesIs {α : Type} {m : M α} {d : Dev} (a : α) (h : answer m d = some a) : Gives m d a (left m d) := by
  refine gives a ?_
  unfold answer at h
  split at h
  · cases h; assumption
  · cases h

theorem givesAs {α : Type} {m : M α} {d d' : Dev} {a : α} (h : answer m d = some a) (h' : left m d = d') : Gives m d a d' :=
  h' ▸ givesIs a h

theorem all_one {c n : Nat} {step : Nat → M Bool} {d : Dev} (hn : n = 1) (h : answer (step 0) d = some false) :
    All c n step d (cellDone c (left (step 0) d)) := by
  subst hn; exact ⟨_, givesIs _ h, fun _ h => absurd h (by decide), rfl⟩

theorem all_two {c n : Nat} {step : Nat → M Bool} {d : Dev} (hn : n = 2) (h : answer (step 0) d = some false)
    (h1 : ((cellDone c (left (step 0) d)).core c).strDone % 64 ≠ 0) (h' : answer (step 1) (cellDone c (left (step 0) d)) = some false) :
    All c n step d (cellDone c (left (step 1) (cellDone c (left (step 0) d)))) := by
  subst hn; exact ⟨_, givesIs _ h, fun h => absurd h h1, _, givesIs _ h', fun _ h => absurd h (by decide), rfl⟩

theorem stops_first {c n : Nat} {step : Nat → M Bool} {d : Dev} (hn : 0 < n) (h : answer (step 0) d = some true) :
    StopsAt c n 0 step d (left (step 0) d) := ⟨hn, _, rfl, givesIs _ h⟩

/-- `s` with core 0's S1 a code window on page 0, and that page of code cached. -/
def window : State → State := core0 fun k => { k with
  dtlb := page0 true true 1 :: k.dtlb
  banks := k.banks.map fun p => (p.1, { p.2 with s := p.2.s.put 1 { flat with desc := flat.desc.map fun x => { x with cw := true } } }) }

theorem mayPost {c : Nat} {loc : MemLoc} {d : Dev} (h : answers (drainBlock c loc) d = true)
    (h1 : ((left (drainBlock c loc) d).core c).posts.length < 32) (h2 : (left (drainBlock c loc) d).fld offSNSTAT 31 28 ≠ 6) :
    MayPost c loc d (left (drainBlock c loc) d) := ⟨gives₀ h, h1, h2⟩

theorem postEnds {c op i : Nat} {ob : BitVec 6} {e : Spec} {x y : List Cell} {gr : Option Nat} {u : AMap Word} {d d3 : Dev}
    (h : answers (memOpd c i (postCells (ob.toNat / 16)) .posting e u) d = true)
    (h1 : answers (commitUpd c (got _ d h).2.2) (left (memOpd c i (postCells (ob.toNat / 16)) .posting e u) d) = true)
    (h2 : ((got _ d h).1.cells.headD { addr := 0 }).addr % postCells (ob.toNat / 16) = 0)
    (h3 : MayPost c (got _ d h).1 (left (commitUpd c (got _ d h).2.2) (left (memOpd c i (postCells (ob.toNat / 16)) .posting e u) d)) d3) :
    PostEnds c op ob e i x y gr u d (posted c op (ob.toNat / 16) (got _ d h).1 x y (some (ob.toNat % 16)) gr none d3) := by
  refine ⟨_, _, _, _, _, gives₃ h, gives₀ h1, ?_⟩
  rw [if_pos h2]; exact ⟨_, h3, rfl⟩

/-- A stream context in state `st` that core 0 started in custody; its SCB lies at linear address 0. -/
def gey (st : BitVec 4) : GeyCtx :=
  { world := true, scbLin := 0, scbKey := 0, scbJr := false, scbTag := 0, pseg := 0, segs := [(0, flat)], pkr := 0, sup := true,
    croot := 0, droot := 0, slot := 0, core := 0, st := st, w := [], det := false }

/-- An engine of island 0 that runs a context in custody; page 1 is in the island's bank, which the engine owns. -/
def stream (f : GeyCtx → GeyCtx) : State :=
  (upto 16).foldl (fun s b => regAt (offBANKOWN 0 b) 2 s) (onD (fun d => d.updIsl 0 fun x => { x with
    ctxs := [(0, f { gey 2 with segs := [(0, { flat with desc := flat.desc.map fun x => { x with limit := 8191 } })] })]
    running := some 0
    tlb := [page0 true false 0, { page0 true false 0 with page := 1, ipage := 1, frame := 2 ^ 31 }] }) (run []))

/-- Words of a descriptor. -/
def words (l : List Nat) : List Word := l.map (BitVec.ofNat 36)

/-- A stream descriptor: three words from 1024 to 2048. -/
def copyDesc : List Word :=
  words ([0, 2 * 2 ^ 32 + 2 * 2 ^ 20, 3, 2 ^ 35 + 4, 1024, 0, 0, 0, 0, 0, 0, 0, 0, 2 ^ 35 + 4, 2048] ++ List.replicate 17 0)

/-- A run formation of two records of one word. -/
def sortDesc : List Word :=
  words ([2 ^ 32, 7 * 2 ^ 32 + 7 * 2 ^ 20, 2, 2 ^ 35 + 4, 1024, 0, 0, 0, 0, 0, 0, 2 ^ 35 + 4, 4096, 2 ^ 35 + 4, 2048] ++ List.replicate 10 0 ++
    [2 ^ 13 + 3] ++ List.replicate 6 0)

/-- A merge pass of two runs of one record. -/
def mergeDesc : List Word :=
  words ([2 * 2 ^ 32, 7 * 2 ^ 32 + 7 * 2 ^ 20, 2, 2 ^ 35 + 4, 1024, 0, 0, 0, 0, 0, 0, 0, 0, 2 ^ 35 + 4, 2048, 0, 0, 0, 0, 0, 0, 1, 0, 0, 0, 3] ++
    List.replicate 6 0)

/-- A page move of frame 9, which the ledger world's stage-2 leaf of page 0 names. -/
def near : Move := { source := 9, pol := 0, mask := 255 }

/-- `s` with a move in place 0. -/
def moving (m : Move) : State → State := onD fun d => { d with cal := { d.cal with moves := [(0, m)] } }

/-- Stage-2 tables of the ledger world in frames 1 to 4: page 0 is frame 9. -/
def tables (s : State) : State :=
  regAt offTRL2A (2 ^ 63 + 1) (holding 4096 [2 ^ 35 + 2, 2] (holding 8192 [2 ^ 35 + 3, 3] (holding 12288 [2 ^ 35 + 4, 4]
    (holding 16384 [2 ^ 35 + 2 ^ 34 + 2 ^ 33, 9] s))))

/-- Caldera may begin a move: a budget, a peer behind far window 5, CLCTL as given, frame 1 free. -/
def budgeted (clctl : Nat) : State :=
  regAt (offPLWIN 5) (2 ^ 63 + 3) (regAt offCLBUD (2 ^ 16 + 1) (regAt offCLCTL clctl (holding (2 ^ 29) [2] (tables (run [])))))

theorem mem_upto {k : Nat} : ∀ {n : Nat}, k < n → k ∈ upto n
  | 0, h => absurd h (Nat.not_lt_zero k)
  | n + 1, h => List.mem_append.mpr <|
      (Nat.lt_succ_iff_lt_or_eq.mp h).elim (fun h => .inl (mem_upto h)) fun h => .inr (List.mem_singleton.mpr h)

theorem pick_some {α : Type} {d : Dev} {l : List α} (h : l ≠ []) :
    d.pick l = some (l[(Config.freeWord d.free).toNat % l.length]'(Nat.mod_lt _ (List.length_pos_iff.mpr h))) :=
  List.getElem?_eq_getElem _

/-- A Gen-A descriptor of index 0 (R389). -/
def descA (opc len addr off devlen conv : Nat) : QDesc :=
  { index := 0, gen := 0, bytes := natBytes 4 opc ++ natBytes 4 len ++ natBytes 8 addr ++ natBytes 4 off ++ natBytes 4 devlen ++ natBytes 8 conv }

/-- Queue 256 enabled, bound to slot 0 of core 0, with descriptors `ds` and one more submitted; its rings have 16 entries. -/
def queueOf (ds : List QDesc) : State :=
  regAt (offQCFG 256) (2 ^ 63 + 4 * 2 ^ 52 + 4 * 2 ^ 47) (regAt (offQBIND 256) (2 ^ 63) (regAt (offQSTAT 256) (1 + 2 ^ 48) (regAt (offQIMG 256) 1024
    (onD (fun d => ({ d with pf1 := { busMaster := true, msixEnable := true } }.setQueue 256 { segs := [(0, flat)], descs := ds }).updIsl 0 fun x =>
      { x with tlb := [page0 true false 0] }) (run [])))))

/-- A READ of the cells 4095 and 4096 whose second cell, in the host window, has come poisoned. -/
def lostRead : QDesc :=
  { descA 2 2 0 4095 2 0 with st := .converting, ext := [{ addr := hostWinBase, n := 1, data := some [0], poisoned := true }] }

/-- `s` with queue 256's segment of two pages, the second in the host window. -/
def hostPage : State → State := onD fun d =>
  (d.updQueue 256 fun x => { x with segs := [(0, { flat with desc := flat.desc.map fun x => { x with limit := 8191 } })] }).updIsl 0 fun x =>
    { x with tlb := { page0 true false 0 with page := 1, ipage := 1, frame := hostWinBase / 4096 } :: x.tlb }

/-- A completion with status 0. -/
def aComp : Comp := { index := 0, gen := 0, tag := 0, status := 0 }

/-- One of a pair with its link up, in a mode, role and pair state of Sinter; `bits` are more bits of SNSTAT (R415, R417). -/
def pair (mode role st bits : Nat) : State :=
  regAt offSNCFG (mode + 4 * role) (regAt offSNSTAT (st * 2 ^ 28 + 2 ^ 27 + bits) (run []))

/-- `s` with another state of Sinter. -/
def sinter (f : Sinter → Sinter) : State → State := onD fun d => { d with sn := f d.sn }

/-- Journal record 1: a word at 0 is written. -/
def aRecord : Record := { kind := 2, seq := 1, body := [], epoch := 0, src := 0 }

/-- A pool device that exports frames 4 to 7. -/
def pooled : State := regAt offPLCFG (2 ^ 63) (regAt offPLEXP (7 * 2 ^ 32 + 4) (run []))

/-- A start in progress whose last finished step is `n` (R478, R480). -/
def starting (n : Nat) : State :=
  regAt offCUSTSTAT n (onD (fun d => { d with cust := { d.cust with starting := true }, board := { d.board with stopped := true } }) (run []))

theorem enters {c : Nat} {v : Delivery} {took : Dev → Dev} {d : Dev} (h : answers (deliver c v) d = true) :
    Enters c v took d (((took (left (deliver c v) d)).updCore c fun k => { k with entry := none, ext := [] }).endStep c) :=
  ⟨_, gives₀ h, rfl⟩

/-- `s` with an HDT entry for vector `v` at level `l`: custody supervisor code at 100 on the current stack. -/
def handler (v l : Nat) : State → State := holding (16 * v) [2 ^ 35 + 3 * 2 ^ 31 + l * 2 ^ 28, 100, 0, 0]

/-- A request of source 5 at level 3. -/
def request : IrqReq := { source := 5, level := 3, vector := 70, world := true }

/-- An entry under way for an interrupt of level 2; one for a privilege fault. -/
def irq2 : Delivery := { vec := 71, world := true, level := some 2, irq := true, spc := 8, fpc := 8 }
def trap2 : Delivery := { vec := 2, world := true, spc := 8, fpc := 8 }

/-- A ready slot of priority 2 in task bank 1. -/
def readySlot : Slot := { valid := true, world := true, prio := 2, st := .ready, res := true, bank := 1, pc := 64, tstat := 0o600000000000 }

/-- A PADD of core 0: a binary word of 1 to the word at 0. -/
def posting : Posting :=
  { id := 3, who := .core 0, op := 4, ty := 2, dsm := false, x := natCells 4 1, y := [], loc := { addr := 0 }, jr := false, segtag := 0 }

theorem givesFst {α β : Type} {m : M (α × β)} {d : Dev} {b : β} (h : answers m d = true) (h' : (got m d h).2 = b) :
    Gives m d ((got m d h).1, b) (left m d) := h' ▸ gives' h

theorem givesSome {α : Type} {m : M (Option α)} {d : Dev} (h : answers m d = true) (h' : (got m d h).isSome = true) :
    Gives m d (some ((got m d h).get h')) (left m d) := (Option.some_get h').symm ▸ gives' h

/-- `s` with F registers and VCFG. -/
def ext (f : AMap QWord) (vcfg : Word) : State → State := core0 fun k => { k with f := f, vcfg := vcfg }

/-- Core 0 in custody's user context; the handler of a privilege fault runs in CS with the stack of segment 1 at 1024. -/
def user : State :=
  cstat 0o400000000000#36 (holding 32 [2 ^ 35 + 3 * 2 ^ 31 + 3 * 2 ^ 28 + 1, 100, 1024, 0] (holding 16 [2 ^ 35 + 2 ^ 32 + 2 ^ 31, 0, 4095, 0]
    (core0 (fun k => { k with cus := { k.cus with sdtl := 2 } }) (run []))))

/-- The state after a step. -/
def after (s : State) : State := match step s with | .next t => t | _ => s

/-- Whether a step answers a next state. -/
def goes (s : State) : Bool := match step s with | .next _ => true | _ => false

theorem steps {s : State} (h : goes s = true) : step s = .next (after s) := by
  unfold goes at h; unfold after
  split at h
  · simp only [*]
  · cases h

/-- An addition waits. -/
def adding : State := { run [(1, 7)] with pending := [.add 0 32 (reg 1) (reg 1) (reg 2)] }

/-! ## For each statement, states and operands that meet its hypotheses -/

theorem wit_IntegerResultsComplete_0 :
  ∀ r ∈ oneSource,
  ∃ (s : State) (c : CoreId) (ob : BitVec 6) (a e : Spec) (x : Nat) (dst : Dst) (upd : AMap Word) (d1 d2 : Dev),
    let i : Ins := { c := c, op := r.op, ob := ob.toNat, specs := [a, e] }
    let n := widthCells ob
    let v := r.val (bits ob) x
    Ready i (now s) ∧
    (ob.toNat % 16 = 0 ∧ r.ok ob = true ∧ okIntSrc n a = true ∧ okIntDst n e = true) ∧
    One c n a e (now s) x dst upd d1 ∧
    Writes c upd dst (natCells n v.1) d1 d2 ∧
    NoTrap c v.2 d2 := by
  intro r hr
  simp only [oneSource, List.mem_cons, List.not_mem_nil, or_false] at hr
  rcases hr with rfl | rfl | rfl | rfl | rfl | rfl
  all_goals refine ⟨run [(2, 7)], 0, 48, reg 2, at' 3 0, _, _, _, _, _, ready ?_, ?_, ⟨_, _, gives₂ ?_, gives₂ ?_⟩, writes ?_ ?_, noTrap ?_⟩
  all_goals first | decide +kernel | (dsimp only [Ready, NoTrap]; decide +kernel)

theorem wit_IntegerResultsComplete_1 :
  ∀ r ∈ twoSources,
  ∃ (s : State) (c : CoreId) (ob : BitVec 6) (a b e : Spec) (x y : Nat) (dst : Dst) (upd : AMap Word) (d1 d2 : Dev),
    let i : Ins := { c := c, op := r.op, ob := ob.toNat, specs := [a, b, e] }
    let n := widthCells ob
    let nb := if r.word then 4 else n
    let v := r.val (bits ob) x y
    Ready i (now s) ∧
    (ob.toNat % 16 = 0 ∧ r.ok ob = true ∧ okIntSrc n a = true ∧ okIntSrc nb b = true ∧ okIntDst n e = true) ∧
    Two c n nb a b e (now s) x y dst upd d1 ∧
    Writes c upd dst (natCells n v.1) d1 d2 ∧
    NoTrap c v.2 d2 := by
  intro r hr
  simp only [twoSources, List.mem_cons, List.not_mem_nil, or_false] at hr
  rcases hr with rfl | rfl | rfl | rfl | rfl | rfl | rfl | rfl | rfl | rfl | rfl | rfl | rfl | rfl
  all_goals refine ⟨run [(2, 7), (5, 3)], 0, 48, reg 2, reg 4, at' 6 0, _, _, _, _, _, _, ready ?_, ?_, ⟨_, _, ⟨_, _, gives₂ ?_, gives₂ ?_⟩, gives₂ ?_⟩, writes ?_ ?_, noTrap ?_⟩
  all_goals first | decide +kernel | (dsimp only [Ready, NoTrap]; decide +kernel)

theorem wit_IntegerComparesComplete_0 :
  ∀ r ∈ compares,
  ∃ (s : State) (c : CoreId) (ob : BitVec 6) (a b e : Spec) (x y : Nat) (upd : AMap Word) (d1 d2 : Dev),
    let i : Ins := { c := c, op := r.op, ob := ob.toNat, specs := [a, b, e] }
    let n := widthCells ob
    Ready i (now s) ∧
    (ob.toNat % 16 = 0 ∧ okIntSrc n a = true ∧ okIntSrc n b = true ∧ okReg e = true) ∧
    Sources c n n a b (now s) x y upd d1 ∧
    WritesG c upd e.reg.toNat (if r.holds (bits ob) x y then 1 else 0) d1 d2 := by
  intro r hr
  simp only [compares, List.mem_cons, List.not_mem_nil, or_false] at hr
  rcases hr with rfl | rfl | rfl | rfl | rfl | rfl | rfl
  all_goals refine ⟨run [(2, 7), (5, 3)], 0, 48, reg 2, at' 6 1, reg 8, _, _, _, _, _, ready ?_, ?_, ⟨_, _, gives₂ ?_, gives₂ ?_⟩, writesG ?_ ?_⟩
  all_goals first | decide +kernel | (dsimp only [Ready]; decide +kernel)

theorem wit_MultiplyDivideInsertComplete_0 :
  ∀ r ∈ multiplies,
  ∃ (s : State) (c : CoreId) (ob : BitVec 6) (a b e : Spec) (x y : Nat) (dst : Dst) (upd : AMap Word) (d1 d2 d3 : Dev),
    let i : Ins := { c := c, op := r.op, ob := ob.toNat, specs := [a, b, e] }
    let n := widthCells ob
    let v := r.val (bits ob) x y
    Ready i (now s) ∧
    (ob.toNat % 16 = 0 ∧ okIntSrc n a = true ∧ okIntSrc n b = true ∧ okIntDst n e = true) ∧
    Two c n n a b e (now s) x y dst upd d1 ∧
    Gives (commitUpd c upd) d1 () d2 ∧
    Ends c (dstWrites (d2.core c) dst (natCells n v.1)) v.2 d2 d3 := by
  intro r hr
  simp only [multiplies, List.mem_cons, List.not_mem_nil, or_false] at hr
  rcases hr with rfl | rfl
  all_goals refine ⟨run [(2, 7), (5, 3)], 0, 48, reg 2, reg 4, at' 6 0, _, _, _, _, _, _, _, ready ?_, ?_, ⟨_, _, ⟨_, _, gives₂ ?_, gives₂ ?_⟩, gives₂ ?_⟩, gives₀ ?_, ends ?_ ?_⟩
  all_goals first | decide +kernel | ((try unfold Gives); dsimp only [Ready]; decide +kernel)

theorem wit_MultiplyDivideInsertComplete_1 :
  ∀ r ∈ divides,
  ∃ (s : State) (c : CoreId) (ob : BitVec 6) (a b e : Spec) (x y : Nat) (dst : Dst) (upd : AMap Word) (old : List Cell) (d1 d2 d3 d4 : Dev),
    let i : Ins := { c := c, op := r.op, ob := ob.toNat, specs := [a, b, e] }
    let n := widthCells ob
    let q := ob.toNat % 16
    let v := r.val (bits ob) x y
    let ws := dstWrites (d3.core c) dst (natCells n v.1)
    Ready i (now s) ∧
    ((n ≠ 8 ∨ q % 2 = 0) ∧ okIntSrc n a = true ∧ okIntSrc n b = true ∧ okIntDst n e = true) ∧
    Two c n n a b e (now s) x y dst upd d1 ∧
    Gives (regCells c q n upd) d1 old d2 ∧
    Gives (commitUpd c upd) d2 () d3 ∧
    Ends c (ws ++ dstWrites ((d3.core c).afterWrites ws) (.g q n) (natCells n v.2.1)) v.2.2 d3 d4 := by
  intro r hr
  simp only [divides, List.mem_cons, List.not_mem_nil, or_false] at hr
  rcases hr with rfl | rfl
  all_goals refine ⟨run [(2, 7), (5, 3)], 0, 56, reg 2, reg 4, at' 6 0, _, _, _, _, _, _, _, _, _, ready ?_, ?_, ⟨_, _, ⟨_, _, gives₂ ?_, gives₂ ?_⟩, gives₂ ?_⟩, gives' ?_, gives₀ ?_, ends ?_ ?_⟩
  all_goals first | decide +kernel | ((try unfold Gives); dsimp only [Ready]; decide +kernel)

theorem wit_MultiplyDivideInsertComplete_2 :
  ∃ (s : State) (c : CoreId) (ob : BitVec 6) (a b e : Spec) (x f : Nat) (old : List Cell) (dst : Dst) (u upd : AMap Word) (d1 d2 d3 : Dev),
    let i : Ins := { c := c, op := 0o063, ob := ob.toNat, specs := [a, b, e] }
    let n := widthCells ob
    let (p, m) := fieldOf (bits ob) f
    let v := cellsNat old
    Ready i (now s) ∧
    (ob.toNat % 16 = 0 ∧ okIntSrc n a = true ∧ okIntSrc 4 b = true ∧ okIntDst n e = true) ∧
    Sources c n 4 a b (now s) x f u d1 ∧
    Gives (rmwOpd c 3 n e u) d1 (old, dst, upd) d2 ∧
    Writes c upd dst (natCells n (v / 2 ^ (p + m) * 2 ^ (p + m) + x % 2 ^ m * 2 ^ p + v % 2 ^ p)) d2 d3 := by
  refine ⟨run [(2, 7), (5, 0o0420)], 0, 48, reg 2, reg 5, at' 6 0, _, _, _, _, _, _, _, _, _, ready ?_, ?_, ⟨_, _, gives₂ ?_, gives₂ ?_⟩, gives₃ ?_, writes ?_ ?_⟩
  all_goals first | decide +kernel | ((try unfold Gives); dsimp only [Ready]; decide +kernel)

theorem wit_TransfersOfControlComplete_0 :
  ∃ (s : State) (c : CoreId),
    let i : Ins := { c := c, op := 0o001, ob := 0 }
    Ready i (now s) := by
  refine ⟨run [], 0, ready ?_⟩
  all_goals first | decide +kernel | (dsimp only [Ready]; decide +kernel)

theorem wit_TransfersOfControlComplete_1 :
  ∃ (s : State) (c : CoreId) (ob : BitVec 6) (ps : List Parcel),
    let i : Ins := { c := c, op := 0o020, ob := ob.toNat, inl := ps }
    Ready i (now s) ∧
    ob.toNat < 4 ∧
    Inline ob ps := by
  refine ⟨run [], 0, 1, [0x2000], ready ?_, ?_, ?_⟩
  all_goals first | decide +kernel | (dsimp only [Ready, Inline]; decide +kernel)

theorem wit_TransfersOfControlComplete_2 :
  ∃ (s : State) (c : CoreId) (ob : BitVec 6) (ps : List Parcel) (z : Bool),
    let i : Ins := { c := c, op := if z then 0o021 else 0o022, ob := ob.toNat, inl := ps }
    Ready i (now s) ∧
    Inline ob ps ∧
    Regs c [ob.toNat / 4] (now s) := by
  refine ⟨run [(3, 1)], 0, 13, [5], true, ready ?_, ?_, ?_⟩
  all_goals first | decide +kernel | (dsimp only [Ready, Inline, Regs]; decide +kernel)

theorem wit_TransfersOfControlComplete_3 :
  ∃ (s : State) (c : CoreId) (a : Spec) (v : Nat) (upd : AMap Word) (d1 d2 : Dev),
    let i : Ins := { c := c, op := 0o023, ob := 0, specs := [a] }
    Ready i (now s) ∧
    okIntSrc 4 a = true ∧
    Gives (srcNat c 1 4 a []) (now s) (v, upd) d1 ∧
    Gives (commitUpd c upd) d1 () d2 := by
  refine ⟨run [(3, 100)], 0, reg 3, _, _, _, _, ready ?_, ?_, gives₂ ?_, gives₀ ?_⟩
  all_goals first | decide +kernel | ((try unfold Gives); dsimp only [Ready]; decide +kernel)

theorem wit_TransfersOfControlComplete_4 :
  ∃ (s : State) (c : CoreId) (ob : BitVec 6) (mask : Parcel) (ps : List Parcel) (loc : MemLoc) (d1 d2 d3 : Dev),
    let i : Ins := { c := c, op := 0o024, ob := ob.toNat, lp := [mask], inl := ps }
    let m := ob.toNat / 16 * 2 ^ 14 + mask.toNat
    let rs := (List.range 15).filter fun r => m.testBit r
    let k := (now s).core c
    let base := (k.gr 15 - BitVec.ofNat 36 (4 * (2 + rs.length))).toNat
    Ready i (now s) ∧
    (ob.toNat / 4 % 4 = 0 ∧ Inline ob ps ∧ m.testBit 15 = false) ∧
    Regs c (15 :: rs) d1 ∧
    Regs c [15] (now s) ∧
    Gives (memAccess c 0 1 base (4 * (2 + rs.length)) .write) (now s) loc d1 ∧
    Gives (storeLoc c loc (wordsCells (BitVec.ofNat 36 m :: (k.pc + BitVec.ofNat 36 i.len) :: rs.map (d1.core c).gr))) d1 () d2 ∧
    Gives (wrG c 15 (BitVec.ofNat 36 base)) d2 () d3 := by
  refine ⟨run [(3, 1), (15, 4000)], 0, 17, 9, [5], _, _, _, _, ready ?_, ?_, ?_, ?_, gives' ?_, gives₀ ?_, gives₀ ?_⟩
  all_goals first | decide +kernel | ((try unfold Gives); dsimp only [Ready, Inline, Regs]; decide +kernel)

theorem wit_TransfersOfControlComplete_5 :
  ∃ (s : State) (c : CoreId) (l1 l2 : MemLoc) (cs es : List Cell) (d1 d2 d3 d4 d5 d6 : Dev),
    let i : Ins := { c := c, op := 0o025, ob := 0 }
    let base := (((now s).core c).gr 15).toNat
    let rep : Rep := { opnd := 0, seg := 1, off := base }
    let rs := (List.range 15).filter fun r => (cellsNat cs).testBit r
    let ws := cellsWords es
    Ready i (now s) ∧
    Regs c [15] (now s) ∧
    Gives (memAccess c 0 1 base 4 .read) (now s) l1 d1 ∧
    Gives (readLoc c rep l1) d1 cs d2 ∧
    cellsNat cs < 2 ^ 15 ∧
    Gives (memAccess c 0 1 base (4 * (2 + rs.length)) .read) d2 l2 d3 ∧
    Gives (readLoc c rep l2) d3 es d4 ∧
    Gives (writeRegs c (rs.zip (ws.drop 2))) d4 () d5 ∧
    Gives (wrG c 15 (BitVec.ofNat 36 (base + 4 * (2 + rs.length)))) d5 () d6 := by
  refine ⟨holding 400 [2, 100, 7] (run [(15, 400)]), 0, _, _, _, _, _, _, _, _, _, _, ready ?_, ?_, gives' ?_, gives' ?_, ?_, gives' ?_, gives' ?_, gives₀ ?_, gives₀ ?_⟩
  all_goals first | decide +kernel | ((try unfold Gives); dsimp only [Ready, Regs]; decide +kernel)

theorem wit_LoopsComplete_0_0 :
  ∃ (s : State) (c : CoreId) (ob : BitVec 6) (ps : List Parcel) (a : Spec) (n : Nat) (upd : AMap Word) (d1 d2 : Dev),
    let i : Ins := { c := c, op := 0o026, ob := ob.toNat, inl := ps, specs := [a] }
    let b := ((now s).core c).pc.toNat + i.len
    let e : Int := ((now s).core c).pc.toNat + signed (14 * ps.length) (parcelsNat ps)
    Ready i (now s) ∧
    (ob.toNat < 4 ∧ Inline ob ps ∧ okIntSrc 4 a = true) ∧
    ((b : Int) < e ∧ e < (2 ^ 36 : Nat)) ∧
    Gives (srcNat c 1 4 a []) (now s) (n, upd) d1 ∧
    Gives (commitUpd c upd) d1 () d2 ∧
    n = 0 := by
  refine ⟨run [(3, 0)], 0, 1, [20], reg 3, _, _, _, _, ready ?_, ?_, ?_, gives₂ ?_, gives₀ ?_, ?_⟩
  all_goals first | decide +kernel | ((try unfold Gives); dsimp only [Ready, Inline]; decide +kernel)

theorem wit_LoopsComplete_0_1 :
  ∃ (s : State) (c : CoreId) (ob : BitVec 6) (ps : List Parcel) (a : Spec) (n : Nat) (upd : AMap Word) (d1 d2 : Dev),
    let i : Ins := { c := c, op := 0o026, ob := ob.toNat, inl := ps, specs := [a] }
    let b := ((now s).core c).pc.toNat + i.len
    let e : Int := ((now s).core c).pc.toNat + signed (14 * ps.length) (parcelsNat ps)
    Ready i (now s) ∧
    (ob.toNat < 4 ∧ Inline ob ps ∧ okIntSrc 4 a = true) ∧
    ((b : Int) < e ∧ e < (2 ^ 36 : Nat)) ∧
    Gives (srcNat c 1 4 a []) (now s) (n, upd) d1 ∧
    Gives (commitUpd c upd) d1 () d2 ∧
    n ≠ 0 ∧
    (d1.core c).bank.dep ≠ 4 := by
  refine ⟨run [(3, 1)], 0, 1, [20], reg 3, _, _, _, _, ready ?_, ?_, ?_, gives₂ ?_, gives₀ ?_, ?_, ?_⟩
  all_goals first | decide +kernel | ((try unfold Gives); dsimp only [Ready, Inline]; decide +kernel)

theorem wit_LoopsComplete_1 :
  ∃ (s : State) (c : CoreId),
    let i : Ins := { c := c, op := 0o027, ob := 0 }
    let b := ((now s).core c).bank
    Ready i (now s) ∧
    b.dep ≠ 0 := by
  refine ⟨core0 (fun k => k.setBank 0 { bankOf [] with dep := 1, cur := { top := 1, exit := 9, rem := 2 } }) (run []), 0, ready ?_, ?_⟩
  all_goals first | decide +kernel | (dsimp only [Ready]; decide +kernel)

theorem wit_FencesComplete_0 :
  ∃ (s : State) (c : CoreId) (d1 : Dev),
    Ready { c := c, op := 0o002, ob := 0 } (now s) ∧
    Gives (storesVisible c) (now s) () d1 ∧
    ((d1.core c).posts.all fun p => d1.postAccepted p) = true := by
  refine ⟨run [], 0, _, ready ?_, gives₀ ?_, ?_⟩
  all_goals first | decide +kernel | ((try unfold Gives); dsimp only [Ready]; decide +kernel)

theorem wit_FencesComplete_1 :
  ∃ (s : State) (c : CoreId) (ob : BitVec 6) (d1 : Dev),
    ob.toNat < 2 ∧
    Ready { c := c, op := 0o003, ob := ob.toNat } (now s) ∧
    Gives (storesVisible c) (now s) () d1 ∧
    (d1.core c).posts = [] ∧
    (ob = 1 → d1.twinHas (d1.core c).twinSeq = true) := by
  refine ⟨run [], 0, 1, _, ?_, ready ?_, gives₀ ?_, ?_, ?_⟩
  all_goals first | decide +kernel | ((try unfold Gives); dsimp only [Ready]; decide +kernel)

theorem wit_FencesComplete_2 :
  ∃ (s : State) (c : CoreId),
    Ready { c := c, op := 0o004, ob := 0 } (now s) ∧
    PipeEmpty c (now s) := by
  refine ⟨run [], 0, ready ?_, ?_⟩
  all_goals first | decide +kernel | (dsimp only [Ready, PipeEmpty]; decide +kernel)

theorem wit_FencesComplete_3 :
  ∃ (s : State) (c : CoreId) (d1 : Dev),
    Ready { c := c, op := 0o031, ob := 0 } (now s) ∧
    ((now s).core c).sup = true ∧
    Gives (storesVisible c) (now s) () d1 ∧
    (d1.islands.any fun i => i.2.inv.any fun v => v.core == some c.val) = false ∧
    d1.accessPending = false := by
  refine ⟨run [], 0, _, ready ?_, ?_, gives₀ ?_, ?_, ?_⟩
  all_goals first | decide +kernel | ((try unfold Gives); dsimp only [Ready]; decide +kernel)

theorem wit_FencesComplete_4 :
  ∃ (s : State) (c : CoreId) (kind : Fin 4) (a : Spec) (x : Nat) (upd : AMap Word) (d1 d2 d3 : Dev),
    let ob : BitVec 6 := BitVec.ofNat 6 (8 * kind.val)
    let i : Ins := { c := c, op := 0o030, ob := ob.toNat, specs := [a] }
    let w0 := x / 2 ^ 36
    let w1 := x % 2 ^ 36
    let v : Inval := ⟨some c, kind, bitOf w0 35, bitsOf w0 34 33, bitOf w0 32, BitVec.ofNat 4 w0, w1⟩
    Ready i (now s) ∧
    okIntSrc 8 a = true ∧
    ((now s).core c).sup = true ∧
    Gives (srcNat c 1 8 a []) (now s) (x, upd) d1 ∧
    tlbiBad kind w0 w1 = false ∧
    ((d1.core c).world = true ∨ bitOf w0 35 = false ∧ bitOf w0 32 = false) ∧
    Gives (commitUpd c upd) d1 () d2 ∧
    Gives (storesVisible c) d2 () d3 := by
  refine ⟨run [(2, 2 ^ 35), (3, 5)], 0, 0, reg 2, _, _, _, _, _, ready ?_, ?_, ?_, gives₂ ?_, ?_, ?_, gives₀ ?_, gives₀ ?_⟩
  all_goals first | decide +kernel | ((try unfold Gives); dsimp only [Ready]; decide +kernel)

theorem wit_ControlRegistersComplete_0 :
  ∃ (s : State) (c : CoreId) (ob : BitVec 6) (e : Spec) (dst : Dst) (upd : AMap Word) (d1 d2 : Dev),
    let i : Ins := { c := c, op := 0o010, ob := ob.toNat, specs := [e] }
    Ready i (now s) ∧
    ob.toNat ≤ 16 ∧
    okIntDst 4 e = true ∧
    CtlReady c ob.toNat false (now s) ∧
    Place c 4 e (now s) dst upd d1 ∧
    Writes c upd dst (wordCells ((d1.core c).ctl c ob.toNat (d1.core c).world)) d1 d2 := by
  refine ⟨run [], 0, 0, reg 4, _, _, _, _, ready ?_, ?_, ?_, ?_, gives₂ ?_, writes ?_ ?_⟩
  all_goals first | decide +kernel | (dsimp only [Ready, PipeEmpty, Owns, CtlReady]; decide +kernel)

theorem wit_ControlRegistersComplete_1 :
  ∃ (s : State) (c : CoreId) (ob : BitVec 6) (a : Spec) (v : Nat) (upd : AMap Word) (d1 d2 : Dev),
    let i : Ins := { c := c, op := 0o011, ob := ob.toNat, specs := [a] }
    Ready i (now s) ∧
    ob.toNat ≤ 15 ∧
    okIntSrc 4 a = true ∧
    CtlReady c ob.toNat true (now s) ∧
    Gives (srcNat c 1 4 a []) (now s) (v, upd) d1 ∧
    (ob.toNat = 12 → v ≤ 4) ∧
    (ob.toNat = 0 → bitsOf v 24 22 ≤ 4) ∧
    Gives (commitUpd c upd) d1 () d2 := by
  refine ⟨run [(3, 7)], 0, 15, reg 3, _, _, _, _, ready ?_, ?_, ?_, ?_, gives₂ ?_, ?_, ?_, gives₀ ?_⟩
  all_goals first | decide +kernel | ((try unfold Gives); dsimp only [Ready, PipeEmpty, Owns, CtlReady]; decide +kernel)

theorem wit_ControlRegistersComplete_2 :
  ∃ (s : State) (c : CoreId) (ob : BitVec 6) (e : Spec) (dst : Dst) (upd : AMap Word) (d1 d2 : Dev),
    let i : Ins := { c := c, op := 0o012, ob := ob.toNat, specs := [e] }
    Ready i (now s) ∧
    ob.toNat ∈ [1, 3, 4, 5, 6, 13, 14, 15] ∧
    okIntDst 4 e = true ∧
    InCS c (now s) ∧
    Place c 4 e (now s) dst upd d1 ∧
    Writes c upd dst (wordCells ((d1.core c).ctl c ob.toNat false)) d1 d2 := by
  refine ⟨run [], 0, 13, at' 4 1, _, _, _, _, ready ?_, ?_, ?_, ?_, gives₂ ?_, writes ?_ ?_⟩
  all_goals first | decide +kernel | (dsimp only [Ready, InCS]; decide +kernel)

theorem wit_ControlRegistersComplete_3 :
  ∃ (s : State) (c : CoreId) (ob : BitVec 6) (a : Spec) (v : Nat) (upd : AMap Word) (d1 d2 : Dev),
    let i : Ins := { c := c, op := 0o013, ob := ob.toNat, specs := [a] }
    Ready i (now s) ∧
    ob.toNat ∈ [1, 3, 4, 5, 6, 13, 14, 15] ∧
    okIntSrc 4 a = true ∧
    InCS c (now s) ∧
    Gives (srcNat c 1 4 a []) (now s) (v, upd) d1 ∧
    Gives (commitUpd c upd) d1 () d2 := by
  refine ⟨run [(3, 7)], 0, 1, reg 3, _, _, _, _, ready ?_, ?_, ?_, ?_, gives₂ ?_, gives₀ ?_⟩
  all_goals first | decide +kernel | ((try unfold Gives); dsimp only [Ready, InCS]; decide +kernel)

theorem wit_BankAndSegmentRegistersComplete_0 :
  ∃ (s : State) (c : CoreId) (ob : BitVec 6) (e : Spec) (dst : Dst) (upd : AMap Word) (d1 d2 : Dev),
    let i : Ins := { c := c, op := 0o014, ob := ob.toNat, specs := [e] }
    let b := ((now s).core c).bwin.toNat
    Ready i (now s) ∧
    okIntDst 4 e = true ∧
    BankReady c ob.toNat (now s) ∧
    Place c 4 e (now s) dst upd d1 ∧
    (ob.toNat < 16 → (d1.core c).gBusy b ob.toNat = false) ∧
    Writes c upd dst (wordCells (bankReg (d1.core c) b ob.toNat)) d1 d2 := by
  refine ⟨run [], 0, 36, reg 4, _, _, _, _, ready ?_, ?_, ?_, gives₂ ?_, ?_, writes ?_ ?_⟩
  all_goals first | decide +kernel | (dsimp only [Ready, BankReady]; decide +kernel)

theorem wit_BankAndSegmentRegistersComplete_1_0 :
  ∃ (s : State) (c : CoreId) (ob : BitVec 6) (a : Spec) (v : Nat) (upd : AMap Word) (d1 d2 : Dev),
    let i : Ins := { c := c, op := 0o015, ob := ob.toNat, specs := [a] }
    let b := ((now s).core c).bwin.toNat
    Ready i (now s) ∧
    okIntSrc 4 a = true ∧
    BankReady c ob.toNat (now s) ∧
    Gives (srcNat c 1 4 a []) (now s) (v, upd) d1 ∧
    ob.toNat < 16 ∧
    Gives (commitUpd c upd) d1 () d2 ∧
    (d2.core c).gBusy b ob.toNat = false := by
  refine ⟨run [(3, 7)], 0, 15, reg 3, _, _, _, _, ready ?_, ?_, ?_, gives₂ ?_, ?_, gives₀ ?_, ?_⟩
  all_goals first | decide +kernel | ((try unfold Gives); dsimp only [Ready, BankReady]; decide +kernel)

theorem wit_BankAndSegmentRegistersComplete_1_1 :
  ∃ (s : State) (c : CoreId) (ob : BitVec 6) (a : Spec) (v : Nat) (upd : AMap Word) (d1 d2 : Dev),
    let i : Ins := { c := c, op := 0o015, ob := ob.toNat, specs := [a] }
    let b := ((now s).core c).bwin.toNat
  ∃ (r : SegReg) (d3 : Dev),
    Ready i (now s) ∧
    okIntSrc 4 a = true ∧
    BankReady c ob.toNat (now s) ∧
    Gives (srcNat c 1 4 a []) (now s) (v, upd) d1 ∧
    16 ≤ ob.toNat ∧
    ob.toNat < 24 ∧
    Gives (loadSeg c (d1.core c).world false v { opnd := 1, seg := ob.toNat - 16 }) d1 r d3 ∧
    Gives (commitUpd c upd) d3 () d2 := by
  refine ⟨run [(3, 0)], 0, 16, reg 3, _, _, _, _, _, _, ready ?_, ?_, ?_, gives₂ ?_, ?_, ?_, gives' ?_, gives₀ ?_⟩
  all_goals first | decide +kernel | ((try unfold Gives); dsimp only [Ready, BankReady]; decide +kernel)

theorem wit_BankAndSegmentRegistersComplete_1_2 :
  ∃ (s : State) (c : CoreId) (ob : BitVec 6) (a : Spec) (v : Nat) (upd : AMap Word) (d1 d2 : Dev),
    let i : Ins := { c := c, op := 0o015, ob := ob.toNat, specs := [a] }
    let b := ((now s).core c).bwin.toNat
    Ready i (now s) ∧
    okIntSrc 4 a = true ∧
    BankReady c ob.toNat (now s) ∧
    Gives (srcNat c 1 4 a []) (now s) (v, upd) d1 ∧
    24 ≤ ob.toNat ∧
    (ob.toNat = 27 → v ≤ 4) ∧
    Gives (commitUpd c upd) d1 () d2 := by
  refine ⟨run [(3, 4)], 0, 27, reg 3, _, _, _, _, ready ?_, ?_, ?_, gives₂ ?_, ?_, ?_, gives₀ ?_⟩
  all_goals first | decide +kernel | ((try unfold Gives); dsimp only [Ready, BankReady]; decide +kernel)

theorem wit_BankAndSegmentRegistersComplete_2 :
  ∃ (s : State) (c : CoreId) (ob : BitVec 6) (a : Spec) (v : Nat) (upd : AMap Word) (r : SegReg) (d1 d2 d3 : Dev),
    let i : Ins := { c := c, op := 0o016, ob := ob.toNat, specs := [a] }
    Ready i (now s) ∧
    ob.toNat < 8 ∧
    okIntSrc 4 a = true ∧
    Gives (srcNat c 1 4 a []) (now s) (v, upd) d1 ∧
    Gives (loadSeg c (d1.core c).world (!(d1.core c).sup) v { opnd := 1, seg := ob.toNat }) d1 r d2 ∧
    Gives (commitUpd c upd) d2 () d3 := by
  refine ⟨holding 16 [0o600000000000, 0, 100, 5] (core0 (fun k => { k with cus := { k.cus with sdtl := 2 } }) (run [(3, 1)])), 0, 7, reg 3, _, _, _, _, _, _, ready ?_, ?_, ?_, gives₂ ?_, gives' ?_, gives₀ ?_⟩
  all_goals first | decide +kernel | ((try unfold Gives); dsimp only [Ready]; decide +kernel)

theorem wit_BankAndSegmentRegistersComplete_3 :
  ∃ (s : State) (c : CoreId) (ob : BitVec 6) (e : Spec) (dst : Dst) (upd : AMap Word) (d1 d2 : Dev),
    let i : Ins := { c := c, op := 0o017, ob := ob.toNat, specs := [e] }
    let k := d1.core c
    Ready i (now s) ∧
    ob.toNat < 8 ∧
    okIntDst 4 e = true ∧
    Place c 4 e (now s) dst upd d1 ∧
    Writes c upd dst (natCells 4 (k.segAt k.bankNo ob.toNat).sel.toNat) d1 d2 := by
  refine ⟨run [], 0, 1, reg 4, _, _, _, _, ready ?_, ?_, ?_, gives₂ ?_, writes ?_ ?_⟩
  all_goals first | decide +kernel | (dsimp only [Ready]; decide +kernel)

theorem wit_SupervisorCallsAndReturnsComplete_0 :
  ∃ (s : State) (c : CoreId),
    let k := ((now s).core c).flushExp
    let w := k.wr k.world
    Ready { c := c, op := 0o005, ob := 0 } (now s) ∧
    ((now s).core c).sup = false ∧
    PipeEmpty c (now s) ∧
    Regs c [15] (now s) := by
  refine ⟨cstat 0o400000000000#36 (run [(15, 400)]), 0, ready ?_, ?_, ?_, ?_⟩
  all_goals first | decide +kernel | (dsimp only [Ready, Regs, PipeEmpty]; decide +kernel)

theorem wit_SupervisorCallsAndReturnsComplete_1 :
  ∃ (s : State) (c : CoreId),
    let k0 := (now s).core c
    let k := k0.flushExp
    let w := k.wr k.world
    let st := (k0.wr k0.world).sstat.toNat
    Ready { c := c, op := 0o006, ob := 0 } (now s) ∧
    k0.sup = true ∧
    (bitOf st 35 = k0.world ∧ bitsOf st 33 31 = k0.plev) ∧
    bitsOf st 24 22 ≤ 4 ∧
    PipeEmpty c (now s) ∧
    Regs c [15] (now s) := by
  refine ⟨core0 (fun k => { k with cus := { sstat := 0o400000000000#36, lnk := 7 } }) (run [(15, 400)]), 0, ready ?_, ?_, ?_, ?_, ?_, ?_⟩
  all_goals first | decide +kernel | (dsimp only [Ready, Regs, PipeEmpty]; decide +kernel)

theorem wit_SupervisorCallsAndReturnsComplete_2_0 :
  ∃ (s : State) (c : CoreId) (loc : MemLoc) (cs : List Cell) (d1 d2 : Dev),
    let i : Ins := { c := c, op := 0o007, ob := 0 }
    let base := (((now s).core c).gr 15).toNat
    let ws := cellsWords cs
    let st := ws.getD 2 0
    let k := d2.core c
    let y := (k.flushExp.setG 15 (BitVec.ofNat 36 (base + 48))).loadStat d2.lockMode st.toNat
    let k' := { y.useLines y.pc.toNat 1 with pc := ws.getD 1 0, ext := [], micro := none, fresh := false }
    let d3 := (d2.updCore c fun _ => k').trace c 3 0 (ws.getD 1 0)
    let n := bitsOf (ws.getD 8 0).toNat 6 0
    let x := { k'.slot n with pc := ws.getD 1 0, tstat := st }
    Ready i (now s) ∧
    ((now s).core c).sup = true ∧
    PipeEmpty c (now s) ∧
    Regs c [15] (now s) ∧
    Gives (memAccess c 0 1 base 48 .read) (now s) loc d1 ∧
    Gives (readLoc c { opnd := 0, seg := 1, off := base } loc) d1 cs d2 ∧
    bitsOf (ws.getD 0 0).toNat 35 34 = 0 ∧
    rteCheck k ws = none ∧
    0 < k'.plev := by
  refine ⟨holding 400 [0, 100, 0o620000000000, 0, 0, 0, 0, 0, 0, 0, 0, 0] (core0 (fun k => { k.setBank 4 (bankOf [(15, 400)]) with cstat := 0o620000000000#36 }) (run [])), 0, _, _, _, _, ready ?_, ?_, ?_, ?_, gives' ?_, gives' ?_, ?_, ?_, ?_⟩
  all_goals first | decide +kernel | ((try unfold Gives); dsimp only [Ready, Regs, PipeEmpty]; decide +kernel)

theorem wit_SupervisorCallsAndReturnsComplete_2_1 :
  ∃ (s : State) (c : CoreId) (loc : MemLoc) (cs : List Cell) (d1 d2 : Dev),
    let i : Ins := { c := c, op := 0o007, ob := 0 }
    let base := (((now s).core c).gr 15).toNat
    let ws := cellsWords cs
    let st := ws.getD 2 0
    let k := d2.core c
    let y := (k.flushExp.setG 15 (BitVec.ofNat 36 (base + 48))).loadStat d2.lockMode st.toNat
    let k' := { y.useLines y.pc.toNat 1 with pc := ws.getD 1 0, ext := [], micro := none, fresh := false }
    let d3 := (d2.updCore c fun _ => k').trace c 3 0 (ws.getD 1 0)
    let n := bitsOf (ws.getD 8 0).toNat 6 0
    let x := { k'.slot n with pc := ws.getD 1 0, tstat := st }
    Ready i (now s) ∧
    ((now s).core c).sup = true ∧
    PipeEmpty c (now s) ∧
    Regs c [15] (now s) ∧
    Gives (memAccess c 0 1 base 48 .read) (now s) loc d1 ∧
    Gives (readLoc c { opnd := 0, seg := 1, off := base } loc) d1 cs d2 ∧
    bitsOf (ws.getD 0 0).toNat 35 34 = 0 ∧
    rteCheck k ws = none ∧
    k'.plev = 0 ∧
    x.valid = true ∧
    x.st = .running ∧
    x.res = true := by
  refine ⟨holding 400 [0, 100, 0o600000000000, 0, 0, 0, 0, 0, 0, 0, 0, 0] (core0 (fun k => { k.setBank 4 (bankOf [(15, 400)]) with cstat := 0o620000000000#36 }) (run [])), 0, _, _, _, _, ready ?_, ?_, ?_, ?_, gives' ?_, gives' ?_, ?_, ?_, ?_, ?_, ?_, ?_⟩
  all_goals first | decide +kernel | ((try unfold Gives); dsimp only [Ready, Regs, PipeEmpty]; decide +kernel)

theorem wit_TaskInstructionsComplete_0_0 :
  ∃ (s : State) (c : CoreId) (a : Spec) (n : Nat) (d1 : Dev),
    let i : Ins := { c := c, op := 0o035, ob := 0, specs := [a] }
    let k := (now s).core c
    let m := BitVec.ofNat 5 (k.gr a.reg.toNat).toNat
    let e := (k.slot n).evpend &&& m
    Ready i (now s) ∧
    okReg a = true ∧
    k.plev = 0 ∧
    k.runSlot = some n ∧
    PipeEmpty c (now s) ∧
    Regs c [a.reg.toNat] (now s) ∧
    e ≠ 0 ∧
    Gives (wrG c a.reg.toNat (BitVec.ofNat 36 e.toNat)) (now s) () d1 := by
  refine ⟨core0 (fun k => k.setSlot 0 { k.slot 0 with evpend := 17 }) (run [(3, 16)]), 0, reg 3, 0, _, ready ?_, ?_, ?_, ?_, ?_, ?_, ?_, gives₀ ?_⟩
  all_goals first | decide +kernel | ((try unfold Gives); dsimp only [Ready, Regs, PipeEmpty]; decide +kernel)

theorem wit_TaskInstructionsComplete_0_1 :
  ∃ (s : State) (c : CoreId) (a : Spec) (n : Nat) (d1 : Dev),
    let i : Ins := { c := c, op := 0o035, ob := 0, specs := [a] }
    let k := (now s).core c
    let m := BitVec.ofNat 5 (k.gr a.reg.toNat).toNat
    let e := (k.slot n).evpend &&& m
    Ready i (now s) ∧
    okReg a = true ∧
    k.plev = 0 ∧
    k.runSlot = some n ∧
    PipeEmpty c (now s) ∧
    Regs c [a.reg.toNat] (now s) ∧
    m = 0 ∧
    Gives (do wrG c a.reg.toNat 0; complete c i.len {}) (now s) () d1 := by
  refine ⟨run [], 0, reg 3, 0, _, ready ?_, ?_, ?_, ?_, ?_, ?_, ?_, gives₀ ?_⟩
  all_goals first | decide +kernel | ((try unfold Gives); dsimp only [Ready, Regs, PipeEmpty]; decide +kernel)

theorem wit_TaskInstructionsComplete_0_2 :
  ∃ (s : State) (c : CoreId) (a : Spec) (n : Nat) (d1 : Dev),
    let i : Ins := { c := c, op := 0o035, ob := 0, specs := [a] }
    let k := (now s).core c
    let m := BitVec.ofNat 5 (k.gr a.reg.toNat).toNat
    let e := (k.slot n).evpend &&& m
    Ready i (now s) ∧
    okReg a = true ∧
    k.plev = 0 ∧
    k.runSlot = some n ∧
    PipeEmpty c (now s) ∧
    Regs c [a.reg.toNat] (now s) ∧
    e = 0 ∧
    m ≠ 0 := by
  refine ⟨run [(3, 16)], 0, reg 3, 0, {}, ready ?_, ?_, ?_, ?_, ?_, ?_, ?_, ?_⟩
  all_goals first | decide +kernel | (dsimp only [Ready, Regs, PipeEmpty]; decide +kernel)

theorem wit_TaskInstructionsComplete_1 :
  ∃ (s : State) (c : CoreId) (d1 : Dev),
    let i : Ins := { c := c, op := 0o377, sec := 3, ob := 0 }
    Ready i (now s) ∧
    ((now s).core c).sup = true ∧
    PipeEmpty c (now s) ∧
    Gives (complete c i.len {}) (now s) () d1 := by
  refine ⟨run [], 0, _, ready ?_, ?_, ?_, gives₀ ?_⟩
  all_goals first | decide +kernel | ((try unfold Gives); dsimp only [Ready, PipeEmpty]; decide +kernel)

theorem wit_TaskInstructionsComplete_2 :
  ∃ (s : State) (c : CoreId) (a : Spec) (v : Nat) (upd : AMap Word) (d1 d2 : Dev),
    let i : Ins := { c := c, op := 0o036, ob := 0, specs := [a] }
    Ready i (now s) ∧
    okIntSrc 4 a = true ∧
    Gives (srcNat c 1 4 a []) (now s) (v, upd) d1 ∧
    (bitsOf v 35 23 = 0 ∧ bitsOf v 15 6 = 0 ∧ bitsOf v 22 16 < 96) ∧
    Gives (commitUpd c upd) d1 () d2 := by
  refine ⟨run [(3, 95 * 2 ^ 16 + 63)], 0, reg 3, _, _, _, _, ready ?_, ?_, gives₂ ?_, ?_, gives₀ ?_⟩
  all_goals first | decide +kernel | ((try unfold Gives); dsimp only [Ready]; decide +kernel)

theorem wit_TaskInstructionsComplete_3 :
  ∃ (s : State) (c : CoreId) (a : Spec) (v : Nat) (upd : AMap Word) (cs : List Cell) (d1 d2 d3 d4 : Dev),
    let i : Ins := { c := c, op := 0o036, ob := 0, specs := [a] }
    let k := d1.core c
    let w0 := ((cellsWords cs).getD 0 0).toNat
    Ready i (now s) ∧
    okIntSrc 4 a = true ∧
    Gives (srcNat c 1 4 a []) (now s) (v, upd) d1 ∧
    (bitsOf v 35 34 = 3 ∧ bitsOf v 33 8 = 0 ∧ 64 ≤ v % 256) ∧
    k.sup = true ∧
    k.world = false ∧
    PipeEmpty c d1 ∧
    Gives (readLin c true {} (k.cus.hdtb.toNat * 4096 + 16 * (v % 256)) 16) d1 cs d2 ∧
    (bitOf w0 35 = true ∧ bitsOf w0 34 33 = 1) ∧
    Gives (commitUpd c upd) d2 () d3 ∧
    Gives (deliverAfter c { vec := v % 256, world := true, gate := true, spc := BitVec.ofNat 36 (k.pc.toNat + i.len), fpc := k.pc }) d3 () d4 := by
  refine ⟨holding 16 [2 ^ 35 + 2 ^ 32 + 2 ^ 31, 0, 4095, 0] (holding 1024 [2 ^ 35 + 2 ^ 33 + 3 * 2 ^ 31 + 2 ^ 28 + 1, 100, 2048, 0] (core0 (fun k => { { k with cus := { k.cus with sdtl := 2 } }.setBank 0 (bankOf [(3, 3 * 2 ^ 34 + 64), (15, 2048)]) with cstat := 0o200000000000#36 }) (run []))), 0, reg 3, _, _, _, _, _, _, _, ready ?_, ?_, gives₂ ?_, ?_, ?_, ?_, ?_, gives' ?_, ?_, gives₀ ?_, gives₀ ?_⟩
  all_goals first | decide +kernel | ((try unfold Gives); dsimp only [Ready, PipeEmpty]; decide +kernel)

theorem wit_TaskInstructionsComplete_4 :
  ∃ (s : State) (c : CoreId) (e : Spec) (dst : Dst) (upd : AMap Word) (d1 d2 : Dev),
    let i : Ins := { c := c, op := 0o377, sec := 1, ob := 0, specs := [e] }
    Ready i (now s) ∧
    okIntDst 8 e = true ∧
    Place c 8 e (now s) dst upd d1 ∧
    Writes c upd dst (natCells 8 (d1.now % 2 ^ 64)) d1 d2 := by
  refine ⟨run [], 0, reg 4, _, _, _, _, ready ?_, ?_, gives₂ ?_, writes ?_ ?_⟩
  all_goals first | decide +kernel | (dsimp only [Ready]; decide +kernel)

theorem wit_TaskInstructionsComplete_5_0 :
  ∃ (s : State) (c : CoreId) (a e : Spec) (v : Nat) (u : AMap Word) (d1 : Dev),
    let i : Ins := { c := c, op := 0o377, sec := 2, ob := 0, specs := [a, e] }
    let n := bitsOf v 13 8
    let f := bitsOf v 3 0
    let k := d1.core c
  ∃ (dst : Dst) (upd : AMap Word) (d2 d3 : Dev),
    Ready i (now s) ∧
    ((now s).core c).sup = true ∧
    okIntSrc 4 a = true ∧
    okIntSrc 4 e = true ∧
    Gives (srcNat c 1 4 a []) (now s) (v, u) d1 ∧
    (bitsOf v 34 14 = 0 ∧ bitsOf v 7 4 = 0 ∧ f < 8) ∧
    bitOf v 35 = false ∧
    okIntDst 4 e = true ∧
    (k.world = true ∨ f = 7 ∨ (k.slot n).world = false) ∧
    Gives (dstOpd c 2 4 e u) d1 (dst, upd) d2 ∧
    Writes c upd dst (natCells 4 (if f = 7 then d2.xown c else (k.slot n).field f)) d2 d3 := by
  refine ⟨run [(3, 63 * 2 ^ 8 + 7)], 0, reg 3, reg 4, _, _, _, _, _, _, _, ready ?_, ?_, ?_, ?_, gives₂ ?_, ?_, ?_, ?_, ?_, gives₂ ?_, writes ?_ ?_⟩
  all_goals first | decide +kernel | ((try unfold Gives); dsimp only [Ready]; decide +kernel)

theorem wit_TaskInstructionsComplete_5_1 :
  ∃ (s : State) (c : CoreId) (a e : Spec) (v : Nat) (u : AMap Word) (d1 : Dev),
    let i : Ins := { c := c, op := 0o377, sec := 2, ob := 0, specs := [a, e] }
    let n := bitsOf v 13 8
    let f := bitsOf v 3 0
    let k := d1.core c
  ∃ (y : Nat) (upd : AMap Word) (d2 d3 : Dev),
    Ready i (now s) ∧
    ((now s).core c).sup = true ∧
    okIntSrc 4 a = true ∧
    okIntSrc 4 e = true ∧
    Gives (srcNat c 1 4 a []) (now s) (v, u) d1 ∧
    (bitsOf v 34 14 = 0 ∧ bitsOf v 7 4 = 0 ∧ f < 8) ∧
    bitOf v 35 = true ∧
    Gives (srcNat c 2 4 e u) d1 (y, upd) d2 ∧
    tslotBad k n f y = false ∧
    ¬(f ≤ 2 ∧ k.plev = 0 ∧ k.runSlot = some n) ∧
    (k.world = true ∨ if f = 7 then d2.ledgerOwner c (d2.xown c) = true ∧ d2.ledgerOwner c y = true else (k.slot n).world = false ∧ (f = 0 → bitOf y 34 = false)) ∧
    Gives (commitUpd c upd) d2 () d3 := by
  refine ⟨run [(3, 2 ^ 35 + 63 * 2 ^ 8 + 5), (4, 9)], 0, reg 3, reg 4, _, _, _, _, _, _, _, ready ?_, ?_, ?_, ?_, gives₂ ?_, ?_, ?_, gives₂ ?_, ?_, ?_, ?_, gives₀ ?_⟩
  all_goals first | decide +kernel | ((try unfold Gives); dsimp only [Ready]; decide +kernel)

theorem wit_DecimalSumsComplete_0 :
  ∀ r ∈ decTwo,
  ∃ (s : State) (c : CoreId) (ob : BitVec 6) (lp : Parcel) (a b e : Spec) (x y o : DecOp) (u v upd : AMap Word) (m n : Int) (d1 d2 d3 d4 : Dev),
    let i : Ins := { c := c, op := r.op, ob := ob.toNat, lp := [lp], specs := [a, b, e] }
    let w := decFit r.z o.n (r.val m n) (d3.core c).dsm
    Ready i (now s) ∧
    (lp.toNat % 4 = 0 ∧ okDecSrc (ob.toNat + 1) a = true ∧ okDecSrc (decL2 lp) b = true ∧ okDecDst (decL3 lp) e = true) ∧
    Dec c 1 (ob.toNat + 1) r.scan .read a [] (now s) x u d1 ∧
    Dec c 2 (decL2 lp) r.scan .read b u d1 y v d2 ∧
    Dec c 3 (decL3 lp) r.scan .write e v d2 o upd d3 ∧
    Val r.z x.cells m ∧
    Val r.z y.cells n ∧
    WritesField c upd r.z o (r.val m n) d3 d4 ∧
    NoTrap c w.2 d4 := by
  intro r hr
  simp only [decTwo, List.mem_cons, List.not_mem_nil, or_false] at hr
  rcases hr with rfl | rfl | rfl | rfl | rfl | rfl
  all_goals first
    | (refine ⟨run [(2, 28), (3, 45)], 0, 0, 0, reg 2, reg 3, reg 4, _, _, _, _, _, _, _, _, _, _, _, _, ready ?_, ?_, gives₂ ?_, gives₂ ?_, gives₂ ?_, ⟨1, false, ?_, rfl⟩, ⟨2, true, ?_, rfl⟩, writesField ?_ ?_, noTrap ?_⟩ <;> (first | decide +kernel | (dsimp only [Ready, NoTrap]; decide +kernel)))
    | (refine ⟨run [(2, 193), (3, 210)], 0, 0, 0, reg 2, reg 3, reg 4, _, _, _, _, _, _, _, _, _, _, _, _, ready ?_, ?_, gives₂ ?_, gives₂ ?_, gives₂ ?_, ⟨1, false, ?_, rfl⟩, ⟨2, true, ?_, rfl⟩, writesField ?_ ?_, noTrap ?_⟩ <;> (first | decide +kernel | (dsimp only [Ready, NoTrap]; decide +kernel)))

theorem wit_DecimalCopiesComplete_0 :
  ∀ r ∈ decOne,
  ∃ (s : State) (c : CoreId) (ob : BitVec 6) (lp : Parcel) (a e : Spec) (x o : DecOp) (u upd : AMap Word) (m : Int) (d1 d2 d3 : Dev),
    let i : Ins := { c := c, op := r.op, ob := ob.toNat, lp := [lp], specs := [a, e] }
    let w := decFit r.ze o.n m (d2.core c).dsm
    Ready i (now s) ∧
    (lp.toNat % 4 = 0 ∧ decL3 lp = 1 ∧ okDecSrc (ob.toNat + 1) a = true ∧ okDecDst (decL2 lp) e = true) ∧
    Dec c 1 (ob.toNat + 1) r.scan .read a [] (now s) x u d1 ∧
    Dec c 2 (decL2 lp) r.scanE .write e u d1 o upd d2 ∧
    Val r.za x.cells m ∧
    (if r.marks then WritesMarked c upd r.ze o m d2 d3 else WritesField c upd r.ze o m d2 d3) ∧
    NoTrap c w.2 d3 := by
  intro r hr
  simp only [decOne, List.mem_cons, List.not_mem_nil, or_false] at hr
  rcases hr with rfl | rfl | rfl | rfl | rfl | rfl | rfl
  all_goals first
    | (refine ⟨holding 0 [28 * 2 ^ 27] (run []), 0, 0, 0, at' 2 0, at' 3 0, _, _, _, _, _, _, _, _, ready ?_, ?_, gives₂ ?_, gives₂ ?_, ⟨1, false, ?_, rfl⟩, writesField ?_ ?_, noTrap ?_⟩ <;> (first | decide +kernel | (dsimp only [Ready, NoTrap]; decide +kernel)))
    | (refine ⟨holding 0 [193 * 2 ^ 27] (run []), 0, 0, 0, at' 2 0, at' 3 0, _, _, _, _, _, _, _, _, ready ?_, ?_, gives₂ ?_, gives₂ ?_, ⟨1, false, ?_, rfl⟩, writesField ?_ ?_, noTrap ?_⟩ <;> (first | decide +kernel | (dsimp only [Ready, NoTrap]; decide +kernel)))
    | (refine ⟨holding 0 [28 * 2 ^ 27] (run []), 0, 0, 0, at' 2 0, at' 3 0, _, _, _, _, _, _, _, _, ready ?_, ?_, gives₂ ?_, gives₂ ?_, ⟨1, false, ?_, rfl⟩, writesMarked ?_ ?_ ?_, noTrap ?_⟩ <;> (first | decide +kernel | (dsimp only [Ready, NoTrap]; decide +kernel)))
    | (refine ⟨holding 0 [193 * 2 ^ 27] (run []), 0, 0, 0, at' 2 0, at' 3 0, _, _, _, _, _, _, _, _, ready ?_, ?_, gives₂ ?_, gives₂ ?_, ⟨1, false, ?_, rfl⟩, writesMarked ?_ ?_ ?_, noTrap ?_⟩ <;> (first | decide +kernel | (dsimp only [Ready, NoTrap]; decide +kernel)))

theorem wit_DecimalComparesComplete_0 :
  ∀ r ∈ decCompares,
  ∃ (s : State) (c : CoreId) (ob : BitVec 6) (lp : Parcel) (a b e : Spec) (x y : DecOp) (u upd : AMap Word) (m n : Int) (d1 d2 d3 d4 : Dev),
    let i : Ins := { c := c, op := r.op, ob := ob.toNat, lp := [lp], specs := [a, b, e] }
    Ready i (now s) ∧
    (lp.toNat % 4 = 0 ∧ decL3 lp = 1 ∧ okDecSrc (ob.toNat + 1) a = true ∧ okDecSrc (decL2 lp) b = true ∧ okReg e = true ∧ e.reg.toNat % 2 = 0) ∧
    Dec c 1 (ob.toNat + 1) r.scan .read a [] (now s) x u d1 ∧
    Dec c 2 (decL2 lp) r.scan .read b u d1 y upd d2 ∧
    Val r.z x.cells m ∧
    Val r.z y.cells n ∧
    WritesG c upd e.reg.toNat (if m < n then 1 else 0) d2 d3 ∧
    Gives (wrG c (e.reg.toNat + 1) (if m = n then 1 else 0)) d3 () d4 := by
  intro r hr
  simp only [decCompares, List.mem_cons, List.not_mem_nil, or_false] at hr
  rcases hr with rfl | rfl | rfl
  all_goals first
    | (refine ⟨run [(2, 28), (3, 45)], 0, 0, 0, reg 2, reg 3, reg 4, _, _, _, _, _, _, _, _, _, _, ready ?_, ?_, gives₂ ?_, gives₂ ?_, ⟨1, false, ?_, rfl⟩, ⟨2, true, ?_, rfl⟩, writesG ?_ ?_, gives₀ ?_⟩ <;> (first | decide +kernel | ((try unfold Gives); dsimp only [Ready]; decide +kernel)))
    | (refine ⟨run [(2, 193), (3, 210)], 0, 0, 0, reg 2, reg 3, reg 4, _, _, _, _, _, _, _, _, _, _, ready ?_, ?_, gives₂ ?_, gives₂ ?_, ⟨1, false, ?_, rfl⟩, ⟨2, true, ?_, rfl⟩, writesG ?_ ?_, gives₀ ?_⟩ <;> (first | decide +kernel | ((try unfold Gives); dsimp only [Ready]; decide +kernel)))

theorem wit_DecimalComparesComplete_1 :
  ∀ r ∈ decTests,
  ∃ (s : State) (c : CoreId) (ob : BitVec 6) (a e : Spec) (x : DecOp) (upd : AMap Word) (d1 d2 : Dev),
    let i : Ins := { c := c, op := r.op, ob := ob.toNat, lp := [0], specs := [a, e] }
    let ok := (fieldVal r.z x.cells).isSome
    let sf := if ok then 0 else 32
    Ready i (now s) ∧
    okDecSrc (ob.toNat + 1) a = true ∧
    okReg e = true ∧
    Dec c 1 (ob.toNat + 1) r.scan .read a [] (now s) x upd d1 ∧
    WritesG c upd e.reg.toNat (if ok then 1 else 0) d1 d2 ∧
    NoTrap c sf d2 := by
  intro r hr
  simp only [decTests, List.mem_cons, List.not_mem_nil, or_false] at hr
  rcases hr with rfl | rfl | rfl
  all_goals refine ⟨run [(2, 28), (3, 45)], 0, 0, reg 2, reg 4, _, _, _, _, ready ?_, ?_, ?_, gives₂ ?_, writesG ?_ ?_, noTrap ?_⟩
  all_goals first | decide +kernel | (dsimp only [Ready, NoTrap]; decide +kernel)

theorem wit_DecimalComparesComplete_2 :
  ∃ (s : State) (c : CoreId) (ob : BitVec 6) (a e : Spec) (x : DecOp) (upd : AMap Word) (m n : Nat) (neg : Bool) (d1 d2 : Dev),
    let i : Ins := { c := c, op := 0o127, ob := ob.toNat, lp := [0], specs := [a, e] }
    Ready i (now s) ∧
    okDecSrc (ob.toNat + 1) a = true ∧
    okReg e = true ∧
    Dec c 1 (ob.toNat + 1) false .read a [] (now s) x upd d1 ∧
    packedVal x.cells = some (m, neg) ∧
    (m = 0 ∧ n = 0 ∨ 0 < n ∧ n ≤ 128 ∧ 10 ^ (n - 1) ≤ m ∧ m < 10 ^ n) ∧
    WritesG c upd e.reg.toNat (2 * (ob.toNat + 1) - 1 - n) d1 d2 := by
  refine ⟨run [(2, 28), (3, 45)], 0, 0, reg 2, reg 4, _, _, 1, 1, false, _, _, ready ?_, ?_, ?_, gives₂ ?_, ?_, ?_, writesG ?_ ?_⟩
  all_goals first | decide +kernel | (dsimp only [Ready]; decide +kernel)

theorem wit_DecimalProductsComplete_0 :
  ∀ r ∈ decMuls,
  ∃ (s : State) (c : CoreId) (ob : BitVec 6) (lp : Parcel) (a b e : Spec) (x y o : DecOp) (upd : AMap Word) (am bm : Nat) (an bn : Bool) (ws : List Wr) (d1 d2 d3 d4 : Dev),
    let i : Ins := { c := c, op := r.op, ob := ob.toNat, lp := [lp], specs := [a, b, e] }
    let w := decFit r.z o.n (signedMag (am * bm) (an != bn)) (d2.core c).dsm
    Ready i (now s) ∧
    (lp.toNat % 4 = 0 ∧ okDecSrc (ob.toNat + 1) a = true ∧ okDecSrc (decL2 lp) b = true ∧ okDecDst (decL3 lp) e = true) ∧
    Three c ob lp .read a b e (now s) x y o upd d1 ∧
    d1.pointDue c = false ∧
    fieldVal r.z x.cells = some (am, an) ∧
    fieldVal r.z y.cells = some (bm, bn) ∧
    bm < 10 ^ 128 ∧
    Gives (commitUpd c upd) d1 () d2 ∧
    Gives (fieldWrites c o w.1) d2 ws d3 ∧
    Ends c ws w.2 (d3.updCore c fun k => { k with micro := none }) d4 := by
  intro r hr
  simp only [decMuls, List.mem_cons, List.not_mem_nil, or_false] at hr
  rcases hr with rfl | rfl
  all_goals first
    | (refine ⟨run [(2, 28), (3, 45)], 0, 0, 0, reg 2, reg 3, reg 4, _, _, _, _, 1, 2, false, true, _, _, _, _, _, ready ?_, ?_, ⟨_, _, _, _, gives₂ ?_, gives₂ ?_, gives₂ ?_, ?_, ?_, ?_⟩, ?_, ?_, ?_, ?_, gives₀ ?_, gives' ?_, ends ?_ ?_⟩ <;> (first | decide +kernel | ((try unfold Gives); dsimp only [Ready]; decide +kernel)))
    | (refine ⟨run [(2, 193), (3, 210)], 0, 0, 0, reg 2, reg 3, reg 4, _, _, _, _, 1, 2, false, true, _, _, _, _, _, ready ?_, ?_, ⟨_, _, _, _, gives₂ ?_, gives₂ ?_, gives₂ ?_, ?_, ?_, ?_⟩, ?_, ?_, ?_, ?_, gives₀ ?_, gives' ?_, ends ?_ ?_⟩ <;> (first | decide +kernel | ((try unfold Gives); dsimp only [Ready]; decide +kernel)))

theorem wit_DecimalProductsComplete_1 :
  ∀ r ∈ decDivs,
  ∃ (s : State) (c : CoreId) (ob : BitVec 6) (lp : Parcel) (a b e : Spec) (x y o : DecOp) (upd : AMap Word) (am bm : Nat) (an bn : Bool) (ws wr : List Wr) (d1 d2 d3 d4 d5 : Dev),
    let i : Ins := { c := c, op := r.op, ob := ob.toNat, lp := [lp], specs := [a, b, e] }
    let dsm := (d2.core c).dsm
    Ready i (now s) ∧
    (lp.toNat % 4 = 0 ∧ okDecDst (ob.toNat + 1) a = true ∧ okDecSrc (decL2 lp) b = true ∧ okDecDst (decL3 lp) e = true) ∧
    Three c ob lp .rmw a b e (now s) x y o upd d1 ∧
    d1.pointDue c = false ∧
    fieldVal r.z x.cells = some (am, an) ∧
    fieldVal r.z y.cells = some (bm, bn) ∧
    am < 10 ^ 128 ∧
    bm < 10 ^ 128 ∧
    bm ≠ 0 ∧
    am / bm < 10 ^ fieldDigits r.z o.n ∧
    Gives (commitUpd c upd) d1 () d2 ∧
    Gives (fieldWrites c o (decFit r.z o.n (signedMag (am / bm) (an != bn)) dsm).1) d2 ws d3 ∧
    Gives (fieldWrites c x (decFit r.z x.n (signedMag (am % bm) an) dsm).1) d3 wr d4 ∧
    Ends c (ws ++ wr) 0 (d4.updCore c fun k => { k with micro := none }) d5 := by
  intro r hr
  simp only [decDivs, List.mem_cons, List.not_mem_nil, or_false] at hr
  rcases hr with rfl | rfl
  all_goals first
    | (refine ⟨run [(2, 28), (3, 45)], 0, 0, 0, reg 2, reg 3, reg 4, _, _, _, _, 1, 2, false, true, _, _, _, _, _, _, _, ready ?_, ?_, ⟨_, _, _, _, gives₂ ?_, gives₂ ?_, gives₂ ?_, ?_, ?_, ?_⟩, ?_, ?_, ?_, ?_, ?_, ?_, ?_, gives₀ ?_, gives' ?_, gives' ?_, ends ?_ ?_⟩ <;> (first | decide +kernel | ((try unfold Gives); dsimp only [Ready]; decide +kernel)))
    | (refine ⟨run [(2, 193), (3, 210)], 0, 0, 0, reg 2, reg 3, reg 4, _, _, _, _, 1, 2, false, true, _, _, _, _, _, _, _, ready ?_, ?_, ⟨_, _, _, _, gives₂ ?_, gives₂ ?_, gives₂ ?_, ?_, ?_, ?_⟩, ?_, ?_, ?_, ?_, ?_, ?_, ?_, gives₀ ?_, gives' ?_, gives' ?_, ends ?_ ?_⟩ <;> (first | decide +kernel | ((try unfold Gives); dsimp only [Ready]; decide +kernel)))

theorem wit_DecimalProductsComplete_2 :
  ∀ r ∈ decShifts,
  ∃ (s : State) (c : CoreId) (ob : BitVec 6) (lp : Parcel) (a b e : Spec) (x o : DecOp) (k : Nat) (u v upd : AMap Word) (m : Int) (d1 d2 d3 d4 : Dev),
    let i : Ins := { c := c, op := r.op, ob := ob.toNat, lp := [lp], specs := [a, b, e] }
    let t := shiftRound (lp.toNat % 4) m (signed 8 (k % 256))
    let w := decFit r.z o.n t (d3.core c).dsm
    Ready i (now s) ∧
    (lp.toNat % 4 ≤ 2 ∧ decL2 lp = 1 ∧ okDecSrc (ob.toNat + 1) a = true ∧ okIntSrc 4 b = true ∧ okDecDst (decL3 lp) e = true) ∧
    Dec c 1 (ob.toNat + 1) false .read a [] (now s) x u d1 ∧
    Gives (srcNat c 2 4 b u) d1 (k, v) d2 ∧
    Dec c 3 (decL3 lp) false .write e v d2 o upd d3 ∧
    Val r.z x.cells m ∧
    WritesField c upd r.z o t d3 d4 ∧
    NoTrap c w.2 d4 := by
  intro r hr
  simp only [decShifts, List.mem_cons, List.not_mem_nil, or_false] at hr
  rcases hr with rfl | rfl
  all_goals first
    | (refine ⟨run [(2, 28), (3, 255)], 0, 0, 2, reg 2, reg 3, reg 4, _, _, _, _, _, _, _, _, _, _, _, ready ?_, ?_, gives₂ ?_, gives₂ ?_, gives₂ ?_, ⟨1, false, ?_, rfl⟩, writesField ?_ ?_, noTrap ?_⟩ <;> (first | decide +kernel | ((try unfold Gives); dsimp only [Ready, NoTrap]; decide +kernel)))
    | (refine ⟨run [(2, 193), (3, 255)], 0, 0, 2, reg 2, reg 3, reg 4, _, _, _, _, _, _, _, _, _, _, _, ready ?_, ?_, gives₂ ?_, gives₂ ?_, gives₂ ?_, ⟨1, false, ?_, rfl⟩, writesField ?_ ?_, noTrap ?_⟩ <;> (first | decide +kernel | ((try unfold Gives); dsimp only [Ready, NoTrap]; decide +kernel)))

theorem wit_DecimalConversionsComplete_0 :
  ∃ (dbl : Bool) (s : State) (c : CoreId) (ob : BitVec 6) (a e : Spec) (x : DecOp) (dst : Dst) (u upd : AMap Word) (m : Int) (d1 d2 d3 : Dev),
    let n := if dbl then 8 else 4
    let i : Ins := { c := c, op := if dbl then 0o113 else 0o112, ob := ob.toNat, lp := [0], specs := [a, e] }
    let w := fit (9 * n) m
    Ready i (now s) ∧
    okDecSrc (ob.toNat + 1) a = true ∧
    okIntDst n e = true ∧
    Dec c 1 (ob.toNat + 1) false .read a [] (now s) x u d1 ∧
    Gives (dstOpd c 2 n e u) d1 (dst, upd) d2 ∧
    Val false x.cells m ∧
    Writes c upd dst (natCells n w.1) d2 d3 ∧
    NoTrap c w.2 d3 := by
  refine ⟨true, run [(2, 28), (3, 45)], 0, 0, reg 2, reg 4, _, _, _, _, _, _, _, _, ready ?_, ?_, ?_, gives₂ ?_, gives₂ ?_, ⟨1, false, ?_, rfl⟩, writes ?_ ?_, noTrap ?_⟩
  all_goals first | decide +kernel | ((try unfold Gives); dsimp only [Ready, NoTrap]; decide +kernel)

theorem wit_DecimalConversionsComplete_1 :
  ∃ (dbl : Bool) (s : State) (c : CoreId) (lp : Parcel) (a e : Spec) (v : Nat) (o : DecOp) (u upd : AMap Word) (d1 d2 d3 : Dev),
    let n := if dbl then 8 else 4
    let i : Ins := { c := c, op := if dbl then 0o115 else 0o114, ob := 0, lp := [lp], specs := [a, e] }
    let w := decFit false o.n (signed (9 * n) v) (d2.core c).dsm
    Ready i (now s) ∧
    (lp.toNat % 4 = 0 ∧ decL3 lp = 1 ∧ okIntSrc n a = true ∧ okDecDst (decL2 lp) e = true) ∧
    Gives (srcNat c 1 n a []) (now s) (v, u) d1 ∧
    Dec c 2 (decL2 lp) false .write e u d1 o upd d2 ∧
    WritesField c upd false o (signed (9 * n) v) d2 d3 ∧
    NoTrap c w.2 d3 := by
  refine ⟨true, run [(2, 28), (3, 45)], 0, 0, reg 2, reg 4, _, _, _, _, _, _, _, ready ?_, ?_, gives₂ ?_, gives₂ ?_, writesField ?_ ?_, noTrap ?_⟩
  all_goals first | decide +kernel | ((try unfold Gives); dsimp only [Ready, NoTrap]; decide +kernel)

theorem wit_DecimalConversionsComplete_2 :
  ∃ (s : State) (c : CoreId) (ob : BitVec 6) (a e : Spec) (x : DecOp) (dst : Dst) (u upd : AMap Word) (m : Nat) (neg : Bool) (d1 d2 d3 d4 : Dev),
    let i : Ins := { c := c, op := 0o116, ob := ob.toNat, lp := [0], specs := [a, e] }
    let w := d128OfPacked (d2.core c).frm m neg
    Ready i (now s) ∧
    okDecSrc (ob.toNat + 1) a = true ∧
    okFlt e = true ∧
    Owns c (e.mode = 0) (now s) ∧
    Dec c 1 (ob.toNat + 1) false .read a [] (now s) x u d1 ∧
    Gives (fltDst c 2 .d128 e u) d1 (dst, upd) d2 ∧
    packedVal x.cells = some (m, neg) ∧
    Gives (commitUpd c upd) d2 () d3 ∧
    Gives (applyWrs c (fltWrites (d3.core c) .d128 dst w.1)) d3 () d4 ∧
    NoTrap c w.2 d4 := by
  refine ⟨run [(2, 28), (3, 45)], 0, 0, reg 2, reg 4, _, _, _, _, 1, false, _, _, _, _, ready ?_, ?_, ?_, ?_, gives₂ ?_, gives₂ ?_, ?_, gives₀ ?_, gives₀ ?_, noTrap ?_⟩
  all_goals first | decide +kernel | ((try unfold Gives); dsimp only [Ready, Owns, NoTrap]; decide +kernel)

theorem wit_DecimalConversionsComplete_3_0 :
  ∃ (s : State) (c : CoreId) (lp : Parcel) (a e : Spec) (v : Nat) (o : DecOp) (u upd : AMap Word) (d1 d2 : Dev),
    let i : Ins := { c := c, op := 0o117, ob := 0, lp := [lp], specs := [a, e] }
  ∃ (neg : Bool) (cf : Nat) (ex : Int) (d3 d4 : Dev),
    let t := fpInt 10 (d3.core c).frm neg cf ex
    let w := decFit false o.n (signedMag t.1 neg) (d3.core c).dsm
    let sf := w.2 + (if t.2 then 1 else 0)
    Ready i (now s) ∧
    (lp.toNat % 4 = 0 ∧ decL3 lp = 1 ∧ okFlt a = true ∧ okDecDst (decL2 lp) e = true) ∧
    Owns c (a.mode = 0) (now s) ∧
    Gives (fltSrc c 1 .d128 a []) (now s) (v, u) d1 ∧
    Dec c 2 (decL2 lp) false .write e u d1 o upd d2 ∧
    d128Dec v = .fin neg cf ex ∧
    Gives (commitUpd c upd) d2 () d3 ∧
    Gives (putField c o w.1) d3 () d4 ∧
    NoTrap c sf d4 := by
  refine ⟨core0 (fun k => { k with f := [(2, 0)] }) (run []), 0, 0, reg 2, reg 4, _, _, _, _, _, _, false, 0, -6176, _, _, ready ?_, ?_, ?_, gives₂ ?_, gives₂ ?_, ?_, gives₀ ?_, gives₀ ?_, noTrap ?_⟩
  all_goals first | decide +kernel | ((try unfold Gives); dsimp only [Ready, Owns, NoTrap]; decide +kernel)

theorem wit_DecimalConversionsComplete_3_1 :
  ∃ (s : State) (c : CoreId) (lp : Parcel) (a e : Spec) (v : Nat) (o : DecOp) (u upd : AMap Word) (d1 d2 : Dev),
    let i : Ins := { c := c, op := 0o117, ob := 0, lp := [lp], specs := [a, e] }
  ∃ d3 : Dev,
    Ready i (now s) ∧
    (lp.toNat % 4 = 0 ∧ decL3 lp = 1 ∧ okFlt a = true ∧ okDecDst (decL2 lp) e = true) ∧
    Owns c (a.mode = 0) (now s) ∧
    Gives (fltSrc c 1 .d128 a []) (now s) (v, u) d1 ∧
    Dec c 2 (decL2 lp) false .write e u d1 o upd d2 ∧
    (∀ neg cf ex, d128Dec v ≠ .fin neg cf ex) ∧
    Gives (commitUpd c upd) d2 () d3 ∧
    NoTrap c 16 d3 := by
  refine ⟨core0 (fun k => { k with f := [(2, 0x7C000000000000000000000000000000)] }) (run []), 0, 0, reg 2, reg 4, _, _, _, _, _, _, _, ready ?_, ?_, ?_, gives₂ ?_, gives₂ ?_, notFinite ?_, gives₀ ?_, noTrap ?_⟩
  all_goals first | decide +kernel | ((try unfold Gives); dsimp only [Ready, Owns, NoTrap]; decide +kernel)

theorem wit_FloatingOperationsComplete_0 :
  ∀ r ∈ fltOne,
  ∃ (s : State) (c : CoreId) (ob : BitVec 6) (a e : Spec) (x : Fp) (dst : Dst) (upd : AMap Word) (d1 d2 : Dev),
    let i : Ins := { c := c, op := r.op, ob := ob.toNat, specs := [a, e] }
    Ready i (now s) ∧
    (ob.toNat % 8 = 0 ∧ ob.toNat / 8 ≤ 5 ∧ okFlt a = true ∧ okFlt e = true) ∧
    ((now s).core c).xav = true ∧
    Flt c r.f [a] e (now s) [x] dst upd d1 ∧
    FltEnds c upd r.f dst (r.val (rounding (d1.core c) ob) x) d1 d2 := by
  intro r hr
  simp only [fltOne, List.mem_cons, List.not_mem_nil, or_false] at hr
  rcases hr with rfl | rfl
  all_goals first
    | (refine ⟨ext [(2, 0x3FF0000000000000)] 0 (run []), 0, 40, reg 2, at' 3 0, .fin false 4503599627370496 (-52), _, _, _, _, ready ?_, ?_, ?_, ⟨[], _, givesIs _ ?_, gives₂ ?_⟩, ⟨_, gives' ?_, ends ?_ ?_⟩⟩ <;> (first | decide +kernel | (dsimp only [Ready]; decide +kernel)))
    | (refine ⟨ext [(2, BitVec.ofNat 144 (d128Enc (.fin false 1 0)))] 0 (run []), 0, 40, reg 2, at' 3 0, .fin false 1 0, _, _, _, _, ready ?_, ?_, ?_, ⟨[], _, givesIs _ ?_, gives₂ ?_⟩, ⟨_, gives' ?_, ends ?_ ?_⟩⟩ <;> (first | decide +kernel | (dsimp only [Ready]; decide +kernel)))

theorem wit_FloatingOperationsComplete_1 :
  ∀ r ∈ fltTwo,
  ∃ (s : State) (c : CoreId) (ob : BitVec 6) (a b e : Spec) (x y : Fp) (dst : Dst) (upd : AMap Word) (d1 d2 : Dev),
    let i : Ins := { c := c, op := r.op, ob := ob.toNat, specs := [a, b, e] }
    Ready i (now s) ∧
    (ob.toNat % 8 = 0 ∧ ob.toNat / 8 ≤ 5 ∧ okFlt a = true ∧ okFlt b = true ∧ okFlt e = true) ∧
    ((now s).core c).xav = true ∧
    Flt c r.f [a, b] e (now s) [x, y] dst upd d1 ∧
    FltEnds c upd r.f dst (r.val (rounding (d1.core c) ob) x y) d1 d2 := by
  intro r hr
  simp only [fltTwo, List.mem_cons, List.not_mem_nil, or_false] at hr
  rcases hr with rfl | rfl | rfl | rfl | rfl | rfl | rfl | rfl | rfl
  all_goals first
    | (refine ⟨ext [(2, 0x3FF0000000000000)] 0 (run []), 0, 0, reg 2, reg 2, at' 3 0, .fin false 4503599627370496 (-52), .fin false 4503599627370496 (-52), _, _, _, _, ready ?_, ?_, ?_, ⟨[], _, givesIs _ ?_, gives₂ ?_⟩, ⟨_, gives' ?_, ends ?_ ?_⟩⟩ <;> (first | decide +kernel | (dsimp only [Ready]; decide +kernel)))
    | (refine ⟨ext [(2, BitVec.ofNat 144 (d128Enc (.fin false 1 0)))] 0 (run []), 0, 0, reg 2, reg 2, at' 3 0, .fin false 1 0, .fin false 1 0, _, _, _, _, ready ?_, ?_, ?_, ⟨[], _, givesIs _ ?_, gives₂ ?_⟩, ⟨_, gives' ?_, ends ?_ ?_⟩⟩ <;> (first | decide +kernel | (dsimp only [Ready]; decide +kernel)))

theorem wit_FloatingOperationsComplete_2 :
  ∀ r ∈ fltThree,
  ∃ (s : State) (c : CoreId) (ob : BitVec 6) (a b g e : Spec) (x y z : Fp) (dst : Dst) (upd : AMap Word) (d1 d2 : Dev),
    let i : Ins := { c := c, op := r.op, ob := ob.toNat, specs := [a, b, g, e] }
    Ready i (now s) ∧
    (ob.toNat % 8 = 0 ∧ ob.toNat / 8 ≤ 5 ∧ okFlt a = true ∧ okFlt b = true ∧ okFlt g = true ∧ okFlt e = true) ∧
    ((now s).core c).xav = true ∧
    Flt c r.f [a, b, g] e (now s) [x, y, z] dst upd d1 ∧
    FltEnds c upd r.f dst (r.val (rounding (d1.core c) ob) x y z) d1 d2 := by
  intro r hr
  simp only [fltThree, List.mem_cons, List.not_mem_nil, or_false] at hr
  rcases hr with rfl | rfl
  all_goals first
    | (refine ⟨ext [(2, 0x3FF0000000000000)] 0 (run []), 0, 0, reg 2, reg 2, reg 2, at' 3 0, .fin false 4503599627370496 (-52), .fin false 4503599627370496 (-52), .fin false 4503599627370496 (-52), _, _, _, _, ready ?_, ?_, ?_, ⟨[], _, givesIs _ ?_, gives₂ ?_⟩, ⟨_, gives' ?_, ends ?_ ?_⟩⟩ <;> (first | decide +kernel | (dsimp only [Ready]; decide +kernel)))
    | (refine ⟨ext [(2, BitVec.ofNat 144 (d128Enc (.fin false 1 0)))] 0 (run []), 0, 0, reg 2, reg 2, reg 2, at' 3 0, .fin false 1 0, .fin false 1 0, .fin false 1 0, _, _, _, _, ready ?_, ?_, ?_, ⟨[], _, givesIs _ ?_, gives₂ ?_⟩, ⟨_, gives' ?_, ends ?_ ?_⟩⟩ <;> (first | decide +kernel | (dsimp only [Ready]; decide +kernel)))

theorem wit_FloatingConversionsComplete_0 :
  ∃ (quad : Bool) (s : State) (c : CoreId) (ob : BitVec 6) (a b e : Spec) (x y : Fp) (u : AMap Word) (d1 d2 : Dev),
    let f : FpFmt := if quad then .d128 else .b64
    let i : Ins := { c := c, op := if quad then 0o176 else 0o166, ob := ob.toNat, specs := [a, b, e] }
    let v := fpPred f ob.toNat x y
    Ready i (now s) ∧
    (ob.toNat < 7 ∧ okFlt a = true ∧ okFlt b = true ∧ okReg e = true) ∧
    ((now s).core c).xav = true ∧
    Gives (fltSrcs c f 1 [] [a, b]) (now s) ([x, y], u) d1 ∧
    WritesG c u e.reg.toNat (if v.1 then 1 else 0) d1 d2 ∧
    NoTrap c v.2 d2 := by
  refine ⟨false, ext [(2, 0x3FF0000000000000)] 0 (run []), 0, 6, reg 2, reg 2, reg 3, .fin false 4503599627370496 (-52), .fin false 4503599627370496 (-52), [], _, _, ready ?_, ?_, ?_, givesIs _ ?_, writesG ?_ ?_, noTrap ?_⟩
  all_goals first | decide +kernel | ((try unfold Gives); dsimp only [Ready, NoTrap]; decide +kernel)

theorem wit_FloatingConversionsComplete_1 :
  ∀ r ∈ cvtFloats,
  ∃ (s : State) (c : CoreId) (ob : BitVec 6) (a e : Spec) (v : Nat) (dst : Dst) (u upd : AMap Word) (d1 d2 d3 : Dev),
    let i := cvtIns r.quad c ob a e
    Ready i (now s) ∧
    (ob.toNat % 8 = r.kind ∧ ob.toNat / 8 ≤ 5 ∧ okFlt a = true ∧ okFlt e = true) ∧
    ((now s).core c).xav = true ∧
    Gives (fltSrc c 1 r.how.1 a []) (now s) (v, u) d1 ∧
    Gives (fltDst c 2 r.how.2.1 e u) d1 (dst, upd) d2 ∧
    FltEnds c upd r.how.2.1 dst (r.how.2.2 (rounding ((now s).core c) ob) (r.how.1.dec v)) d2 d3 := by
  intro r hr
  simp only [cvtFloats, List.mem_cons, List.not_mem_nil, or_false] at hr
  rcases hr with rfl | rfl | rfl | rfl
  all_goals first
    | (refine ⟨ext [(2, 0x3FF0000000000000)] 0 (run []), 0, 0, reg 2, reg 3, _, _, _, _, _, _, _, ready ?_, ?_, ?_, gives₂ ?_, gives₂ ?_, ⟨_, gives' ?_, ends ?_ ?_⟩⟩ <;> (first | decide +kernel | ((try unfold Gives); dsimp only [Ready]; decide +kernel)))
    | (refine ⟨ext [(2, 0x3FF0000000000000)] 0 (run []), 0, 1, reg 2, reg 3, _, _, _, _, _, _, _, ready ?_, ?_, ?_, gives₂ ?_, gives₂ ?_, ⟨_, gives' ?_, ends ?_ ?_⟩⟩ <;> (first | decide +kernel | ((try unfold Gives); dsimp only [Ready]; decide +kernel)))
    | (refine ⟨ext [(2, 0x3FF0000000000000)] 0 (run []), 0, 6, reg 2, reg 3, _, _, _, _, _, _, _, ready ?_, ?_, ?_, gives₂ ?_, gives₂ ?_, ⟨_, gives' ?_, ends ?_ ?_⟩⟩ <;> (first | decide +kernel | ((try unfold Gives); dsimp only [Ready]; decide +kernel)))
    | (refine ⟨ext [(2, 0x3FF0000000000000)] 0 (run []), 0, 2, reg 2, reg 3, _, _, _, _, _, _, _, ready ?_, ?_, ?_, gives₂ ?_, gives₂ ?_, ⟨_, gives' ?_, ends ?_ ?_⟩⟩ <;> (first | decide +kernel | ((try unfold Gives); dsimp only [Ready]; decide +kernel)))

theorem wit_FloatingConversionsComplete_2 :
  ∀ r ∈ cvtToInts,
  ∃ (s : State) (c : CoreId) (ob : BitVec 6) (a e : Spec) (v : Nat) (dst : Dst) (u upd : AMap Word) (d1 d2 d3 d4 : Dev),
    let i := cvtIns r.quad c ob a e
    let n := r.how.2
    let t := fpToInt r.how.1 (rounding ((now s).core c) ob) (9 * n) (r.how.1.dec v)
    Ready i (now s) ∧
    (ob.toNat % 8 = r.kind ∧ ob.toNat / 8 ≤ 5 ∧ okFlt a = true ∧ okIntDst n e = true) ∧
    ((now s).core c).xav = true ∧
    Gives (fltSrc c 1 r.how.1 a []) (now s) (v, u) d1 ∧
    Gives (dstOpd c 2 n e u) d1 (dst, upd) d2 ∧
    Gives (commitUpd c upd) d2 () d3 ∧
    Ends c (dstWrites (d3.core c) dst (natCells n t.1)) t.2 d3 d4 := by
  intro r hr
  simp only [cvtToInts, List.mem_cons, List.not_mem_nil, or_false] at hr
  rcases hr with rfl | rfl | rfl | rfl
  all_goals first
    | (refine ⟨ext [(2, 0x3FF0000000000000)] 0 (run []), 0, 0, reg 2, reg 4, _, _, _, _, _, _, _, _, ready ?_, ?_, ?_, gives₂ ?_, gives₂ ?_, gives₀ ?_, ends ?_ ?_⟩ <;> (first | decide +kernel | ((try unfold Gives); dsimp only [Ready]; decide +kernel)))
    | (refine ⟨ext [(2, 0x3FF0000000000000)] 0 (run []), 0, 2, reg 2, reg 4, _, _, _, _, _, _, _, _, ready ?_, ?_, ?_, gives₂ ?_, gives₂ ?_, gives₀ ?_, ends ?_ ?_⟩ <;> (first | decide +kernel | ((try unfold Gives); dsimp only [Ready]; decide +kernel)))
    | (refine ⟨ext [(2, 0x3FF0000000000000)] 0 (run []), 0, 3, reg 2, reg 4, _, _, _, _, _, _, _, _, ready ?_, ?_, ?_, gives₂ ?_, gives₂ ?_, gives₀ ?_, ends ?_ ?_⟩ <;> (first | decide +kernel | ((try unfold Gives); dsimp only [Ready]; decide +kernel)))

theorem wit_FloatingConversionsComplete_3 :
  ∀ r ∈ cvtOfInts,
  ∃ (s : State) (c : CoreId) (ob : BitVec 6) (a e : Spec) (v : Nat) (dst : Dst) (u upd : AMap Word) (d1 d2 d3 : Dev),
    let i := cvtIns r.quad c ob a e
    let n := r.how.2
    Ready i (now s) ∧
    (ob.toNat % 8 = r.kind ∧ ob.toNat / 8 ≤ 5 ∧ okIntSrc n a = true ∧ okFlt e = true) ∧
    ((now s).core c).xav = true ∧
    Gives (srcNat c 1 n a []) (now s) (v, u) d1 ∧
    Gives (fltDst c 2 r.how.1 e u) d1 (dst, upd) d2 ∧
    FltEnds c upd r.how.1 dst (fpOfInt r.how.1 (rounding ((now s).core c) ob) (signed (9 * n) v)) d2 d3 := by
  intro r hr
  simp only [cvtOfInts, List.mem_cons, List.not_mem_nil, or_false] at hr
  rcases hr with rfl | rfl | rfl | rfl
  all_goals first
    | (refine ⟨ext [(2, 0x3FF0000000000000)] 0 (run [(3, 5)]), 0, 1, reg 2, reg 4, _, _, _, _, _, _, _, ready ?_, ?_, ?_, gives₂ ?_, gives₂ ?_, ⟨_, gives' ?_, ends ?_ ?_⟩⟩ <;> (first | decide +kernel | ((try unfold Gives); dsimp only [Ready]; decide +kernel)))
    | (refine ⟨ext [(2, 0x3FF0000000000000)] 0 (run [(3, 5)]), 0, 4, reg 2, reg 4, _, _, _, _, _, _, _, ready ?_, ?_, ?_, gives₂ ?_, gives₂ ?_, ⟨_, gives' ?_, ends ?_ ?_⟩⟩ <;> (first | decide +kernel | ((try unfold Gives); dsimp only [Ready]; decide +kernel)))
    | (refine ⟨ext [(2, 0x3FF0000000000000)] 0 (run [(3, 5)]), 0, 5, reg 2, reg 4, _, _, _, _, _, _, _, ready ?_, ?_, ?_, gives₂ ?_, gives₂ ?_, ⟨_, gives' ?_, ends ?_ ?_⟩⟩ <;> (first | decide +kernel | ((try unfold Gives); dsimp only [Ready]; decide +kernel)))

theorem wit_FloatingConversionsComplete_4 :
  ∃ (quad : Bool) (s : State) (c : CoreId) (ob : BitVec 6) (a e : Spec) (v : Nat) (dst : Dst) (u upd : AMap Word) (d1 d2 d3 d4 : Dev),
    let f : FpFmt := if quad then .d128 else .b64
    let i : Ins := { c := c, op := if quad then 0o202 else 0o201, ob := ob.toNat, specs := [a, e] }
    Ready i (now s) ∧
    (ob.toNat ≤ 2 ∧ okFlt a = true ∧ okFlt e = true) ∧
    ((now s).core c).xav = true ∧
    Gives (fltSrc c 1 f a []) (now s) (v, u) d1 ∧
    Gives (fltDst c 2 f e u) d1 (dst, upd) d2 ∧
    v < 2 ^ f.bits ∧
    Gives (commitUpd c upd) d2 () d3 ∧
    Gives (applyWrs c (fltWrites (d3.core c) f dst (movOf f ob.toNat v))) d3 () d4 := by
  refine ⟨true, ext [(2, 0x3FF0000000000000)] 0 (run []), 0, 2, reg 2, reg 3, _, _, _, _, _, _, _, _, ready ?_, ?_, ?_, gives₂ ?_, gives₂ ?_, ?_, gives₀ ?_, gives₀ ?_⟩
  all_goals first | decide +kernel | ((try unfold Gives); dsimp only [Ready]; decide +kernel)

theorem wit_FloatingConversionsComplete_5 :
  ∃ (s : State) (c : CoreId) (a e : Spec) (v : Nat) (dst : Dst) (u upd : AMap Word) (d1 d2 d3 d4 : Dev),
    let i : Ins := { c := c, op := 0o201, ob := 3, specs := [a, e] }
    Ready i (now s) ∧
    (okIntSrc 8 a = true ∧ okFlt e = true) ∧
    ((now s).core c).xav = true ∧
    Gives (srcNat c 1 8 a []) (now s) (v, u) d1 ∧
    Gives (fltDst c 2 .b64 e u) d1 (dst, upd) d2 ∧
    Gives (commitUpd c upd) d2 () d3 ∧
    Gives (applyWrs c (fltWrites (d3.core c) .b64 dst (v % 2 ^ 64))) d3 () d4 := by
  refine ⟨run [(2, 7), (3, 9)], 0, reg 2, reg 3, _, _, _, _, _, _, _, _, ready ?_, ?_, ?_, gives₂ ?_, gives₂ ?_, gives₀ ?_, gives₀ ?_⟩
  all_goals first | decide +kernel | ((try unfold Gives); dsimp only [Ready]; decide +kernel)

theorem wit_FloatingConversionsComplete_6 :
  ∃ (s : State) (c : CoreId) (a e : Spec) (v : Nat) (dst : Dst) (u upd : AMap Word) (d1 d2 d3 : Dev),
    let i : Ins := { c := c, op := 0o201, ob := 4, specs := [a, e] }
    Ready i (now s) ∧
    (okFlt a = true ∧ okIntDst 8 e = true) ∧
    ((now s).core c).xav = true ∧
    Gives (fltSrc c 1 .b64 a []) (now s) (v, u) d1 ∧
    Gives (dstOpd c 2 8 e u) d1 (dst, upd) d2 ∧
    Writes c upd dst (natCells 8 v) d2 d3 := by
  refine ⟨ext [(2, 0x3FF0000000000000)] 0 (run []), 0, reg 2, reg 4, _, _, _, _, _, _, _, ready ?_, ?_, ?_, gives₂ ?_, gives₂ ?_, writes ?_ ?_⟩
  all_goals first | decide +kernel | ((try unfold Gives); dsimp only [Ready]; decide +kernel)

theorem wit_VectorOperationsComplete_0 :
  ∀ r ∈ vecOps,
  ∃ (s : State) (c : CoreId) (ob : BitVec 6) (a b e : Spec),
    let i : Ins := { c := c, op := r.op, ob := ob.toNat, specs := [a, b, e] }
    let k := (now s).core c
    let f := r.val k.ew k
    let xs := k.vCells a.reg.toNat
    let ys := k.vCells b.reg.toNat
    let ds := k.vCells e.reg.toNat
    let sf := vecFlags k ob f xs ys ds
    VecReady c r.op ob [a, b, e] (now s) ∧
    okReg a = true ∧
    okReg b = true ∧
    okReg e = true ∧
    ob.toNat % 4 = r.var ∧
    k.ew ∈ r.widths ∧
    vecTrap k.te sf = none := by
  intro r hr
  simp only [vecOps, List.mem_cons, List.not_mem_nil, or_false] at hr
  rcases hr with rfl | rfl | rfl | rfl | rfl | rfl | rfl | rfl | rfl | rfl | rfl
  all_goals first
    | (refine ⟨ext [] (3 * 2 ^ 34 + 16 * 2 ^ 16 + 8) (run []), 0, 32, reg 2, reg 3, reg 4, ?_, ?_, ?_, ?_, ?_, ?_, ?_⟩ <;> (first | decide +kernel | (dsimp only [VecReady, Ready]; decide +kernel)))
    | (refine ⟨ext [] (3 * 2 ^ 34 + 16 * 2 ^ 16 + 8) (run []), 0, 33, reg 2, reg 3, reg 4, ?_, ?_, ?_, ?_, ?_, ?_, ?_⟩ <;> (first | decide +kernel | (dsimp only [VecReady, Ready]; decide +kernel)))
    | (refine ⟨ext [] (3 * 2 ^ 34 + 16 * 2 ^ 16 + 8) (run []), 0, 34, reg 2, reg 3, reg 4, ?_, ?_, ?_, ?_, ?_, ?_, ?_⟩ <;> (first | decide +kernel | (dsimp only [VecReady, Ready]; decide +kernel)))

theorem wit_VectorOperationsComplete_1 :
  ∀ r ∈ vecWides,
  ∃ (s : State) (c : CoreId) (ob : BitVec 6) (a b e : Spec),
    let i : Ins := { c := c, op := r.op, ob := ob.toNat, specs := [a, b, e] }
    let k := (now s).core c
    let ds := k.vCells e.reg.toNat
    let out (j : Nat) := r.val k ob (k.vCells a.reg.toNat) (k.vCells b.reg.toNat) j (elem ds r.size j)
    let sf := orAll ((List.range r.groups).map fun j => (out j).2)
    VecReady c r.op ob [a, b, e] (now s) ∧
    okReg a = true ∧
    okReg b = true ∧
    okReg e = true ∧
    ob.toNat % 4 ∈ r.vars ∧
    k.ew = r.ew (ob.toNat % 4) ∧
    vecTrap k.te sf = none := by
  intro r hr
  simp only [vecWides, List.mem_cons, List.not_mem_nil, or_false] at hr
  rcases hr with rfl | rfl | rfl | rfl
  all_goals refine ⟨ext [] (2 * 2 ^ 34 + 16 * 2 ^ 16 + 16) (run []), 0, 32, reg 2, reg 3, reg 4, ?_, ?_, ?_, ?_, ?_, ?_, ?_⟩
  all_goals first | decide +kernel | (dsimp only [VecReady, Ready]; decide +kernel)

theorem wit_VectorTransfersComplete_0 :
  ∃ (s : State) (c : CoreId) (ob : BitVec 6) (a e : Spec) (ea : Nat) (upd : AMap Word) (d1 d2 d3 : Dev),
    let i : Ins := { c := c, op := 0o210, ob := ob.toNat, specs := [a, e] }
    let k := (now s).core c
    let n := elemCells k.ew
    VecReady c 0o210 ob [a, e] (now s) ∧
    ob.toNat % 4 = 0 ∧
    okMem a = true ∧
    okReg e = true ∧
    Gives (evalEA c 1 (k.avl * n) a []) (now s) (ea, upd) d1 ∧
    Gives (vecEach c (vecActive k n (vecMask k ob)) (fun j => vecLoad c a e.reg.toNat n j (ea + j * n)) (upto k.avl)) d1 () d2 ∧
    Gives (commitUpd c upd) d2 () d3 := by
  refine ⟨ext [] (3 * 2 ^ 34 + 16 * 2 ^ 16 + 1) (run []), 0, 32, at' 2 0, reg 4, _, _, _, _, _, ?_, ?_, ?_, ?_, gives₂ ?_, gives₀ ?_, gives₀ ?_⟩
  all_goals first | decide +kernel | ((try unfold Gives); dsimp only [VecReady, Ready]; decide +kernel)

theorem wit_VectorTransfersComplete_1 :
  ∃ (s : State) (c : CoreId) (ob : BitVec 6) (a e : Spec) (ea : Nat) (upd : AMap Word) (d1 d2 d3 : Dev),
    let i : Ins := { c := c, op := 0o211, ob := ob.toNat, specs := [a, e] }
    let k := (now s).core c
    let n := elemCells k.ew
    VecReady c 0o211 ob [a, e] (now s) ∧
    ob.toNat % 4 = 0 ∧
    okReg a = true ∧
    okMem e = true ∧
    Gives (evalEA c 2 (k.avl * n) e []) (now s) (ea, upd) d1 ∧
    Gives (vecEach c (vecActive k n (vecMask k ob)) (fun j => vecStore c e a.reg.toNat n j (ea + j * n)) (upto k.avl)) d1 () d2 ∧
    Gives (commitUpd c upd) d2 () d3 := by
  refine ⟨ext [] (3 * 2 ^ 34 + 16 * 2 ^ 16 + 1) (run []), 0, 32, reg 2, at' 4 0, _, _, _, _, _, ?_, ?_, ?_, ?_, gives₂ ?_, gives₀ ?_, gives₀ ?_⟩
  all_goals first | decide +kernel | ((try unfold Gives); dsimp only [VecReady, Ready]; decide +kernel)

theorem wit_VectorTransfersComplete_2 :
  ∃ (s : State) (c : CoreId) (ob : BitVec 6) (a b e : Spec),
    let i : Ins := { c := c, op := 0o224, ob := ob.toNat, specs := [a, b, e] }
    let k := (now s).core c
    let n := elemCells k.ew
    let out (j : Nat) := cmpElem (ob.toNat % 4) (elem (k.vCells a.reg.toNat) n j) (elem (k.vCells b.reg.toNat) n j)
    let act := vecActive k n (vecMask k ob)
    let sf := orAll (((List.range k.avl).filter act).map fun j => (out j).2)
    VecReady c 0o224 ob [a, b, e] (now s) ∧
    okReg a = true ∧
    okReg b = true ∧
    okMask e = true ∧
    (k.ew = 2 ∨ k.ew = 3) ∧
    vecTrap k.te sf = none := by
  refine ⟨ext [] (3 * 2 ^ 34 + 16 * 2 ^ 16 + 8) (run []), 0, 0, reg 2, reg 3, reg 7, ?_, ?_, ?_, ?_, ?_, ?_⟩
  all_goals first | decide +kernel | (dsimp only [VecReady, Ready]; decide +kernel)

theorem wit_VectorTransfersComplete_3 :
  ∃ (s : State) (c : CoreId) (ob : BitVec 6) (a b e : Spec),
    let i : Ins := { c := c, op := 0o225, ob := ob.toNat, specs := [a, b, e] }
    let k := (now s).core c
    let n := elemCells k.ew
    let ds := k.vCells e.reg.toNat
    VecReady c 0o225 ob [a, b, e] (now s) ∧
    bitOf ob.toNat 5 = true ∧
    ob.toNat % 4 = 0 ∧
    okReg a = true ∧
    okReg b = true ∧
    okReg e = true := by
  refine ⟨ext [] (3 * 2 ^ 34 + 16 * 2 ^ 16 + 8) (run []), 0, 32, reg 2, reg 3, reg 4, ?_, ?_, ?_, ?_, ?_, ?_⟩
  all_goals first | decide +kernel | (dsimp only [VecReady, Ready]; decide +kernel)

theorem wit_VectorTransfersComplete_4 :
  ∃ (s : State) (c : CoreId) (ob : BitVec 6) (a b e : Spec),
    let i : Ins := { c := c, op := 0o226, ob := ob.toNat, specs := [a, b, e] }
    let k := (now s).core c
    let x := k.m.getD' a.reg.toNat 0
    let y := k.m.getD' b.reg.toNat 0
    Ready i (now s) ∧
    k.xav = true ∧
    ob.toNat < 3 ∧
    okMask a = true ∧
    okMask b = true ∧
    okMask e = true := by
  refine ⟨run [], 0, 2, reg 2, reg 3, reg 7, ready ?_, ?_, ?_, ?_, ?_, ?_⟩
  all_goals first | decide +kernel | (dsimp only [Ready]; decide +kernel)

theorem wit_VectorTransfersComplete_5 :
  ∃ (s : State) (c : CoreId) (a b e : Spec) (x : Nat) (dst : Dst) (u upd : AMap Word) (d1 d2 d3 : Dev),
    let i : Ins := { c := c, op := 0o226, ob := 3, specs := [a, b, e] }
    Ready i (now s) ∧
    ((now s).core c).xav = true ∧
    okIntSrc 4 a = true ∧
    okMask b = true ∧
    okIntDst 4 e = true ∧
    Gives (srcNat c 1 4 a []) (now s) (x, u) d1 ∧
    Gives (dstOpd c 3 4 e u) d1 (dst, upd) d2 ∧
    Writes c upd dst (natCells 4 (((now s).core c).m.getD' b.reg.toNat 0).toNat) d2 d3 := by
  refine ⟨run [], 0, reg 2, reg 3, reg 4, _, _, _, _, _, _, _, ready ?_, ?_, ?_, ?_, ?_, gives₂ ?_, gives₂ ?_, writes ?_ ?_⟩
  all_goals first | decide +kernel | ((try unfold Gives); dsimp only [Ready]; decide +kernel)

theorem wit_VectorTransfersComplete_6 :
  ∃ (s : State) (c : CoreId) (ob : BitVec 6) (a e : Spec) (x : Nat) (u : AMap Word) (d1 d2 : Dev),
    let i : Ins := { c := c, op := 0o227, ob := ob.toNat, specs := [a, e] }
    let n := Nat.min x (64 / 2 ^ ob.toNat)
    Ready i (now s) ∧
    ((now s).core c).xav = true ∧
    ob.toNat < 4 ∧
    okIntSrc 4 a = true ∧
    okReg e = true ∧
    Gives (srcNat c 1 4 a []) (now s) (x, u) d1 ∧
    WritesG c u e.reg.toNat n d1 d2 := by
  refine ⟨run [(2, 100)], 0, 3, reg 2, reg 4, _, _, _, _, ready ?_, ?_, ?_, ?_, ?_, gives₂ ?_, writesG ?_ ?_⟩
  all_goals first | decide +kernel | ((try unfold Gives); dsimp only [Ready]; decide +kernel)

theorem wit_StreamCommandsComplete_0 :
  ∃ (d : Dev) (i n : Nat) (g : GeyCtx),
    findCtx (d.isl i) g.world g.scbLin = none ∧
    freeNumber (d.isl i) = some n ∧
    d.bit (offGYCTL i) 0 = false ∧
    d.bit (offGYCTL i) 1 = false := by
  refine ⟨(run []).dev, 0, 0, gey 1, ?_, ?_, ?_, ?_⟩
  all_goals decide +kernel

theorem wit_StreamCommandsComplete_1_0 :
  ∃ (d : Dev) (i n : Nat) (g h : GeyCtx),
    findCtx (d.isl i) g.world g.scbLin = some n ∧
    (d.isl i).ctxs.find n = some h ∧
    (h.st = 3 ∨ h.st = 4) := by
  refine ⟨(run []).dev.updIsl 0 fun x => { x with ctxs := [(0, gey 3)] }, 0, 0, gey 1, gey 3, ?_, ?_, ?_⟩
  all_goals decide +kernel

theorem wit_StreamCommandsComplete_1_1 :
  ∃ (d : Dev) (i n : Nat) (g h : GeyCtx),
    findCtx (d.isl i) g.world g.scbLin = some n ∧
    (d.isl i).ctxs.find n = some h ∧
    (d.isl i).running ≠ some n := by
  refine ⟨(run []).dev.updIsl 0 fun x => { x with ctxs := [(0, gey 3)] }, 0, 0, gey 1, gey 3, ?_, ?_, ?_⟩
  all_goals decide +kernel

theorem wit_StreamCommandsComplete_1_2 :
  ∃ (d : Dev) (i n : Nat) (g h : GeyCtx),
    findCtx (d.isl i) g.world g.scbLin = some n ∧
    (d.isl i).ctxs.find n = some h ∧
    (d.isl i).running = some n := by
  refine ⟨(run []).dev.updIsl 0 fun x => { x with ctxs := [(0, gey 1)], running := some 0 }, 0, 0, gey 1, gey 1, ?_, ?_, ?_⟩
  all_goals decide +kernel

set_option maxRecDepth 100000 in
theorem wit_StreamCommandsComplete_2 :
  ∃ (cmd : Fin 3) (s : State) (c : CoreId) (a : Spec) (loc : MemLoc) (rep : Rep) (upd : AMap Word) (cs : List Cell) (g : GeyCtx) (r : SgoResult) (d1 d2 d3 d4 d5 d6 d7 : Dev),
    let i : Ins := { c := c, op := 0o034, ob := 0, specs := [a] }
    Ready i (now s) ∧
    okMem a = true ∧
    ((now s).core c).plev = 0 ∧
    Gives (memOpd c 1 64 .rmw a []) (now s) (loc, rep, upd) d1 ∧
    Gives (storesVisible c) d1 () d2 ∧
    (loc.jr = true → d2.journalReady = true) ∧
    d2.postQueued loc.cells = false ∧
    Gives (readLoc c rep loc) (d2.payOwed (c / 8) (d2.core c).world (scbLinOf c rep d2) loc.cells) cs d3 ∧
    g = sgoSnapshot c rep loc cs (d2.core c) d3 ∧
    bitsOf (cellsNat (cs.take 4)) 35 33 = cmd.val ∧
    d3.sgo (c / 8) cmd g = (d4, r) ∧
    Gives (commitUpd c upd) d4 () d5 ∧
    Gives (scbStores c loc cs r (d2.core c)) d5 () d6 ∧
    Gives (drainAll c) d6 () d7 := by
  refine ⟨0, run [], 0, at' 2 0, _, _, _, _, _, _, _, _, _, _, _, _, _, ready ?_, ?_, ?_, gives₃ ?_, gives₀ ?_, ?_, ?_, gives' ?_, rfl, ?_, split₂ _, gives₀ ?_, gives₀ ?_, gives₀ ?_⟩
  all_goals first | decide +kernel | ((try unfold Gives); dsimp only [Ready]; decide +kernel)

theorem wit_MovesComplete_0_0 :
  ∃ (s : State) (c : CoreId) (ob : BitVec 6) (a e : Spec) (d1 : Dev),
    let l := ob.toNat / 4
    let v := ob.toNat % 4
    let k := (now s).core c
    let gl := (k.gr l).toNat
    let ga := (k.gr a.reg.toNat).toNat
    let ge := (k.gr e.reg.toNat).toNat
    let lapped := segBase k a.seg.toNat + ga < segBase k e.seg.toNat + ge ∧ segBase k e.seg.toNat + ge < segBase k a.seg.toNat + ga + gl
    let down := if k.strDone = 0 then lapped else k.strDown = true
    let marked (b : Bool) : Dev := (now s).updCore c fun k => { k with strDown := b }
    let fin := RegIs c l 0 d1 ∧ RegIs c a.reg.toNat (ga + gl) d1 ∧ RegIs c e.reg.toNat (ge + gl) d1
    v ≤ 1 ∧
    okStr a = true ∧
    okStr e = true ∧
    StrReady c 0o140 ob [a, e] [l, a.reg.toNat, e.reg.toNat] (now s) ∧
    All c gl (ascend c l a e gl ga ge (moveCell c a e v)) (now s) d1 := by
  first
    | (refine ⟨holding 100 [0o123456701234] (run [(2, 1), (3, 100), (4, 200)]), 0, 8, at' 3 0, at' 4 0, _, ?_, ?_, ?_, ⟨ready ?_, ?_, ?_⟩, all_one ?_ ?_⟩ <;> (first | decide +kernel | (dsimp only [Ready, Regs]; decide +kernel)))
    | (refine ⟨holding 100 [0o123456701234] (run [(2, 1), (3, 100), (4, 200)]), 0, 9, at' 3 0, at' 4 0, _, ?_, ?_, ?_, ⟨ready ?_, ?_, ?_⟩, all_one ?_ ?_⟩ <;> (first | decide +kernel | (dsimp only [Ready, Regs]; decide +kernel)))

theorem wit_MovesComplete_0_1 :
  ∃ (s : State) (c : CoreId) (ob : BitVec 6) (a e : Spec) (d1 : Dev),
    let l := ob.toNat / 4
    let v := ob.toNat % 4
    let k := (now s).core c
    let gl := (k.gr l).toNat
    let ga := (k.gr a.reg.toNat).toNat
    let ge := (k.gr e.reg.toNat).toNat
    let lapped := segBase k a.seg.toNat + ga < segBase k e.seg.toNat + ge ∧ segBase k e.seg.toNat + ge < segBase k a.seg.toNat + ga + gl
    let down := if k.strDone = 0 then lapped else k.strDown = true
    let marked (b : Bool) : Dev := (now s).updCore c fun k => { k with strDown := b }
    let fin := RegIs c l 0 d1 ∧ RegIs c a.reg.toNat (ga + gl) d1 ∧ RegIs c e.reg.toNat (ge + gl) d1
    v ≤ 1 ∧
    okStr a = true ∧
    okStr e = true ∧
    StrReady c 0o141 ob [a, e] [l, a.reg.toNat, e.reg.toNat] (now s) ∧
    ¬down ∧
    All c gl (ascend c l a e gl ga ge (moveCell c a e v)) (marked false) d1 := by
  refine ⟨holding 100 [0o123456701234] (run [(2, 1), (3, 100), (4, 200)]), 0, 8, at' 3 0, at' 4 0, _, ?_, ?_, ?_, ⟨ready ?_, ?_, ?_⟩, ?_, all_one ?_ ?_⟩
  all_goals first | decide +kernel | (dsimp only [Ready, Regs]; decide +kernel)

theorem wit_MovesComplete_0_2 :
  ∃ (s : State) (c : CoreId) (ob : BitVec 6) (a e : Spec) (d1 : Dev),
    let l := ob.toNat / 4
    let v := ob.toNat % 4
    let k := (now s).core c
    let gl := (k.gr l).toNat
    let ga := (k.gr a.reg.toNat).toNat
    let ge := (k.gr e.reg.toNat).toNat
    let lapped := segBase k a.seg.toNat + ga < segBase k e.seg.toNat + ge ∧ segBase k e.seg.toNat + ge < segBase k a.seg.toNat + ga + gl
    let down := if k.strDone = 0 then lapped else k.strDown = true
    let marked (b : Bool) : Dev := (now s).updCore c fun k => { k with strDown := b }
    let fin := RegIs c l 0 d1 ∧ RegIs c a.reg.toNat (ga + gl) d1 ∧ RegIs c e.reg.toNat (ge + gl) d1
    v ≤ 1 ∧
    okStr a = true ∧
    okStr e = true ∧
    StrReady c 0o141 ob [a, e] [l, a.reg.toNat, e.reg.toNat] (now s) ∧
    down ∧
    All c gl (backStep c l a e v gl ga ge) (marked true) d1 := by
  refine ⟨holding 100 [0o123456701234] (run [(2, 2), (3, 100), (4, 101)]), 0, 8, at' 3 0, at' 4 0, _, ?_, ?_, ?_, ⟨ready ?_, ?_, ?_⟩, ?_, all_two ?_ ?_ ?_ ?_⟩
  all_goals first | decide +kernel | (dsimp only [Ready, Regs]; decide +kernel)

theorem wit_MovesComplete_0_3 :
  ∃ (s : State) (c : CoreId) (ob : BitVec 6) (a e : Spec) (d1 : Dev),
    let l := ob.toNat / 4
    let v := ob.toNat % 4
    let k := (now s).core c
    let gl := (k.gr l).toNat
    let ga := (k.gr a.reg.toNat).toNat
    let ge := (k.gr e.reg.toNat).toNat
    let lapped := segBase k a.seg.toNat + ga < segBase k e.seg.toNat + ge ∧ segBase k e.seg.toNat + ge < segBase k a.seg.toNat + ga + gl
    let down := if k.strDone = 0 then lapped else k.strDown = true
    let marked (b : Bool) : Dev := (now s).updCore c fun k => { k with strDown := b }
    let fin := RegIs c l 0 d1 ∧ RegIs c a.reg.toNat (ga + gl) d1 ∧ RegIs c e.reg.toNat (ge + gl) d1
    v ≤ 1 ∧
    okStr a = true ∧
    okStr e = true ∧
    StrReady c 0o143 ob [a, e] [l, a.reg.toNat, e.reg.toNat] (now s) ∧
    All c gl (ascend c l a e gl ga ge (markPut c a e v)) (now s) d1 := by
  refine ⟨holding 100 [0o123456701234] (run [(2, 1), (3, 100), (4, 200)]), 0, 8, at' 3 0, at' 4 0, _, ?_, ?_, ?_, ⟨ready ?_, ?_, ?_⟩, all_one ?_ ?_⟩
  all_goals first | decide +kernel | (dsimp only [Ready, Regs]; decide +kernel)

theorem wit_MovesComplete_0_4 :
  ∃ (s : State) (c : CoreId) (ob : BitVec 6) (a e : Spec) (d1 : Dev),
    let l := ob.toNat / 4
    let v := ob.toNat % 4
    let k := (now s).core c
    let gl := (k.gr l).toNat
    let ga := (k.gr a.reg.toNat).toNat
    let ge := (k.gr e.reg.toNat).toNat
    let lapped := segBase k a.seg.toNat + ga < segBase k e.seg.toNat + ge ∧ segBase k e.seg.toNat + ge < segBase k a.seg.toNat + ga + gl
    let down := if k.strDone = 0 then lapped else k.strDown = true
    let marked (b : Bool) : Dev := (now s).updCore c fun k => { k with strDown := b }
    let fin := RegIs c l 0 d1 ∧ RegIs c a.reg.toNat (ga + gl) d1 ∧ RegIs c e.reg.toNat (ge + gl) d1
  ∃ f : Spec,
    v ≤ 1 ∧
    okStr a = true ∧
    okStr e = true ∧
    StrReady c 0o142 ob [a, e, f] [l, l + 1, a.reg.toNat, e.reg.toNat, f.reg.toNat] (now s) ∧
    l % 2 = 0 ∧
    okReg f = true ∧
    All c (k.gr (l + 1)).toNat (fillStep c l a e v ((k.gr f.reg.toNat).toNat % 512) gl (k.gr (l + 1)).toNat ga ge) (now s) d1 := by
  refine ⟨holding 100 [0o123456701234] (run [(2, 0), (3, 1), (4, 100), (5, 200), (6, 64)]), 0, 8, at' 4 0, at' 5 0, _, reg 6, ?_, ?_, ?_, ⟨ready ?_, ?_, ?_⟩, ?_, ?_, all_one ?_ ?_⟩
  all_goals first | decide +kernel | (dsimp only [Ready, Regs]; decide +kernel)

theorem wit_SearchesComplete_0_0 :
  ∃ (s : State) (c : CoreId) (ob : BitVec 6) (a b e : Spec) (d1 : Dev),
    let l := ob.toNat / 4
    let k := (now s).core c
    let r := e.reg.toNat
    let step := cmpStep c l a b r (ob.toNat % 4 == 1) (k.gr l).toNat (k.gr a.reg.toNat).toNat (k.gr b.reg.toNat).toNat (k.gr (r + 1)).toNat
    StrReady c 0o144 ob [a, b, e] [l, a.reg.toNat, b.reg.toNat, r, r + 1] (now s) ∧
    (ob.toNat % 4 ≤ 1 ∧ okStr a = true ∧ okStr b = true ∧ okReg e = true ∧ r % 2 = 0) ∧
    All c (k.gr l).toNat step (now s) d1 := by
  refine ⟨run [(2, 1), (3, 100), (4, 200), (7, 1)], 0, 8, at' 3 0, at' 4 0, reg 6, _, ⟨ready ?_, ?_, ?_⟩, ?_, all_one ?_ ?_⟩
  all_goals first | decide +kernel | (dsimp only [Ready, Regs]; decide +kernel)

theorem wit_SearchesComplete_0_1 :
  ∃ (s : State) (c : CoreId) (ob : BitVec 6) (a b e : Spec) (d1 : Dev),
    let l := ob.toNat / 4
    let k := (now s).core c
    let r := e.reg.toNat
    let step := cmpStep c l a b r (ob.toNat % 4 == 1) (k.gr l).toNat (k.gr a.reg.toNat).toNat (k.gr b.reg.toNat).toNat (k.gr (r + 1)).toNat
  ∃ j,
    StrReady c 0o144 ob [a, b, e] [l, a.reg.toNat, b.reg.toNat, r, r + 1] (now s) ∧
    (ob.toNat % 4 ≤ 1 ∧ okStr a = true ∧ okStr b = true ∧ okReg e = true ∧ r % 2 = 0) ∧
    StopsAt c (k.gr l).toNat j step (now s) d1 := by
  refine ⟨holding 100 [0o123456701234] (run [(2, 1), (3, 100), (4, 200), (7, 1)]), 0, 8, at' 3 0, at' 4 0, reg 6, _, 0, ⟨ready ?_, ?_, ?_⟩, ?_, stops_first ?_ ?_⟩
  all_goals first | decide +kernel | (dsimp only [Ready, Regs]; decide +kernel)

theorem wit_SearchesComplete_1_0 :
  ∃ (s : State) (c : CoreId) (ob : BitVec 6) (a v e : Spec) (d1 : Dev),
    let l := ob.toNat / 4
    let k := (now s).core c
    let x := (k.gr v.reg.toNat).toNat
    let hit (y : Nat) : Bool := if ob.toNat % 4 = 0 then x % 256 == y % 256 else if ob.toNat % 4 = 1 then x % 512 == y % 512 else !(x % 256 == y % 256)
    let step := findStep c l a hit (k.gr l).toNat (k.gr a.reg.toNat).toNat
    StrReady c 0o147 ob [a, v, e] [l, a.reg.toNat, v.reg.toNat, e.reg.toNat] (now s) ∧
    (ob.toNat % 4 ≤ 2 ∧ okStr a = true ∧ okReg v = true ∧ okReg e = true) ∧
    All c (k.gr l).toNat step (now s) d1 := by
  refine ⟨run [(2, 1), (3, 100), (4, 7)], 0, 8, at' 3 0, reg 4, reg 6, _, ⟨ready ?_, ?_, ?_⟩, ?_, all_one ?_ ?_⟩
  all_goals first | decide +kernel | (dsimp only [Ready, Regs]; decide +kernel)

theorem wit_SearchesComplete_1_1 :
  ∃ (s : State) (c : CoreId) (ob : BitVec 6) (a v e : Spec) (d1 : Dev),
    let l := ob.toNat / 4
    let k := (now s).core c
    let x := (k.gr v.reg.toNat).toNat
    let hit (y : Nat) : Bool := if ob.toNat % 4 = 0 then x % 256 == y % 256 else if ob.toNat % 4 = 1 then x % 512 == y % 512 else !(x % 256 == y % 256)
    let step := findStep c l a hit (k.gr l).toNat (k.gr a.reg.toNat).toNat
  ∃ j,
    StrReady c 0o147 ob [a, v, e] [l, a.reg.toNat, v.reg.toNat, e.reg.toNat] (now s) ∧
    (ob.toNat % 4 ≤ 2 ∧ okStr a = true ∧ okReg v = true ∧ okReg e = true) ∧
    StopsAt c (k.gr l).toNat j step (now s) d1 := by
  refine ⟨run [(2, 1), (3, 100), (4, 0)], 0, 8, at' 3 0, reg 4, reg 6, _, 0, ⟨ready ?_, ?_, ?_⟩, ?_, stops_first ?_ ?_⟩
  all_goals first | decide +kernel | (dsimp only [Ready, Regs]; decide +kernel)

theorem wit_SearchesComplete_2_0 :
  ∃ (s : State) (c : CoreId) (ob : BitVec 6) (a e : Spec) (d1 : Dev),
    let l := ob.toNat / 4
    let k := (now s).core c
    let hit (y : Nat) : Bool := if ob.toNat % 4 = 0 then y / 256 == 1 else !(y / 256 == 1)
    let step := findStep c l a hit (k.gr l).toNat (k.gr a.reg.toNat).toNat
    StrReady c 0o150 ob [a, e] [l, a.reg.toNat, e.reg.toNat] (now s) ∧
    (ob.toNat % 4 ≤ 1 ∧ okStr a = true ∧ okReg e = true) ∧
    All c (k.gr l).toNat step (now s) d1 := by
  refine ⟨run [(2, 1), (3, 100)], 0, 8, at' 3 0, reg 6, _, ⟨ready ?_, ?_, ?_⟩, ?_, all_one ?_ ?_⟩
  all_goals first | decide +kernel | (dsimp only [Ready, Regs]; decide +kernel)

theorem wit_SearchesComplete_2_1 :
  ∃ (s : State) (c : CoreId) (ob : BitVec 6) (a e : Spec) (d1 : Dev),
    let l := ob.toNat / 4
    let k := (now s).core c
    let hit (y : Nat) : Bool := if ob.toNat % 4 = 0 then y / 256 == 1 else !(y / 256 == 1)
    let step := findStep c l a hit (k.gr l).toNat (k.gr a.reg.toNat).toNat
  ∃ j,
    StrReady c 0o150 ob [a, e] [l, a.reg.toNat, e.reg.toNat] (now s) ∧
    (ob.toNat % 4 ≤ 1 ∧ okStr a = true ∧ okReg e = true) ∧
    StopsAt c (k.gr l).toNat j step (now s) d1 := by
  refine ⟨run [(2, 1), (3, 100)], 0, 9, at' 3 0, reg 6, _, 0, ⟨ready ?_, ?_, ?_⟩, ?_, stops_first ?_ ?_⟩
  all_goals first | decide +kernel | (dsimp only [Ready, Regs]; decide +kernel)

theorem wit_SearchesComplete_3_0 :
  ∃ (s : State) (c : CoreId) (ob : BitVec 6) (a t e : Spec) (d1 : Dev),
    let l := ob.toNat / 4
    let k := (now s).core c
    let step := xtstStep c l a t e.reg.toNat (k.gr l).toNat (k.gr a.reg.toNat).toNat (k.gr t.reg.toNat).toNat
    StrReady c 0o146 ob [a, t, e] [l, a.reg.toNat, t.reg.toNat, e.reg.toNat] (now s) ∧
    (ob.toNat % 4 = 0 ∧ okStr a = true ∧ okStr t = true ∧ okReg e = true) ∧
    All c (k.gr l).toNat step (now s) d1 := by
  refine ⟨run [(2, 1), (3, 100), (4, 200)], 0, 8, at' 3 0, at' 4 0, reg 6, _, ⟨ready ?_, ?_, ?_⟩, ?_, all_one ?_ ?_⟩
  all_goals first | decide +kernel | (dsimp only [Ready, Regs]; decide +kernel)

theorem wit_SearchesComplete_3_1 :
  ∃ (s : State) (c : CoreId) (ob : BitVec 6) (a t e : Spec) (d1 : Dev),
    let l := ob.toNat / 4
    let k := (now s).core c
    let step := xtstStep c l a t e.reg.toNat (k.gr l).toNat (k.gr a.reg.toNat).toNat (k.gr t.reg.toNat).toNat
  ∃ j,
    StrReady c 0o146 ob [a, t, e] [l, a.reg.toNat, t.reg.toNat, e.reg.toNat] (now s) ∧
    (ob.toNat % 4 = 0 ∧ okStr a = true ∧ okStr t = true ∧ okReg e = true) ∧
    StopsAt c (k.gr l).toNat j step (now s) d1 := by
  refine ⟨holding 200 [0o777777777777] (run [(2, 1), (3, 100), (4, 200)]), 0, 8, at' 3 0, at' 4 0, reg 6, _, 0, ⟨ready ?_, ?_, ?_⟩, ?_, stops_first ?_ ?_⟩
  all_goals first | decide +kernel | (dsimp only [Ready, Regs]; decide +kernel)

theorem wit_SearchesComplete_4 :
  ∃ (s : State) (c : CoreId) (ob : BitVec 6) (e t : Spec) (d1 : Dev),
    let l := ob.toNat / 4
    let k := (now s).core c
    StrReady c 0o145 ob [e, t] [l, e.reg.toNat, t.reg.toNat] (now s) ∧
    (ob.toNat % 4 = 0 ∧ okStr e = true ∧ okStr t = true) ∧
    All c (k.gr l).toNat (xlatStep c l e t (k.gr l).toNat (k.gr e.reg.toNat).toNat (k.gr t.reg.toNat).toNat) (now s) d1 := by
  refine ⟨holding 200 [0o777777777777] (run [(2, 1), (3, 100), (4, 200)]), 0, 8, at' 3 0, at' 4 0, _, ⟨ready ?_, ?_, ?_⟩, ?_, all_one ?_ ?_⟩
  all_goals first | decide +kernel | (dsimp only [Ready, Regs]; decide +kernel)

theorem wit_EditsComplete_0 :
  ∃ (s : State) (c : CoreId) (ob : BitVec 6) (p a e g : Spec) (m : Option Spec) (fill : Nat) (pat : List EditCell) (pl : List PLoc) (src : List Cell) (al : MemLoc) (ls : List MemLoc) (mag : Nat) (neg : Bool) (d1 d2 d3 d4 : Dev),
    let op := if m = none then 0o151 else 0o152
    let k := (now s).core c
    let off (x : Spec) := (k.gr x.reg.toNat).toNat
    let l := ob.toNat / 4
    let gl := (k.gr l).toNat
    let f : EditForm := { l := l, p := p, a := a, d := e, gs := g.reg.toNat, gm := m.map (·.reg.toNat), zone := if ob.toNat % 4 = 0 then 3 else 15, op := op }
    let nd := (pat.filter editDigit).length
    let dst := joinLocs ls
    let pa := pl.map (·.addr)
    let aa := al.cells.map (·.addr)
    let da := dst.cells.map (·.addr)
    let ds := (nibbles src).dropLast
    let r : EditRun := { fill := fill, pat := pat, ds := ds, neg := neg, nd := nd, dst := dst, dig := editDigest (firstAddr pl) (firstAddr al.cells) (firstAddr dst.cells) gl }
    let (bs, q) := editPass f.zone (fill % 256) neg ds pat.length pat { k := 1, i := 1 - nd % 2 }
    let sf := if nd % 2 = 0 ∧ ds.headD 0 ≠ 0 then 128 else 0
    let d5 := d4.updCore c fun k => k.setG g.reg.toNat (BitVec.ofNat 36 (flagNat q.s))
    let d6 := match m, q.first with
      | some x, some j => d5.updCore c fun k => k.setG x.reg.toNat (BitVec.ofNat 36 (((d5.core c).gr e.reg.toNat).toNat + j))
      | _, _ => d5
    StrReady c op ob ([p, a, e, g] ++ m.toList) ([l, p.reg.toNat, a.reg.toNat, e.reg.toNat, g.reg.toNat] ++ m.toList.map (·.reg.toNat)) (now s) ∧
    (ob.toNat % 4 ≤ 1 ∧ okStr p = true ∧ okStr a = true ∧ okStr e = true ∧ okReg g = true ∧ (∀ x, m = some x → okReg x = true)) ∧
    (gl ≠ 0 ∧ gl ≤ 512 ∧ nd ≤ 127) ∧
    (now s).pointDue c = false ∧
    d3.pointDue c = false ∧
    Gives (readPattern c p true gl (off p)) (now s) (fill, pat, pl) d1 ∧
    Gives (readEach c 2 a (off a) (nd / 2 + 1)) d1 (src, al) d2 ∧
    Gives (eachAccess c 3 e.seg.toNat .write (off e) gl) d2 ls d3 ∧
    ((∀ x ∈ aa, x ∉ pa ∧ x ∉ da) ∧ (pa = da ∨ ∀ x ∈ pa, x ∉ da)) ∧
    packedVal src = some (mag, neg) ∧
    Gives (editWrite c f r 0 (fill % 256 :: bs) q.first) d3 () d4 ∧
    NoTrap c sf d6 := by
  refine ⟨holding 0 [64 * 2 ^ 27 + 256 * 2 ^ 18 + 256 * 2 ^ 9] (holding 100 [0x01 * 2 ^ 27 + 0x2C * 2 ^ 18] (run [(2, 3), (3, 0), (4, 100), (5, 200)])), 0, 8, at' 3 0, at' 4 0, at' 5 0, reg 6, some (reg 7), _, _, _, _, _, _, 12, false, _, _, _, _, ⟨ready ?_, ?_, ?_⟩, ?_, ?_, ?_, ?_, gives₃ ?_, gives₂ ?_, gives' ?_, ?_, ?_, gives₀ ?_, noTrap ?_⟩
  all_goals try first | decide +kernel | ((try unfold Gives); dsimp only [Ready, Regs, NoTrap]; decide +kernel)
  all_goals first | decide +kernel | ((try unfold Gives); dsimp only [Ready, Regs, NoTrap]; decide +kernel)

theorem wit_CodeWindowsComplete_0_0 :
  ∃ (s : State) (c : CoreId) (ob : BitVec 6) (a e : Spec) (d1 : Dev),
    let l := ob.toNat / 4
    let k := (now s).core c
    let gl := (k.gr l).toNat
    let ga := (k.gr a.reg.toNat).toNat
    let ge := (k.gr e.reg.toNat).toNat
    ob.toNat % 4 = 0 ∧
    okStr a = true ∧
    okStr e = true ∧
    Regs c [l, a.reg.toNat, e.reg.toNat] (now s) ∧
    Ready { c := c, op := 0o032, ob := ob.toNat, specs := [a, e] } (now s) ∧
    All c gl (cwrStep c l a e gl ga ge) (now s) d1 := by
  refine ⟨window (run [(2, 1), (3, 100), (4, 200)]), 0, 8, at' 3 0, at' 4 1, _, ?_, ?_, ?_, ?_, ready ?_, all_one ?_ ?_⟩
  all_goals first | decide +kernel | (dsimp only [Ready, Regs]; decide +kernel)

theorem wit_CodeWindowsComplete_0_1 :
  ∃ (s : State) (c : CoreId) (ob : BitVec 6) (a e : Spec) (d1 : Dev),
    let l := ob.toNat / 4
    let k := (now s).core c
    let gl := (k.gr l).toNat
    let ga := (k.gr a.reg.toNat).toNat
    let ge := (k.gr e.reg.toNat).toNat
    ob.toNat % 4 = 0 ∧
    okStr a = true ∧
    okStr e = true ∧
    Regs c [l, a.reg.toNat, e.reg.toNat] (now s) ∧
    Ready { c := c, op := 0o033, ob := ob.toNat, specs := [a, e] } (now s) ∧
    All c gl (crdStep c l a e gl ga ge) (now s) d1 := by
  refine ⟨window (run [(2, 1), (3, 100), (4, 200)]), 0, 8, at' 3 1, at' 4 0, _, ?_, ?_, ?_, ?_, ready ?_, all_one ?_ ?_⟩
  all_goals first | decide +kernel | (dsimp only [Ready, Regs]; decide +kernel)

theorem wit_PostingsComplete_0 :
  ∃ (bin : Bool) (s : State) (c : CoreId) (ob : BitVec 6) (a e : Spec) (x : List Cell) (u : AMap Word) (d1 d2 : Dev),
    let n := postCells (ob.toNat / 16)
    let i : Ins := { c := c, op := if bin then 0o244 else 0o240, ob := ob.toNat, specs := [a, e] }
    Ready i (now s) ∧
    (if bin then 2 ≤ ob.toNat / 16 ∧ okIntSrc n a = true else ob.toNat / 16 ≤ 1 ∧ okMem a = true) ∧
    okMem e = true ∧
    ob.toNat % 16 ∉ updRegs [a, e] ∧
    Regs c [ob.toNat % 16] (now s) ∧
    Gives (srcCells c 1 n a []) (now s) (x, u) d1 ∧
    PostEnds c (if bin then 4 else 0) ob e 2 x [] none u d1 d2 := by
  first
    | (refine ⟨false, run [(2, 100), (3, 200)], 0, 4, at' 2 0, at' 3 0, _, _, _, _, ready ?_, ?_, ?_, ?_, ?_, gives₂ ?_, postEnds ?_ ?_ ?_ (mayPost ?_ ?_ ?_)⟩ <;> (first | decide +kernel | ((try unfold Gives); dsimp only [Ready, Regs]; decide +kernel)))
    | (refine ⟨true, run [(2, 100), (3, 200)], 0, 0o44, imm 3, at' 3 0, _, _, _, _, ready ?_, ?_, ?_, ?_, ?_, gives₂ ?_, postEnds ?_ ?_ ?_ (mayPost ?_ ?_ ?_)⟩ <;> (first | decide +kernel | ((try unfold Gives); dsimp only [Ready, Regs]; decide +kernel)))

theorem wit_PostingsComplete_1 :
  ∃ (s : State) (c : CoreId) (ob : BitVec 6) (a f e : Spec) (x y : List Cell) (u v : AMap Word) (d1 d2 d3 : Dev),
    let n := postCells (ob.toNat / 16)
    let i : Ins := { c := c, op := 0o241, ob := ob.toNat, specs := [a, f, e] }
    Ready i (now s) ∧
    (ob.toNat / 16 ≤ 1 ∧ okMem a = true ∧ okMem f = true ∧ okMem e = true) ∧
    ob.toNat % 16 ∉ updRegs [a, f, e] ∧
    Regs c [ob.toNat % 16] (now s) ∧
    Gives (srcCells c 1 n a []) (now s) (x, u) d1 ∧
    Gives (srcCells c 2 n f u) d1 (y, v) d2 ∧
    PostEnds c 1 ob e 3 x y none v d2 d3 := by
  refine ⟨run [(2, 100), (3, 200)], 0, 4, at' 2 0, at' 2 0, at' 3 0, _, _, _, _, _, _, _, ready ?_, ?_, ?_, ?_, gives₂ ?_, gives₂ ?_, postEnds ?_ ?_ ?_ (mayPost ?_ ?_ ?_)⟩
  all_goals first | decide +kernel | ((try unfold Gives); dsimp only [Ready, Regs]; decide +kernel)

theorem wit_PostingsComplete_2 :
  ∃ (s : State) (c : CoreId) (ob : BitVec 6) (r e : Spec) (d1 : Dev),
    let i : Ins := { c := c, op := 0o242, ob := ob.toNat, specs := [r, e] }
    Ready i (now s) ∧
    (ob.toNat / 16 = 2 ∧ okReg r = true ∧ okMem e = true ∧ r.reg.toNat ≠ ob.toNat % 16) ∧
    ob.toNat % 16 ∉ updRegs [e] ∧
    r.reg.toNat ∉ updRegs [e] ∧
    Regs c [ob.toNat % 16, r.reg.toNat] (now s) ∧
    PostEnds c 2 ob e 2 (wordCells (((now s).core c).gr r.reg.toNat)) [] (some r.reg.toNat) [] (now s) d1 := by
  refine ⟨run [(2, 100), (3, 200)], 0, 0o44, reg 5, at' 3 0, _, ready ?_, ?_, ?_, ?_, ?_, postEnds ?_ ?_ ?_ (mayPost ?_ ?_ ?_)⟩
  all_goals first | decide +kernel | (dsimp only [Ready, Regs]; decide +kernel)

theorem wit_PostingsComplete_3 :
  ∃ (s : State) (c : CoreId) (ob : BitVec 6) (r n e : Spec) (x : List Cell) (u : AMap Word) (d1 d2 : Dev),
    let i : Ins := { c := c, op := 0o243, ob := ob.toNat, specs := [r, n, e] }
    Ready i (now s) ∧
    (ob.toNat / 16 = 2 ∧ okReg r = true ∧ okIntSrc 4 n = true ∧ okMem e = true ∧ r.reg.toNat ≠ ob.toNat % 16) ∧
    ob.toNat % 16 ∉ updRegs [n, e] ∧
    r.reg.toNat ∉ updRegs [n, e] ∧
    Regs c [ob.toNat % 16, r.reg.toNat] (now s) ∧
    Gives (srcCells c 2 4 n []) (now s) (x, u) d1 ∧
    PostEnds c 3 ob e 3 x (wordCells (((now s).core c).gr r.reg.toNat)) (some r.reg.toNat) u d1 d2 := by
  refine ⟨run [(2, 100), (3, 200)], 0, 0o44, reg 5, reg 6, at' 3 0, _, _, _, _, ready ?_, ?_, ?_, ?_, ?_, gives₂ ?_, postEnds ?_ ?_ ?_ (mayPost ?_ ?_ ?_)⟩
  all_goals first | decide +kernel | ((try unfold Gives); dsimp only [Ready, Regs]; decide +kernel)

theorem wit_LocksAndStatusesComplete_0 :
  ∃ (s : State) (c : CoreId) (a e : Spec) (loc : MemLoc) (rep : Rep) (upd : AMap Word) (d1 d2 d3 : Dev),
    let i : Ins := { c := c, op := 0o245, ob := 0, specs := [a, e] }
    Ready i (now s) ∧
    (okMem a = true ∧ okReg e = true) ∧
    Regs c [e.reg.toNat] (now s) ∧
    Gives (memOpd c 1 4 .lock a []) (now s) (loc, rep, upd) d1 ∧
    Gives (commitUpd c upd) d1 () d2 ∧
    d2.lockable loc = true ∧
    MayPost c loc d2 d3 := by
  refine ⟨run [(2, 100), (3, 200)], 0, at' 2 0, reg 6, _, _, _, _, _, _, ready ?_, ?_, ?_, gives₃ ?_, gives₀ ?_, ?_, mayPost ?_ ?_ ?_⟩
  all_goals first | decide +kernel | ((try unfold Gives); dsimp only [Ready, Regs]; decide +kernel)

theorem wit_LocksAndStatusesComplete_1 :
  ∃ (s : State) (c : CoreId) (a : Spec) (loc : MemLoc) (rep : Rep) (upd : AMap Word) (d1 d2 d3 d4 : Dev),
    let i : Ins := { c := c, op := 0o246, ob := 0, specs := [a] }
    Ready i (now s) ∧
    okMem a = true ∧
    Gives (storesVisible c) (now s) () d1 ∧
    ((d1.core c).posts.all fun p => d1.postAccepted p) = true ∧
    Gives (memOpd c 1 4 .lock a []) d1 (loc, rep, upd) d2 ∧
    Gives (commitUpd c upd) d2 () d3 ∧
    d3.lockable loc = true ∧
    MayPost c loc d3 d4 := by
  refine ⟨run [(2, 100), (3, 200)], 0, at' 2 0, _, _, _, _, _, _, _, ready ?_, ?_, gives₀ ?_, ?_, gives₃ ?_, gives₀ ?_, ?_, mayPost ?_ ?_ ?_⟩
  all_goals first | decide +kernel | ((try unfold Gives); dsimp only [Ready]; decide +kernel)

theorem wit_LocksAndStatusesComplete_2 :
  ∃ (s : State) (c : CoreId) (a : Ack) (p : CorePost),
    (s.dev.ackNet.find? fun x => x.who == .core c) = some a ∧
    ((s.dev.core c).posts.find? fun x => x.id == a.id) = some p ∧
    p.slot = none ∧
    p.lockGc = none := by
  refine ⟨onD (fun d => { d with ackNet := [{ id := 3, who := .core 0, status := 0, old := [], seq := none }] }) (core0 (fun k => { k with posts := [{ id := 3, slot := none, bank := 0, gs := some 4, gr := none, first := 0, n := 4 }] }) (run [])), 0, _, _, rfl, rfl, ?_, ?_⟩
  all_goals decide +kernel

theorem wit_PostingsAreServed_0 :
  ∃ (s : State) (p : PuId) (q : Posting),
    s.dev.active = true ∧
    (s.dev.pus.getD' p {}).queue.length < 64 ∧
    (s.dev.postNet.find? fun q => s.dev.servingPu (puOf q.loc.addr q.loc.pol) == some p.val) = some q := by
  refine ⟨onD (fun d => { d with postNet := [posting] }) (run []), 0, posting, ?_, ?_, ?_⟩
  all_goals decide +kernel

theorem wit_PostingsAreServed_1 :
  ∃ (s : State) (p : PuId) (h : Posting) (t : List Posting) (d1 : Dev) (as : List Applied),
    let u := s.dev.pus.getD' p {}
    let same (q : Posting) : Bool := q.loc.key / 128 == h.loc.key / 128
    let group := (u.queue.filter same).takeWhile fun q => !(now s).olderElsewhere q
    s.dev.active = true ∧
    u.queue = h :: t ∧
    s.dev.puFenced p = false ∧
    s.dev.puStopped p = false ∧
    s.dev.heldFrame h.loc = false ∧
    group ≠ [] ∧
    (∀ q, (now s).moveTwin h.loc = some q → q.isLocal = true) ∧
    (group.any (·.jr) = true → s.dev.journalReady = true) ∧
    ((now s).lineRead h.loc).applyPosts p group = (d1, as) := by
  refine ⟨onD (fun d => { d with pus := [(0, { queue := [posting] })] }) (run []), 0, posting, [], _, _, ?_, ?_, ?_, ?_, ?_, ?_, (by intro q h; cases h), ?_, split₂ _⟩
  all_goals decide +kernel

theorem wit_PostingsAreServed_2 :
  ∃ (d : Dev) (p : Nat),
    let l := (d.pus.getD' p {}).applied
    (∀ a ∈ l, a.seq = none → ∃ c, a.p.who = .core c) := by
  exact ⟨{ (run []).dev with pus := [(0, { applied := [{ p := posting, status := 0, old := [], seq := none }] })] }, 0, (by intro _ a h _; rcases List.mem_singleton.mp h with rfl; exact ⟨0, rfl⟩)⟩

theorem wit_PostingsAreServed_3 :
  ∃ (s : State) (p : PuId) (a : Applied) (t : List Applied) (c : Nat),
    s.dev.active = true ∧
    s.dev.puStopped p = false ∧
    (s.dev.pus.getD' p {}).applied = a :: t ∧
    s.dev.mayAck a = true ∧
    a.p.who = .core c := by
  refine ⟨onD (fun d => { d with pus := [(0, { applied := [{ p := posting, status := 0, old := [], seq := none }] })] }) (run []), 0, _, _, 0, ?_, ?_, rfl, ?_, ?_⟩
  all_goals decide +kernel

theorem wit_PostingsAreServed_4_0 :
  ∃ (s : State) (i : IslandId) (p : Posting) (t : List Posting) (d1 : Dev) (a : Applied) (c : Nat),
    let x := s.dev.isl i
    s.dev.active = true ∧
    s.dev.islandDown i = false ∧
    x.atomDone = [] ∧
    x.atomics = p :: t ∧
    p.who = .core c ∧
    (p.locs.any fun q => s.dev.bankHeld q.addr) = false ∧
    (now s).applyPost p (256 + i.val) = (d1, a) ∧
    p.jr = false := by
  refine ⟨onD (fun d => d.updIsl 0 fun x => { x with atomics := [posting] }) (run []), 0, posting, _, _, _, 0, ?_, ?_, ?_, rfl, ?_, ?_, split₂ _, ?_⟩
  all_goals decide +kernel

theorem wit_PostingsAreServed_4_1 :
  ∃ (s : State) (i : IslandId) (p : Posting) (t : List Posting) (d1 : Dev) (a : Applied) (c : Nat),
    let x := s.dev.isl i
    s.dev.active = true ∧
    s.dev.islandDown i = false ∧
    x.atomDone = [] ∧
    x.atomics = p :: t ∧
    p.who = .core c ∧
    (p.locs.any fun q => s.dev.bankHeld q.addr) = false ∧
    (now s).applyPost p (256 + i.val) = (d1, a) ∧
    p.jr = true ∧
    s.dev.journalReady = true ∧
    s.dev.isStandby = false := by
  refine ⟨onD (fun d => d.updIsl 0 fun x => { x with atomics := [{ posting with jr := true }] }) (regAt offSNJRNL (2 ^ 63) (run [])), 0, _, _, _, _, 0, ?_, ?_, ?_, rfl, ?_, ?_, split₂ _, ?_, ?_, ?_⟩
  all_goals decide +kernel

theorem wit_EventsReachCores_0_0 :
  ∃ (s : State) (c : CoreId) (r : Nat × IrqReq),
    (s.dev.irqNet.find? fun x => x.1 == c.val) = some r ∧
    (s.dev.core c).accepts r.2.level = true := by
  refine ⟨onD (fun d => { d with irqNet := [(0, request)] }) (core0 (fun k => { k with idle := true }) (run [])), 0, (0, request), ?_, ?_⟩
  all_goals decide +kernel

theorem wit_EventsReachCores_0_1 :
  ∃ (s : State) (c : CoreId) (r : Nat × IrqReq),
    (s.dev.irqNet.find? fun x => x.1 == c.val) = some r := by
  refine ⟨onD (fun d => { d with irqNet := [(0, request)] }) (run []), 0, (0, request), ?_⟩
  all_goals decide +kernel

theorem wit_EventsReachCores_1 :
  ∃ (s : State) (c : CoreId) (n : SlotId) (ev : Fin 5) (seqno : Nat),
    s.dev.active = true := by
  first
    | (refine ⟨core0 (fun k => k.setSlot 3 { valid := true, world := true, st := .blocked, evmask := 31 }) (run []), 0, 3, 2, 9, ?_⟩ <;> (decide +kernel))
    | (refine ⟨core0 (fun k => k.setSlot 3 { valid := true, world := true, st := .blocked, evmask := 31 }) (run []), 0, 4, 2, 9, ?_⟩ <;> (decide +kernel))
    | (refine ⟨core0 (fun k => k.setSlot 3 { valid := true, world := true, st := .blocked, evmask := 31 }) (run []), 0, 0, 2, 9, ?_⟩ <;> (decide +kernel))

theorem wit_EventsReachCores_2 :
  ∃ (s : State) (c : CoreId) (g : Signal),
    let d0 : Dev := { now s with sigNet := s.dev.sigNet.erase g }
    let fwd := (s.dev.core c).fwd.find? fun f => f.slot == g.slot && decide (s.fum.time ≤ f.time + s.dev.fwdTime)
    (s.dev.sigNet.find? fun x => x.core == c.val) = some g := by
  exact ⟨onD (fun d => { d with sigNet := [{ core := 0, slot := 0, fromCustody := false }] }) (run []), 0, _, rfl⟩

theorem wit_CoresTakeEvents_0 :
  ∃ (s : State) (c : CoreId) (o p : Overflow) (d1 : Dev),
    let k := s.dev.core c
    let x := k.slot o.slot
    (now s).atPoint c = true ∧
    k.entry = none ∧
    k.fresh = false ∧
    k.ovf = some o ∧
    k.accepts 6 = true ∧
    x.valid = true ∧
    x.st = .ready ∧
    x.res = false ∧
    (now s).overflowFor c o.slot x.world = some p ∧
    Enters c (ovfEntry k p) (ovfTook c) (now s) d1 := by
  refine ⟨handler 24 6 (regAt (offSCHEDCFG 0) (2 ^ 33) (core0 (fun k => { (k.setSlot 0 { readySlot with res := false }) with ovf := some { slot := 0, vict := 1, bank := 2, spill := true } }) (run [(15, 2000)]))), 0, _, _, _, ?_, ?_, ?_, rfl, ?_, ?_, ?_, ?_, rfl, enters ?_⟩
  all_goals decide +kernel

theorem wit_CoresTakeEvents_1 :
  ∃ (s : State) (c : CoreId) (r : IrqReq) (d1 : Dev),
    let k := s.dev.core c
    let d0 := if k.accepts 6 then ovfTook c (now s) else now s
    (now s).atPoint c = true ∧
    k.entry = none ∧
    k.fresh = false ∧
    NoOvf c (now s) ∧
    Best k r ∧
    Enters c (irqEntry k r) (irqTook c r) d0 d1 := by
  refine ⟨handler 70 0 (core0 (fun k => { k with reqs := [request] }) (run [(15, 2000)])), 0, request, _, ?_, ?_, ?_, (by intro o h; cases h), ?_, enters ?_⟩
  all_goals first | decide +kernel | (dsimp only [Best]; decide +kernel)

theorem wit_CoresTakeEvents_2_0 :
  ∃ (s : State) (c : CoreId) (v : Delivery) (d1 : Dev),
    let k := s.dev.core c
  ∃ l r,
    (now s).atPoint c = true ∧
    k.entry = some v ∧
    v.level = some l ∧
    NoOvf c (now s) ∧
    Best k r ∧
    l < r.level ∧
    Enters c (irqEntry k r) (irqTook c r) (now s) d1 := by
  refine ⟨handler 70 0 (core0 (fun k => { k with reqs := [request], entry := some irq2 }) (run [(15, 2000)])), 0, irq2, _, 2, request, ?_, ?_, ?_, (by intro o h; cases h), ?_, ?_, enters ?_⟩
  all_goals first | decide +kernel | (dsimp only [Best]; decide +kernel)

theorem wit_CoresTakeEvents_2_1 :
  ∃ (s : State) (c : CoreId) (v : Delivery) (d1 : Dev),
    let k := s.dev.core c
    (now s).atPoint c = true ∧
    k.entry = some v ∧
    v.level = none ∧
    v.irq = false ∧
    v.vec ≠ 24 ∧
    Enters c v id (now s) d1 := by
  refine ⟨handler 2 3 (core0 (fun k => { k with entry := some trap2 }) (run [(15, 2000)])), 0, trap2, _, ?_, ?_, ?_, ?_, ?_, enters ?_⟩
  all_goals decide +kernel

theorem wit_CoresTakeEvents_3 :
  ∃ (s : State) (c : CoreId),
    (s.dev.core c).entry = none ∧
    (s.dev.core c).fresh = true := by
  refine ⟨core0 (fun k => { k with fresh := true }) (run []), 0, ?_, ?_⟩
  all_goals decide +kernel

theorem wit_CoresTakeEvents_4 :
  ∃ (s : State) (c : CoreId) (r n : Nat) (x : Slot),
    let k := s.dev.core c
    k.runSlot = some r ∧
    (now s).runs c = true ∧
    (now s).atPoint c = true ∧
    k.plev = 0 ∧
    k.eventDue = false ∧
    k.micro = none ∧
    s.dev.preemptOn c = true ∧
    (n, x) ∈ k.ready ∧
    k.slot n = x ∧
    x.res = true ∧
    (k.slot r).prio.toNat < x.prio.toNat ∧
    (∀ y ∈ k.ready, y ≠ (n, x) → slotBefore k.det (n, x) y = true ∧ slotBefore k.det y (n, x) = false) := by
  refine ⟨regAt (offSCHEDCFG 0) (2 ^ 16) (core0 (fun k => { (k.setSlot 1 readySlot) with runSlot := some 0 }) (run [])), 0, 0, 1, readySlot, ?_, ?_, ?_, ?_, ?_, ?_, ?_, ?_, ?_, ?_, ?_, ?_⟩
  all_goals decide +kernel

theorem wit_CoresTakeEvents_5 :
  ∃ (s : State) (c : CoreId),
    let k := s.dev.core c
    k.detWait = true ∧
    k.beside = [] ∧
    k.sbuf = [] := by
  refine ⟨core0 (fun k => { k with detWait := true }) (run []), 0, ?_, ?_, ?_⟩
  all_goals decide +kernel

theorem wit_BuffersDrain_0 :
  ∃ (s : State) (c : CoreId) (e : SbEntry) (t : List SbEntry),
    let d := now s
    let mine := d.region (e.block * 16) = .localMem ∨ ∃ i, d.region (e.block * 16) = .bank i
    d.active = true ∧
    (d.core c).sbuf = e :: t ∧
    (mine → (e.cells.any (·.2.jr) = true → d.journalReady = true) ∧ d.postQueued (e.cells.map fun p => { addr := e.block * 16 + p.1, pol := e.pol, se := e.se }) = false) := by
  refine ⟨core0 (fun k => { k with sbuf := [{ block := 6, pol := 0, se := false, cells := [(1, { v := 5 }), (2, { v := 7 })] }] }) (run []), 0, _, _, ?_, rfl, fun _ => ⟨by decide +kernel, by decide +kernel⟩⟩
  all_goals decide +kernel

theorem wit_BuffersDrain_1_0 :
  ∃ (d : Dev) (c : Nat) (e : SbEntry) (j : Nat) (x : SbCell) (q : AMap SbCell),
    let run := ((j, x) :: q).map fun p => (({ addr := e.block * 16 + p.1, pol := e.pol, se := e.se } : PLoc), p.2.v)
    (d.region (e.block * 16 + j) = .localMem ∨ (∃ i, d.region (e.block * 16 + j) = .bank i)) := by
  refine ⟨(run []).dev, 0, { block := 6, pol := 0, se := false, cells := [(1, { v := 5 })] }, 1, { v := 5 }, [], Or.inl ?_⟩
  all_goals decide +kernel

theorem wit_BuffersDrain_1_1 :
  ∃ (d : Dev) (c : Nat) (e : SbEntry) (j : Nat) (x : SbCell) (q : AMap SbCell),
    let run := ((j, x) :: q).map fun p => (({ addr := e.block * 16 + p.1, pol := e.pol, se := e.se } : PLoc), p.2.v)
    d.region (e.block * 16 + j) = .host ∧
    d.hostReady = true := by
  refine ⟨{ (run []).dev with pf0 := { busMaster := true } }, 0, { block := hostWinBase / 16, pol := 0, se := false, cells := [(1, { v := 5 })] }, 1, { v := 5 }, [], ?_, ?_⟩
  all_goals decide +kernel

theorem wit_BuffersDrain_2 :
  ∃ (s : State) (c : CoreId) (b : Beside) (t : List Beside) (d1 : Dev),
    let d := now s
    d.active = true ∧
    (d.core c).checkstop = false ∧
    (d.core c).started = true ∧
    (d.core c).beside = b :: t ∧
    Gives (applyWrs c b.writes) (d.updCore c fun k => { k with beside := t }) () d1 ∧
    trapOf b.te.toNat b.sf.toNat = none := by
  refine ⟨core0 (fun k => { k with beside := [{ pc := 7, writes := [.g 0 4 9], sf := 3, te := 0 }] }) (run []), 0, _, _, _, ?_, ?_, ?_, rfl, gives₀ ?_, ?_⟩
  all_goals first | decide +kernel | (unfold Gives; decide +kernel)

theorem wit_TranslationsAreCachedAndDropped_0 :
  ∃ (s : State) (c : CoreId) (w : Bool) (l : BitVec 31) (demand : Bool) (d1 : Dev) (r : Except TrFault Tlb),
    let q : TrReq := { world := w, code := true, sup := (s.dev.core c).sup, page := 64 * l.toNat / 4096, acc := .fetch, spec := !demand }
    s.dev.active = true ∧
    (s.dev.core c).started = true ∧
    s.dev.lostCore c .lineBuffer < 8 ∧
    (∀ b ∈ (s.dev.core c).lbuf, b.world = w → b.line ≠ l.toNat) ∧
    (now s).translate (c.val / 8) none q = (d1, r) := by
  refine ⟨onD (fun d => d.updIsl 0 fun x => { x with tlb := [page0 true true 1] }) (run []), 0, true, 0, true, _, _, ?_, ?_, ?_, ?_, split₂ _⟩
  all_goals decide +kernel

theorem wit_TranslationsAreCachedAndDropped_1 :
  ∃ (s : State) (i : IslandId) (q : WalkReq) (d1 : Dev) (r : Except TrFault Tlb),
    let c := 8 * i.val + q.core.val
    let t : TrReq := { world := q.world, code := accCode q.acc, sup := q.sup, page := q.page.toNat, acc := q.acc, segKey := q.segKey.toNat, pkr := ((s.dev.core c).wr q.world).pkr.toNat, spec := q.speculative }
    s.dev.active = true ∧
    s.dev.islandDown i = false ∧
    (now s).walk i t = (d1, r) := by
  refine ⟨run [], 0, { core := 0, world := true, sup := true, page := 3, acc := .read, segKey := 0, speculative := false }, _, _, ?_, ?_, split₂ _⟩
  all_goals decide +kernel

theorem wit_TranslationsAreCachedAndDropped_2 :
  ∃ (s : State) (i : IslandId) (v : Inval) (t : List Inval),
    let x := s.dev.isl i
    let x' : Island := { x with tlb := x.tlb.filter (!v.hits ·), wc := x.wc.filter (!v.hitsWalk ·), inv := t }
    let drop (k : Core) : Core := { k with dtlb := k.dtlb.filter (!v.hits ·), lbuf := k.lbuf.filter fun b => b.world != v.world }
    (s.dev.isl i).inv = v :: t := by
  exact ⟨onD (fun d => d.updIsl 0 fun x => { x with inv := [{ core := none, kind := 1, world := true, space := 1, s2 := false, key := 0, page := 0 }] }) (run []), 0, _, _, rfl⟩

theorem wit_TranslationsAreCachedAndDropped_4 :
  ∃ (s : State) (v : View) (x : Reg),
    ByCustody v offEPOCHAGE s := by
  refine ⟨run [], .pf1, 3, ?_⟩
  all_goals first | decide +kernel | (dsimp only [ByCustody, Calm]; decide +kernel)

theorem wit_BanksAndLinesAreKept_0_0 :
  ∃ (s : State) (p : PuId) (n l : Nat) (x : Upset),
    let a := s.dev.phys (128 * l)
    s.dev.active = true ∧
    s.dev.lineAt p n = some l ∧
    s.dev.bit (offMCSCRUB (p.val / 32)) 32 = true ∧
    a.addr < s.dev.localTop ∧
    s.dev.postQueued [a] = false ∧
    x = .uncorrectable := by
  refine ⟨regAt (offMCSCRUB 0) (2 ^ 32) (run []), 0, 0, 0, .uncorrectable, ?_, ?_, ?_, ?_, ?_, ?_⟩
  all_goals decide +kernel

theorem wit_BanksAndLinesAreKept_0_1 :
  ∃ (s : State) (p : PuId) (n l : Nat) (x : Upset),
    let a := s.dev.phys (128 * l)
    s.dev.active = true ∧
    s.dev.lineAt p n = some l ∧
    s.dev.bit (offMCSCRUB (p.val / 32)) 32 = true ∧
    a.addr < s.dev.localTop ∧
    s.dev.postQueued [a] = false ∧
    x ≠ .uncorrectable := by
  refine ⟨regAt (offMCSCRUB 0) (2 ^ 32) (run []), 0, 0, 0, .correctable, ?_, ?_, ?_, ?_, ?_, ?_⟩
  all_goals decide +kernel

theorem wit_BanksAndLinesAreKept_0_2 :
  ∃ (s : State) (p : PuId) (n l : Nat) (x : Upset),
    let a := s.dev.phys (128 * l)
    s.dev.active = true ∧
    s.dev.lineAt p n = some l ∧
    s.dev.bit (offMCSCRUB (p.val / 32)) 32 = true ∧
    a.addr < s.dev.localTop ∧
    s.dev.postQueued [a] = false := by
  refine ⟨regAt (offMCSCRUB 0) (2 ^ 32) (run []), 0, 0, 0, .correctable, ?_, ?_, ?_, ?_, ?_⟩
  all_goals decide +kernel

theorem wit_BanksAndLinesAreKept_2 :
  ∃ (s : State) (v : View) (i : IslandId) (b : BankId) (o : BitVec 3),
    ByCustody v (offBANKOWN i b) s := by
  first
    | (refine ⟨run [], .cwin, 3, 5, 4, ?_⟩ <;> (first | decide +kernel | (dsimp only [ByCustody, Calm]; decide +kernel)))
    | (refine ⟨run [], .cwin, 3, 5, 7, ?_⟩ <;> (first | decide +kernel | (dsimp only [ByCustody, Calm]; decide +kernel)))

theorem wit_BanksAndLinesAreKept_3_0 :
  ∃ (s : State) (i : IslandId) (b : BankId) (h : Handover),
    ((s.dev.isl i).hand.find? fun x => x.bank == b.val) = some h ∧
    s.dev.bankWritesLeft i b = false ∧
    b.val ∉ (s.dev.isl i).heldBanks ∧
    h.owner = 4 ∧
    s.dev.fld (offBANKOWN i b) 2 0 ≠ 4 := by
  refine ⟨onD (fun d => d.updIsl 0 fun x => { x with hand := [{ bank := 5, owner := 4 }] }) (run []), 0, 5, { bank := 5, owner := 4 }, ?_, ?_, ?_, ?_, ?_⟩
  all_goals decide +kernel

theorem wit_BanksAndLinesAreKept_3_1 :
  ∃ (s : State) (i : IslandId) (b : BankId) (h : Handover),
    ((s.dev.isl i).hand.find? fun x => x.bank == b.val) = some h ∧
    s.dev.bankWritesLeft i b = false ∧
    b.val ∉ (s.dev.isl i).heldBanks := by
  refine ⟨onD (fun d => d.updIsl 0 fun x => { x with hand := [{ bank := 5, owner := 2 }] }) (run []), 0, 5, { bank := 5, owner := 2 }, ?_, ?_, ?_⟩
  all_goals decide +kernel

theorem wit_BanksAndLinesAreKept_4_0 :
  ∃ (s : State) (v : View) (i : IslandId) (b : BankId) (o : BitVec 3),
  ∃ c : Nat,
    ByCustody v (offBANKOWN i b) s ∧
    o ≠ 7 ∧
    ¬ (o = 1 ∧ s.dev.bit (offBANKOWN i b) 6 = true) := by
  refine ⟨run [], .cwin, 0, 5, 2, 0, ?_, ?_, ?_⟩
  all_goals first | decide +kernel | (dsimp only [ByCustody, Calm]; decide +kernel)

theorem wit_BanksAndLinesAreKept_4_1 :
  ∃ (s : State) (v : View) (i : IslandId) (b : BankId) (o : BitVec 3),
    ByCustody v (offBANKOWN i b) s ∧
    o ≠ 7 := by
  refine ⟨run [], .cwin, 0, 5, 2, ?_, ?_⟩
  all_goals first | decide +kernel | (dsimp only [ByCustody, Calm]; decide +kernel)

theorem wit_BanksAndLinesAreKept_5_0 :
  ∃ (s : State) (v : View) (i : IslandId) (b : BankId) (x : Reg),
    let off := offBANKREP i b
    let put (hi lo : Nat) (y : Nat) : Nat := setBits y hi lo (bitsOf x.toNat hi lo)
    let new := put 13 8 (put 15 15 (put 21 16 (put 23 23 (s.dev.rd off))))
    let ok := ((now s).wr off new).repairsOn (i.val / 6) ≤ 16 ∧ bitsOf new 13 8 ≤ 39 ∧ bitsOf new 21 16 ≤ 39
    ByCustody v off s ∧
    ¬ ok := by
  refine ⟨run [], .cwin, 0, 5, 8434688, ?_, ?_⟩
  all_goals first | decide +kernel | (dsimp only [ByCustody, Calm]; decide +kernel)

theorem wit_BanksAndLinesAreKept_5_1 :
  ∃ (s : State) (v : View) (i : IslandId) (b : BankId) (x : Reg),
    let off := offBANKREP i b
    let put (hi lo : Nat) (y : Nat) : Nat := setBits y hi lo (bitsOf x.toNat hi lo)
    let new := put 13 8 (put 15 15 (put 21 16 (put 23 23 (s.dev.rd off))))
    let ok := ((now s).wr off new).repairsOn (i.val / 6) ≤ 16 ∧ bitsOf new 13 8 ≤ 39 ∧ bitsOf new 21 16 ≤ 39
    ByCustody v off s := by
  refine ⟨run [], .cwin, 0, 5, 2 ^ 23 + 7 * 2 ^ 16, ?_⟩
  all_goals first | decide +kernel | (dsimp only [ByCustody, Calm]; decide +kernel)

theorem wit_StreamsAdvance_0 :
  ∃ (s : State) (i : IslandId) (x : Nat) (g : GeyCtx) (loc : MemLoc) (cs : List Cell) (d1 d2 : Dev),
    let rep : Rep := { opnd := 8, seg := g.pseg, off := g.word 1 }
    let d0 := match (s.dev.isl i).running, (s.dev.isl i).order with
      | none, n :: t => (now s).updIsl i fun y => { y with running := some n, order := t, slice := 0, edge := false }
      | _, _ => now s
    (now s).geyLive i = true ∧
    (d0.isl i).running = some x ∧
    d0.ctx i x = some g ∧
    g.ending = none ∧
    g.desc = none ∧
    g.cancel = false ∧
    s.dev.geyStores i = false ∧
    Gives (geyAccess i g .read false rep 128) (d0.updIsl i fun y => { y with edge := false }) loc d1 ∧
    Gives (geyRead i x g true rep loc) d1 cs d2 := by
  refine ⟨stream fun g => { g with st := 2 }, 0, 0, _, _, _, _, _, ?_, ?_, rfl, ?_, ?_, ?_, ?_, gives' ?_, gives' ?_⟩
  all_goals first | decide +kernel | (unfold Gives; decide +kernel)

theorem wit_StreamsAdvance_1 :
  ∃ (s : State) (i : IslandId) (x : Nat) (g : GeyCtx) (w : List Word) (d1 : Dev),
    Streams i x g w 0 (now s) ∧
    Left g w ∧
    ¬ StopWaits g w ∧
    Gives (streamElem i x g w) (now s) () d1 := by
  refine ⟨stream fun g => { g with desc := some copyDesc }, 0, 0, _, copyDesc, _, ⟨?_, ?_, rfl, ?_, ?_, ?_, ?_⟩, ?_, ?_, gives₀ ?_⟩
  all_goals first | decide +kernel | ((try unfold Gives); dsimp only [Streams, Left, StopWaits]; decide +kernel)

theorem wit_StreamsAdvance_2 :
  ∃ (s : State) (i : IslandId) (x : Nat) (g : GeyCtx) (w : List Word) (d1 : Dev),
    Streams i x g w 1 (now s) ∧
    Left g w ∧
    Gives (formRun i x g w) (now s) () d1 := by
  refine ⟨stream fun g => { g with desc := some sortDesc }, 0, 0, _, sortDesc, _, ⟨?_, ?_, rfl, ?_, ?_, ?_, ?_⟩, ?_, gives₀ ?_⟩
  all_goals first | decide +kernel | ((try unfold Gives); dsimp only [Streams, Left]; decide +kernel)

theorem wit_StreamsAdvance_3 :
  ∃ (s : State) (i : IslandId) (x : Nat) (g : GeyCtx) (w : List Word) (d1 : Dev),
    Streams i x g w 2 (now s) ∧
    Left g w ∧
    Merges i x w (2 * dRunl w) (now s) d1 := by
  refine ⟨stream fun g => { g with desc := some mergeDesc }, 0, 0, _, mergeDesc, _, ⟨?_, ?_, rfl, ?_, ?_, ?_, ?_⟩, ?_, Or.inr ⟨_, givesIs _ ?_, Or.inl (givesIs _ ?_)⟩⟩
  all_goals first | decide +kernel | (dsimp only [Streams, Left, Merges]; decide +kernel)

theorem wit_StreamsAdvance_4 :
  ∃ (s : State) (i : IslandId) (x : Nat) (g : GeyCtx) (w : List Word) (d1 d2 : Dev),
    Streams i x g w (dKind w) (now s) ∧
    dKind w ≠ 3 ∧
    ¬ Left g w ∧
    ¬ StopWaits g w ∧
    Reduced i x g w (now s) d1 ∧
    DescEnds i x w d1 d2 := by
  refine ⟨stream fun g => { g with desc := some copyDesc, w := [(2, 3)] }, 0, 0, _, copyDesc, _, _, ⟨?_, ?_, rfl, ?_, ?_, ?_, ?_⟩, ?_, ?_, ?_, Or.inr ⟨?_, _, gives₀ ?_, rfl⟩, ⟨_, (if_neg (by decide)).mpr rfl, rfl⟩⟩
  all_goals first | decide +kernel | (dsimp only [Streams, Left, StopWaits]; decide +kernel)

theorem wit_StreamsAdvance_5 :
  ∃ (s : State) (i : IslandId) (x : Nat) (g : GeyCtx) (w : List Word) (d1 d2 : Dev),
    Streams i x g w 3 (now s) ∧
    g.posts = [] ∧
    (dTwin w = true → s.dev.twinHas g.lastSeq = true) ∧
    Reduced i x g w (now s) d1 ∧
    DescEnds i x w d1 d2 := by
  refine ⟨stream fun g => { g with desc := some (words [3 * 2 ^ 32]) }, 0, 0, _, words [3 * 2 ^ 32], _, _, ⟨?_, ?_, rfl, ?_, ?_, ?_, ?_⟩, ?_, ?_, Or.inr ⟨?_, _, gives₀ ?_, rfl⟩, ⟨_, (if_neg (by decide)).mpr rfl, rfl⟩⟩
  all_goals first | decide +kernel | (dsimp only [Streams]; decide +kernel)

theorem wit_StreamsAdvance_6 :
  ∃ (s : State) (i : IslandId) (x : Nat) (g : GeyCtx) (st : BitVec 4) (d1 : Dev),
    let late : Bool := g.cancel && !(st == 6) && !(st == 7)
    let e : BitVec 4 := if late then 6 else st
    let h := if late then (g.setFault 0 0 0 0).ends 6 g.next g.next else g
    let d0 := if late then (now s).setCtx i x h else now s
    (now s).geyLive i = true ∧
    (s.dev.isl i).running = some x ∧
    s.dev.ctx i x = some g ∧
    g.ending = some st ∧
    (st ≠ 7 → g.posts = [] ∧ s.dev.geyStores i = false) ∧
    Gives (scbWrite i x e.toNat h) d0 () d1 := by
  refine ⟨stream fun g => { g with ending := some 5 }, 0, 0, _, 5, _, ?_, ?_, rfl, ?_, ?_, gives₀ ?_⟩
  all_goals first | decide +kernel | (unfold Gives; decide +kernel)

theorem wit_StreamsAdvance_7 :
  ∃ (s : State) (i : IslandId) (x n : Nat) (t : List Nat) (g : GeyCtx),
    (now s).geyLive i = true ∧
    (s.dev.isl i).running = some x ∧
    s.dev.ctx i x = some g ∧
    g.ending = none ∧
    g.det = false ∧
    switchPoint (s.dev.isl i) g = true ∧
    (s.dev.isl i).order = n :: t := by
  refine ⟨onD (fun d => d.updIsl 0 fun x => { x with order := [2], edge := true }) (stream fun g => g), 0, 0, 2, [], _, ?_, ?_, rfl, ?_, ?_, ?_, ?_⟩
  all_goals decide +kernel

theorem wit_PagesMove_0_0 :
  ∃ (s : State) (k : Nat) (m : Move),
    let c := s.dev.cal
    let d0 : Dev := { now s with cal := { c with waiting := c.waiting.erase m } }
    let m' := { m with begun := s.fum.time, held := s.dev.namerWords m }
  ∃ n,
    s.dev.active = true ∧
    (c.waiting.find? fun m => !s.dev.frozen m.world) = some m ∧
    ((upto 8).find? fun k => (c.moves.find k).isNone) = some k ∧
    (c.moves.filter fun x => decide (x.1 < 8)).length ≤ s.dev.fld offCLBUD 12 10 ∧
    c.begun < s.dev.fld offCLBUD 9 0 ∧
    (m.pool ≠ none → c.poolBegun < s.dev.fld offCLBUD 23 16) ∧
    s.dev.noticeWaits = false ∧
    d0.mayMove m = true ∧
    m.pool = none ∧
    d0.pick (d0.targets m) = some n := by
  refine ⟨onD (fun d => { d with cal := { d.cal with waiting := [{ near with step := 1 }] } }) (budgeted 2), 0, { near with step := 1 }, _, ?_, rfl, ?_, ?_, ?_, ?_, ?_, ?_, ?_, pick_some (List.ne_nil_of_mem (a := 1) (List.mem_filter.mpr ⟨mem_upto (by decide +kernel), by decide +kernel⟩))⟩
  all_goals decide +kernel

theorem wit_PagesMove_0_1 :
  ∃ (s : State) (k : Nat) (m : Move),
    let c := s.dev.cal
    let d0 : Dev := { now s with cal := { c with waiting := c.waiting.erase m } }
    let m' := { m with begun := s.fum.time, held := s.dev.namerWords m }
  ∃ p,
    s.dev.active = true ∧
    (c.waiting.find? fun m => !s.dev.frozen m.world) = some m ∧
    ((upto 8).find? fun k => (c.moves.find k).isNone) = some k ∧
    (c.moves.filter fun x => decide (x.1 < 8)).length ≤ s.dev.fld offCLBUD 12 10 ∧
    c.begun < s.dev.fld offCLBUD 9 0 ∧
    (m.pool ≠ none → c.poolBegun < s.dev.fld offCLBUD 23 16) ∧
    s.dev.noticeWaits = false ∧
    d0.mayMove m = true ∧
    m.pool = some p ∧
    (s.dev.windowTo p).isSome = true := by
  refine ⟨onD (fun d => { d with cal := { d.cal with waiting := [{ near with pool := some 3 }] } }) (budgeted 4), 0, { near with pool := some 3 }, 3, ?_, rfl, ?_, ?_, ?_, ?_, ?_, ?_, ?_, ?_⟩
  all_goals decide +kernel

theorem wit_PagesMove_1 :
  ∃ (s : State) (k : Fin 8) (m : Move),
    let v : Inval := { core := none, kind := 0, world := m.world, space := 2, s2 := true, key := 0, page := m.back }
    s.dev.active = true ∧
    s.dev.cal.moves.find k.val = some m ∧
    m.step < 4 := by
  first
    | (refine ⟨moving { near with step := 2, begun := 100000, held := (budgeted 2).dev.namerWords near } (budgeted 2), 0, _, ?_, rfl, ?_⟩ <;> (decide +kernel))
    | (refine ⟨moving { near with step := 2 } (budgeted 2), 0, _, ?_, rfl, ?_⟩ <;> (decide +kernel))
    | (refine ⟨moving { near with step := 1, begun := 100000, held := (budgeted 2).dev.namerWords near } (budgeted 2), 0, _, ?_, rfl, ?_⟩ <;> (decide +kernel))

theorem wit_PagesMove_2 :
  ∃ (s : State) (k : Fin 8) (m : Move),
    s.dev.cal.moves.find k.val = some m ∧
    4 ≤ m.step ∧
    m.peers = [] ∧
    (∀ i ∈ s.dev.islands, ∀ v ∈ m.invals, v ∉ i.2.inv) ∧
    s.dev.frameBusy m.source = false := by
  refine ⟨moving { near with step := 5 } (run []), 0, { near with step := 5 }, ?_, ?_, ?_, ?_, ?_⟩
  all_goals decide +kernel

theorem wit_PagesMove_3 :
  ∃ (s : State) (k : Fin 8) (m : Move),
    s.dev.cal.moves.find k.val = some m ∧
    m.step < 4 ∧
    (now s).mustAbandon m = true := by
  refine ⟨moving { near with step := 2 } (run []), 0, { near with step := 2 }, ?_, ?_, ?_⟩
  all_goals decide +kernel

theorem wit_CalderaCountsAndObeys_0 :
  ∃ (s : State) (f : BitVec 32) (w : Bool) (n : Fin 13) (p : Fin 32),
    let c := s.dev.cal
    s.dev.active = true ∧
    s.dev.sampling = true ∧
    f.toNat < s.dev.frames := by
  refine ⟨regAt offCLCTL 1 (regAt offCLHTB (2 ^ 63) (run [])), 7, true, 12, 3, ?_, ?_, ?_⟩
  all_goals decide +kernel

theorem wit_CalderaCountsAndObeys_1_0 :
  ∃ (s : State),
    let len := 64000 * 2 ^ s.dev.fld offCLCTL 10 8
    let due := (s.dev.cal.winAt / len + 1) * len
    s.fum.time < due := by
  refine ⟨{ run [] with fum := { time := 1000 } }, ?_⟩
  all_goals decide +kernel

theorem wit_CalderaCountsAndObeys_1_1 :
  ∃ (s : State),
    let len := 64000 * 2 ^ s.dev.fld offCLCTL 10 8
    let due := (s.dev.cal.winAt / len + 1) * len
    s.dev.active = true ∧
    due ≤ s.fum.time := by
  refine ⟨{ run [] with fum := { time := 20000000 } }, ?_, ?_⟩
  all_goals decide +kernel

theorem wit_CalderaCountsAndObeys_3 :
  ∃ (s : State),
    s.fum.time / 1000000 ≠ s.dev.cal.lastMs := by
  refine ⟨{ run [] with fum := { time := 2500000 } }, ?_⟩
  all_goals decide +kernel

theorem wit_CalderaCountsAndObeys_4_0 :
  ∃ (s : State) (v : View) (n : Fin 9),
    n.val ≠ 0 ∧
    (now s).answers v offCLMOVE = true ∧
    n.val = 8 := by
  refine ⟨onD (fun d => { d with cal := { d.cal with clmove := [5] } }) (run []), .pf1, 8, ?_, ?_, ?_⟩
  all_goals decide +kernel

theorem wit_CalderaCountsAndObeys_4_1 :
  ∃ (s : State) (v : View) (n : Fin 9),
    n.val ≠ 0 ∧
    (now s).answers v offCLMOVE = true := by
  refine ⟨onD (fun d => { d with cal := { d.cal with clmove := [5] } }) (run []), .pf1, 4, ?_, ?_⟩
  all_goals decide +kernel

theorem wit_CalderaCountsAndObeys_5 :
  ∃ (s : State) (v : View) (x : Reg),
    ByCustody v offCLFRZ s := by
  refine ⟨moving { near with step := 2 } (run []), .cwin, 2, ?_⟩
  all_goals first | decide +kernel | (dsimp only [ByCustody, Calm]; decide +kernel)

theorem wit_CalderaCountsAndObeys_6 :
  ∃ (s : State) (v : View) (x : Reg),
    let d0 := (now s).wr offCLHTB (2 ^ 63 + bitsOf x.toNat 31 0)
    ByCustody v offCLHTB s := by
  refine ⟨run [], .cwin, 2 ^ 63 + 5, ?_⟩
  all_goals first | decide +kernel | (dsimp only [ByCustody, Calm]; decide +kernel)

theorem wit_DoorbellsAndMessages_0 :
  ∃ (s : State) (q : QueueId) (x : BitVec 32),
    let log (page : Nat) := (now s).logEvent 0x13 13 (flagNat (queueFn q)) 2 (0x1000 * (q.val % 256) + page) x.toNat
    Heard q (now s) ∧
    s.dev.bit (offQCFG q) 63 = false := by
  refine ⟨run [], 256, 3, ?_, ?_⟩
  all_goals first | decide +kernel | (dsimp only [Heard]; decide +kernel)

theorem wit_DoorbellsAndMessages_1 :
  ∃ (s : State) (q : QueueId) (x : BitVec 32),
    Heard q (now s) ∧
    s.dev.bit (offQCFG q) 63 = true ∧
    s.dev.sqSize q ≤ 65536 := by
  first
    | (refine ⟨queueOf [], 256, 3, ?_, ?_, ?_⟩ <;> (first | decide +kernel | (dsimp only [Heard]; decide +kernel)))
    | (refine ⟨queueOf [], 256, 16, ?_, ?_, ?_⟩ <;> (first | decide +kernel | (dsimp only [Heard]; decide +kernel)))

theorem wit_DoorbellsAndMessages_2 :
  ∃ (s : State) (q : QueueId) (x : BitVec 32),
    let n := s.dev.cqSize q
    let h := (s.dev.queue q).cqh
    let w := (s.dev.queue q).cqw
    Heard q (now s) ∧
    s.dev.bit (offQCFG q) 63 = true := by
  first
    | (refine ⟨queueOf [], 256, 0, ?_, ?_⟩ <;> (first | decide +kernel | (dsimp only [Heard]; decide +kernel)))
    | (refine ⟨queueOf [], 256, 1, ?_, ?_⟩ <;> (first | decide +kernel | (dsimp only [Heard]; decide +kernel)))

theorem wit_DoorbellsAndMessages_3_0 :
  ∃ (s : State) (f : Bool) (v : Fin 512),
    let x := s.dev.fn f
    let e := x.table.getD' v.val (0, 0, true)
    v.val < msixSize f ∧
    v.val ∈ x.pba ∧
    x.msixMask = false ∧
    x.msixEnable = true ∧
    s.dev.fnReady f = true := by
  refine ⟨onD (fun d => { d with pf1 := { busMaster := true, msixEnable := true, pba := [2] } }) (run []), true, 2, ?_, ?_, ?_, ?_, ?_⟩
  all_goals decide +kernel

theorem wit_DoorbellsAndMessages_3_1 :
  ∃ (s : State) (f : Bool) (v : Fin 512),
    let x := s.dev.fn f
    let e := x.table.getD' v.val (0, 0, true)
    v.val < msixSize f := by
  refine ⟨run [], false, 5, ?_⟩
  all_goals decide +kernel

theorem wit_DoorbellsAndMessages_4 :
  ∃ (s : State) (q : QueueId),
    0 < (s.dev.queue q).owed ∧
    (s.dev.queue q).owedAt + 1000 * s.dev.fld (offQCFG q) 31 24 ≤ s.fum.time := by
  refine ⟨onD (fun d => d.updQueue 256 fun x => { x with owed := 1, owedAt := 0 }) (queueOf []), 256, ?_, ?_⟩
  all_goals decide +kernel

theorem wit_QueuesAreEnabledAndReset_0_0 :
  ∃ (s : State) (v : View) (q : QueueId) (x : Reg),
    let d0 := (now s).wr (offQCFG q) (qcfgNew (s.dev.rd (offQCFG q)) (setBits x.toNat 63 63 1))
    let w := (d0.core (d0.fld (offQBIND q) 54 48)).wr (queueFn q)
    let i := d0.queueIsland q
    let off := d0.fld (offQIMG q) 35 0
    ByCustody v (offQCFG q) s ∧
    s.dev.bit (offQCFG q) 63 = false ∧
    s.dev.rstBusy q = false ∧
    (bitsOf x.toNat 46 40 = 0 ∧ bitsOf x.toNat 23 21 = 0 ∧ bitsOf x.toNat 11 0 = 0) ∧
    d0.enableFields q ≠ 0 := by
  refine ⟨run [], .cwin, 256, 2 ^ 63, ?_, ?_, ?_, ?_, ?_⟩
  all_goals first | decide +kernel | (dsimp only [ByCustody, Calm]; decide +kernel)

set_option maxRecDepth 10000 in
theorem wit_QueuesAreEnabledAndReset_0_1 :
  ∃ (s : State) (v : View) (q : QueueId) (x : Reg),
    let d0 := (now s).wr (offQCFG q) (qcfgNew (s.dev.rd (offQCFG q)) (setBits x.toNat 63 63 1))
    let w := (d0.core (d0.fld (offQBIND q) 54 48)).wr (queueFn q)
    let i := d0.queueIsland q
    let off := d0.fld (offQIMG q) 35 0
  ∃ cs segs d1 d2 d3,
    ByCustody v (offQCFG q) s ∧
    s.dev.bit (offQCFG q) 63 = false ∧
    s.dev.rstBusy q = false ∧
    (bitsOf x.toNat 46 40 = 0 ∧ bitsOf x.toNat 23 21 = 0 ∧ bitsOf x.toNat 11 0 = 0) ∧
    d0.enableFields q = 0 ∧
    Gives (authLin i (queueFn q) w.pkr.toNat (d0.fld (offQSEGS q) 47 0) 32) d0 cs d1 ∧
    Gives (loadAuthority i (queueFn q) w 0 (cellsWords cs)) d1 segs d2 ∧
    Gives (checkImages q i (segs.getD' 0 {}) w.pkr.toNat off (d0.sqSize q) 0) d2 () d3 := by
  refine ⟨regAt (offQCFG 256) 0 (regAt (offQSEGS 256) 64 (holding 64 [1] (holding 16 [2 ^ 35 + 2 ^ 32 + 2 ^ 31, 0, 4095, 0] (core0 (fun k => { k with cus := { k.cus with sdtl := 2 } }) (queueOf []))))), .cwin, 256, 2 ^ 63 + 4 * 2 ^ 52 + 4 * 2 ^ 47, _, _, _, _, _, ?_, ?_, ?_, ?_, ?_, gives' ?_, gives' ?_, gives₀ ?_⟩
  all_goals first | decide +kernel | ((try unfold Gives); dsimp only [ByCustody, Calm]; decide +kernel)

theorem wit_QueuesAreEnabledAndReset_1 :
  ∃ (s : State) (v : View) (q : QueueId) (x : Reg),
    ByCustody v (offQCFG q) s ∧
    s.dev.bit (offQCFG q) 63 = true ∧
    ((s.dev.queue q).descs.map (·.index)).Nodup := by
  refine ⟨queueOf [descA 1 8 0 64 8 0], .cwin, 256, 0, ?_, ?_, ?_⟩
  all_goals first | decide +kernel | (dsimp only [ByCustody, Calm]; decide +kernel)

theorem wit_QueuesAreEnabledAndReset_2 :
  ∃ (s : State) (q : QueueId),
    s.dev.rstBusy q = true ∧
    (s.dev.queue q).descs = [] ∧
    (s.dev.queue q).comps = [] := by
  refine ⟨regAt (offQSTAT 256) 129 (queueOf []), 256, ?_, ?_, ?_⟩
  all_goals decide +kernel

theorem wit_DescriptorsStart_0 :
  ∃ (s : State) (q : QueueId) (bs : List (List Byte)),
    let d := now s
    let n := d.sqSize q
    let h := d.sqHead q
    let mk (k : Nat) (b : List Byte) : QDesc := { index := (h + k) % n, gen := d.qGen q, bytes := b, batch := d.batchNow }
    let es := (bs.zip (upto bs.length)).map fun x => mk x.2 x.1
    d.qFetches q = true ∧
    n ≤ 65536 ∧
    h < n ∧
    d.sqTail q < n ∧
    bs ≠ [] ∧
    bs.length ≤ (d.sqTail q + n - h) % n ∧
    h + bs.length ≤ n ∧
    bs.length * descSize (d.qGen q) ≤ 4096 ∧
    (∀ b ∈ bs, b.length = descSize (d.qGen q)) ∧
    (∀ e ∈ es, d.slotFree q e.index = true ∧ e.badStatus = 0) := by
  refine ⟨queueOf [], 256, [(descA 1 8 0 64 8 0).bytes], ?_, ?_, ?_, ?_, ?_, ?_, ?_, ?_, ?_, ?_⟩
  all_goals decide +kernel

theorem wit_DescriptorsStart_1 :
  ∃ (s : State) (q : QueueId) (b : List Byte),
    let d := now s
    let e : QDesc := { index := d.sqHead q, gen := d.qGen q, bytes := b, batch := d.batchNow }
    d.qFetches q = true ∧
    d.sqTail q ≠ d.sqHead q ∧
    d.sqHead q < d.sqSize q ∧
    b.length = descSize (d.qGen q) ∧
    d.slotFree q e.index = true ∧
    e.badStatus ≠ 0 := by
  refine ⟨queueOf [], 256, (descA 9 8 0 64 8 0).bytes, ?_, ?_, ?_, ?_, ?_, ?_⟩
  all_goals decide +kernel

theorem wit_DescriptorsStart_2 :
  ∃ (s : State) (q : QueueId) (b : List Byte),
    let d := now s
    d.qFetches q = true ∧
    d.sqTail q ≠ d.sqHead q ∧
    d.sqHead q < d.sqSize q ∧
    d.sqSize q ≤ 65536 ∧
    d.slotFree q (d.sqHead q) = true := by
  refine ⟨queueOf [], 256, [], ?_, ?_, ?_, ?_, ?_⟩
  all_goals decide +kernel

theorem wit_DescriptorsStart_3 :
  ∃ (s : State) (q : QueueId) (e : QDesc),
    s.dev.startable q 0 = some e := by
  refine ⟨queueOf [descA 0 0 0 0 0 0], 256, descA 0 0 0 0 0 0, ?_⟩
  all_goals decide +kernel

theorem wit_DescriptorsStart_4 :
  ∃ (s : State) (q : QueueId) (e : QDesc),
    s.dev.startable q 1 = some e ∧
    e.conv = 0 := by
  first
    | (refine ⟨queueOf [descA 1 8 0 64 8 0], 256, descA 1 8 0 64 8 0, ?_, ?_⟩ <;> (decide +kernel))
    | (refine ⟨queueOf [descA 1 0 0 64 8 0], 256, descA 1 0 0 64 8 0, ?_, ?_⟩ <;> (decide +kernel))

theorem wit_DescriptorsStart_5 :
  ∃ (s : State) (q : QueueId) (e : QDesc),
    s.dev.startable q 2 = some e ∧
    (e.conv ≠ 0 → (s.dev.profile e.conv).ok true = true) := by
  refine ⟨queueOf [descA 2 8 0 64 8 0], 256, descA 2 8 0 64 8 0, ?_, ?_⟩
  all_goals decide +kernel

theorem wit_DescriptorsStart_6 :
  ∃ (s : State) (q : QueueId) (e : QDesc),
    s.dev.startable q 5 = some e ∧
    s.dev.bound q = none := by
  refine ⟨regAt (offQBIND 256) 0 (queueOf [{ descA 5 0 0 64 0 0 with gen := 1 }]), 256, { descA 5 0 0 64 0 0 with gen := 1 }, ?_, ?_⟩
  all_goals decide +kernel

theorem wit_DescriptorsStart_7 :
  ∃ (s : State) (q : QueueId) (e : QDesc) (c n : Nat) (d1 : Dev),
    s.dev.startable q 5 = some e ∧
    s.dev.bound q = some (c, n) ∧
    Gives (startStream q e c n) (now s) () d1 := by
  refine ⟨queueOf [{ descA 5 0 0 64 0 0 with gen := 1 }], 256, { descA 5 0 0 64 0 0 with gen := 1 }, 0, 0, _, ?_, ?_, gives₀ ?_⟩
  all_goals first | decide +kernel | (unfold Gives; decide +kernel)

theorem wit_TransfersConvert_0 :
  ∃ (s : State) (q : QueueId) (e : QDesc) (bs : List Byte) (ok : Bool),
    let n := s.dev.inBytes e
    ((s.dev.queue q).descs.find? fun e => e.st == .dma) = some e ∧
    e.opc ≠ 2 := by
  first
    | (refine ⟨queueOf [{ descA 1 8 0 64 8 0 with st := .dma }], 256, { descA 1 8 0 64 8 0 with st := .dma }, [1, 2, 3], true, ?_, ?_⟩ <;> (decide +kernel))
    | (refine ⟨queueOf [{ descA 1 8 0 64 8 0 with st := .dma }], 256, { descA 1 8 0 64 8 0 with st := .dma }, [1, 2, 3, 4, 5, 6, 7, 8], true, ?_, ?_⟩ <;> (decide +kernel))

theorem wit_TransfersConvert_1 :
  ∃ (s : State) (q : QueueId) (e : QDesc) (bs : List Byte) (ok : Bool),
    ((s.dev.queue q).descs.find? fun e => e.st == .dma) = some e ∧
    e.opc = 2 ∧
    e.status ≠ 7 := by
  first
    | (refine ⟨queueOf [{ descA 2 8 0 64 8 0 with st := .dma }], 256, { descA 2 8 0 64 8 0 with st := .dma }, [], true, ?_, ?_, ?_⟩ <;> (decide +kernel))
    | (refine ⟨queueOf [{ descA 2 8 0 64 8 0 with st := .dma }], 256, { descA 2 8 0 64 8 0 with st := .dma }, [1, 2], false, ?_, ?_, ?_⟩ <;> (decide +kernel))

theorem wit_TransfersConvert_2 :
  ∃ (s : State) (q : QueueId) (e : QDesc) (d1 : Dev),
    s.dev.active = true ∧
    ((s.dev.queue q).descs.find? fun e => e.st == .converting) = some e ∧
    e.opc = 1 ∧
    e.conv = 0 ∧
    Gives (putCells q e ((e.data.zip (upto e.data.length)).map fun x => { off := x.2, val := x.1.toNat, full := false, mark := none }) 0) (now s) none d1 := by
  refine ⟨queueOf [{ descA 1 2 0 64 2 0 with st := .converting, data := [7, 8] }], 256, { descA 1 2 0 64 2 0 with st := .converting, data := [7, 8] }, _, ?_, ?_, ?_, ?_, givesIs _ ?_⟩
  all_goals first | decide +kernel | (unfold Gives; decide +kernel)

theorem wit_TransfersConvert_3 :
  ∃ (s : State) (q : QueueId) (e : QDesc) (cs : List CvCell) (d1 : Dev),
    let p := s.dev.profile e.conv
    s.dev.active = true ∧
    ((s.dev.queue q).descs.find? fun e => e.st == .converting) = some e ∧
    e.opc ≠ 2 ∧
    e.conv ≠ 0 ∧
    p.ok false = true ∧
    e.recNo < (cvRecords p e false).1 ∧
    (e.recNo + 1) * p.hrec ≤ e.data.length ∧
    cvRecordIn (now s) p ((e.data.drop (e.recNo * p.hrec)).take p.hrec) 0 p.fields = .ok cs ∧
    Gives (putCells q e (sortCells cs) (e.recNo * p.crec)) (now s) none d1 := by
  refine ⟨regAt (offCVPROF 1) (2 ^ 63 + 2 * 2 ^ 16 + 2) (regAt (offCVFLD 0) (2 * 2 ^ 24 + 2) (queueOf [{ descA 1 2 0 64 2 1 with st := .converting, data := [7, 8] }])), 256, { descA 1 2 0 64 2 1 with st := .converting, data := [7, 8] }, _, _, ?_, ?_, ?_, ?_, ?_, ?_, ?_, rfl, givesIs _ ?_⟩
  all_goals first | decide +kernel | (unfold Gives; decide +kernel)

theorem wit_TransfersConvert_4_0 :
  ∃ (s : State) (q : QueueId) (e : QDesc) (ps : List PLoc) (cs : List Cell) (d1 d2 : Dev),
  ∃ x : Exc,
    s.dev.active = true ∧
    ((s.dev.queue q).descs.find? fun e => e.st == .converting) = some e ∧
    e.opc = 2 ∧
    e.conv = 0 ∧
    Gives (authMany q .read e.ent 0 (fromN e.off (Nat.min e.len e.devlen))) (now s) (ps, none) d1 ∧
    d2.silentQueues = false ∧
    d2.fnReady (queueFn q) = true ∧
    x.vec = 41 ∧
    Gives (authRead q e ps) d1 (cs, some x) d2 := by
  refine ⟨hostPage (queueOf [lostRead]), 256, lostRead, _, [0], _, _, { vec := 41 }, ?_, ?_, ?_, ?_, givesFst ?_ ?_, ?_, ?_, ?_, givesIs _ ?_⟩
  all_goals first | decide +kernel | (unfold Gives; decide +kernel)

theorem wit_TransfersConvert_4_1 :
  ∃ (s : State) (q : QueueId) (e : QDesc) (ps : List PLoc) (cs : List Cell) (d1 d2 : Dev),
    s.dev.active = true ∧
    ((s.dev.queue q).descs.find? fun e => e.st == .converting) = some e ∧
    e.opc = 2 ∧
    e.conv = 0 ∧
    Gives (authMany q .read e.ent 0 (fromN e.off (Nat.min e.len e.devlen))) (now s) (ps, none) d1 ∧
    d2.silentQueues = false ∧
    d2.fnReady (queueFn q) = true ∧
    cs ≠ [] ∧
    Gives (authRead q e ps) d1 (cs, none) d2 := by
  refine ⟨queueOf [{ descA 2 2 0 64 2 0 with st := .converting }], 256, { descA 2 2 0 64 2 0 with st := .converting }, _, [0, 0], _, _, ?_, ?_, ?_, ?_, givesFst ?_ ?_, ?_, ?_, ?_, givesIs _ ?_⟩
  all_goals first | decide +kernel | (unfold Gives; decide +kernel)

theorem wit_DescriptorsAreDeliveredAndDone_0 :
  ∃ (msg : Bool) (s : State) (q : QueueId) (e : QDesc) (b : Nat × Nat) (d1 : Dev),
    s.dev.active = true ∧
    (if msg then s.dev.startable q 4 = some e else ((s.dev.queue q).descs.find? fun e => e.opc == 3 && ((e.st == .ready && s.dev.mayDeliver q e) || (e.st == .fetched && (s.dev.queue q).mayStart e && (!e.inline' || s.dev.mayDeliver q e)))) = some e ∧ (e.st = .ready ∨ e.inline' = true)) ∧
    s.dev.mayDeliver q e = true ∧
    (e.inline' = true → badInline e = none) ∧
    s.dev.bound q = some b ∧
    Gives (putImage q e) (now s) none d1 := by
  first
    | (refine ⟨true, queueOf [descA 4 0 0 0 0 0], 256, descA 4 0 0 0 0 0, (0, 0), _, ?_, ?_, ?_, ?_, ?_, givesIs _ ?_⟩ <;> (first | decide +kernel | (unfold Gives; decide +kernel)))
    | (refine ⟨false, queueOf [{ descA 3 2 0 64 2 0 with st := .ready }], 256, { descA 3 2 0 64 2 0 with st := .ready }, (0, 0), _, ?_, ?_, ?_, ?_, ?_, givesIs _ ?_⟩ <;> (first | decide +kernel | (unfold Gives; decide +kernel)))

theorem wit_DescriptorsAreDeliveredAndDone_1 :
  ∃ (s : State) (v : View) (q : QueueId) (x : Reg) (e : QDesc),
    let st := bitsOf x.toNat 23 16
    let pstat := bitsOf x.toNat 47 24
    let det := bitsOf x.toNat 63 48
    ByCustody v (offQDONE q) s ∧
    ((s.dev.queue q).descs.find? fun e => e.index == bitsOf x.toNat 15 0 && e.st == .delivered) = some e := by
  refine ⟨queueOf [{ descA 4 0 0 0 0 0 with st := .delivered }], .cwin, 256, 0x50000, { descA 4 0 0 0 0 0 with st := .delivered }, ?_, ?_⟩
  all_goals first | decide +kernel | (dsimp only [ByCustody, Calm]; decide +kernel)

theorem wit_DescriptorsAreDeliveredAndDone_2 :
  ∃ (s : State) (v : View) (q : QueueId) (x : Reg),
    ByCustody v (offQDONE q) s ∧
    ((s.dev.queue q).descs.find? fun e => e.index == bitsOf x.toNat 15 0 && e.st == .delivered) = none ∧
    bitsOf x.toNat 15 0 ∉ (s.dev.queue q).ghosts := by
  refine ⟨queueOf [], .cwin, 256, 0, ?_, ?_, ?_⟩
  all_goals first | decide +kernel | (dsimp only [ByCustody, Calm]; decide +kernel)

theorem wit_DescriptorsAreDeliveredAndDone_3 :
  ∃ (s : State) (q : QueueId) (c : Comp) (t : List Comp),
    let d := s.dev
    let x := d.queue q
    let entry := c.bytes (d.sqHead q) x.phase
    let w := (x.cqw + 1) % d.cqSize q
    d.active = true ∧
    d.pair ≠ 5 ∧
    d.pair ≠ 6 ∧
    x.comps = c :: t ∧
    d.accepted c.jseq = true ∧
    (∀ b, c.slot = some b → ((d.core b.1).slot b.2).posts = 0) ∧
    (x.cqw + 1) % d.cqSize q ≠ x.cqh ∧
    d.silentQueues = false ∧
    d.fnReady (queueFn q) = true ∧
    c.entry = none ∧
    d.bit offSNJRNL 63 = false ∧
    d.pairWaits q c = false := by
  refine ⟨onD (fun d => d.updQueue 256 fun x => { x with comps := [aComp], cqh := 3 }) (queueOf []), 256, aComp, [], ?_, ?_, ?_, ?_, ?_, (fun b h => by cases h), ?_, ?_, ?_, ?_, ?_, ?_⟩
  all_goals decide +kernel

theorem wit_HostRequestsAreAnswered_0 :
  ∃ (s : State) (o : BitVec 36) (bs : List Byte) (ps : List PLoc) (d1 d2 : Dev),
    s.dev.active = true ∧
    s.dev.board.linkUp = true ∧
    s.dev.bit offCWBASE 63 = true ∧
    s.dev.phase = 10 ∧
    Gives (windowPages .write (pageChunks (bs.length + 1) 0 ((s.dev.fld offCWBASE 35 0 * 4096 + o.toNat) % 2 ^ 48) bs.length)) (now s) (some ps) d1 ∧
    d1.postQueued ps = false ∧
    Gives (authWrite false 0 (fun _ => false) (runsBy 4096 (ps.zip ((ps.zip bs).map fun x => BitVec.ofNat 9 ((d1.cell x.1).toNat / 256 * 256 + x.2.toNat))))) d1 () d2 := by
  refine ⟨regAt offCUSTSTAT 10 (tables (regAt offCWBASE (2 ^ 63) (run []))), 40, [1, 2], _, _, _, ?_, ?_, ?_, ?_, givesSome ?_ ?_, ?_, gives₀ ?_⟩
  all_goals first | decide +kernel | (unfold Gives; decide +kernel)

theorem wit_HostRequestsAreAnswered_1 :
  ∃ (s : State) (o : BitVec 36) (n : Nat) (ps : List PLoc) (d1 : Dev),
    let d := d1.readLines ps
    s.dev.active = true ∧
    s.dev.board.linkUp = true ∧
    s.dev.bit offCWBASE 63 = true ∧
    s.dev.phase = 10 ∧
    Gives (windowPages .read (pageChunks (n + 1) 0 ((s.dev.fld offCWBASE 35 0 * 4096 + o.toNat) % 2 ^ 48) n)) (now s) (some ps) d1 ∧
    d1.postQueued ps = false := by
  refine ⟨regAt offCUSTSTAT 10 (tables (regAt offCWBASE (2 ^ 63) (run []))), 40, 2, _, _, ?_, ?_, ?_, ?_, givesSome ?_ ?_, ?_⟩
  all_goals first | decide +kernel | (unfold Gives; decide +kernel)

theorem wit_HostRequestsAreAnswered_2 :
  ∃ (s : State) (o : BitVec 36) (bs : List Byte) (n : Nat),
    s.dev.board.linkUp = true ∧
    s.dev.phase ≠ 10 := by
  refine ⟨run [], 40, [1, 2], 2, ?_, ?_⟩
  all_goals decide +kernel

theorem wit_HostRequestsAreAnswered_3 :
  ∃ (s : State) (c : CoreId) (bs : List Byte) (ok : Bool) (a b : List ExtRead) (e : ExtRead),
    (s.dev.core c).ext = a ++ e :: b ∧
    (∀ x ∈ a, x.data = none → x.addr < hostWinBase) ∧
    e.data = none ∧
    hostWinBase ≤ e.addr ∧
    bs.length = e.n := by
  refine ⟨core0 (fun k => { k with ext := [{ addr := hostWinBase, n := 2 }] }) (run []), 0, [1, 2], true, [], [], { addr := hostWinBase, n := 2 }, ?_, ?_, ?_, ?_, ?_⟩
  all_goals decide +kernel

theorem wit_HostRequestsAreAnswered_4_0 :
  ∃ (s : State) (f : Bool),
    f = false := by
  refine ⟨run [], false, ?_⟩
  all_goals decide +kernel

theorem wit_HostRequestsAreAnswered_5 :
  ∃ (s : State) (r : LinkRate) (w : LinkWidth),
    s.dev.board.linkUp = true := by
  refine ⟨run [], .gt32, .x8, ?_⟩
  all_goals decide +kernel

theorem wit_HostRequestsAreAnswered_6 :
  ∃ (s : State) (t : Transport),
    s.dev.custodyUp = true ∧
    (t = .pcieVdm → s.dev.board.linkUp = true) := by
  refine ⟨regAt offCUSTSTAT 10 (run []), .pcieVdm, ?_, ?_⟩
  all_goals decide +kernel

theorem wit_HostRequestsAreAnswered_7 :
  ∃ (s : State) (f : Bool) (r : CfgReq),
    s.dev.board.perst = false ∧
    s.dev.board.railsDropped = false ∧
    s.dev.board.thermtrip = false ∧
    s.dev.board.linkUp = false := by
  refine ⟨onD (fun d => { d with board := { d.board with linkUp := false } }) (run []), false, .read .vendorId, ?_, ?_, ?_, ?_⟩
  all_goals decide +kernel

theorem wit_HostRequestsAreAnswered_8 :
  ∃ (s : State) (f : Bool),
    s.dev.board.perst = false ∧
    s.dev.board.railsDropped = false ∧
    s.dev.board.thermtrip = false ∧
    s.dev.board.linkUp = true := by
  refine ⟨run [], false, ?_, ?_, ?_, ?_⟩
  all_goals decide +kernel

theorem wit_SourcesSendRequests_0 :
  ∃ (s : State) (n : SourceId),
    unitSource n = true ∧
    s.dev.inReset = false := by
  first
    | (refine ⟨regAt offCUSTSTAT 10 <| regAt (offISRC 300) (2 ^ 61 + 3 * 2 ^ 57 + 70 * 2 ^ 49) (run []), 300, ?_, ?_⟩ <;> (decide +kernel))
    | (refine ⟨regAt offCUSTSTAT 10 <| regAt (offISRC 300) (2 ^ 63 + 2 ^ 61 + 3 * 2 ^ 57 + 70 * 2 ^ 49) (run []), 300, ?_, ?_⟩ <;> (decide +kernel))

theorem wit_SourcesSendRequests_1 :
  ∃ (s : State) (v : View) (n : SourceId),
    ByCustody v (offISRC n) s ∧
    (s.dev.fld (offISRC n) 59 57 = 7 → 1008 ≤ n.val) := by
  first
    | (refine ⟨regAt (offISRC 300) (2 ^ 61 + 3 * 2 ^ 57 + 70 * 2 ^ 49) (run []), .cwin, 300, ?_, ?_⟩ <;> (first | decide +kernel | (dsimp only [ByCustody, Calm]; decide +kernel)))
    | (refine ⟨regAt (offISRC 1008) (2 ^ 61 + 7 * 2 ^ 57 + 70 * 2 ^ 49) (run []), .cwin, 1008, ?_, ?_⟩ <;> (first | decide +kernel | (dsimp only [ByCustody, Calm]; decide +kernel)))

theorem wit_SourcesSendRequests_2_0 :
  ∃ (s : State) (v : View) (n : SourceId) (x : Reg),
    let lev := if bitsOf x.toNat 59 57 = 7 then 0 else bitsOf x.toNat 59 57
    let new := if n.val < 1008 then setBits (bitsOf x.toNat 61 42) 17 15 lev else setBits (bitsOf x.toNat 61 42) 18 15 (s.dev.fld (offISRC n) 60 57)
    ByCustody v (offISRC n) s ∧
    bitsOf x.toNat 41 0 = 0 ∧
    s.dev.bit (offISRC n) 63 = true ∧
    new ≠ s.dev.fld (offISRC n) 61 42 := by
  refine ⟨regAt (offISRC 300) (2 ^ 63 + 2 ^ 61 + 3 * 2 ^ 57 + 70 * 2 ^ 49) (run []), .cwin, 300, 2 ^ 61 + 4 * 2 ^ 57 + 70 * 2 ^ 49, ?_, ?_, ?_, ?_⟩
  all_goals first | decide +kernel | (dsimp only [ByCustody, Calm]; decide +kernel)

theorem wit_SourcesSendRequests_2_1 :
  ∃ (s : State) (v : View) (n : SourceId) (x : Reg),
    let lev := if bitsOf x.toNat 59 57 = 7 then 0 else bitsOf x.toNat 59 57
    let new := if n.val < 1008 then setBits (bitsOf x.toNat 61 42) 17 15 lev else setBits (bitsOf x.toNat 61 42) 18 15 (s.dev.fld (offISRC n) 60 57)
    ByCustody v (offISRC n) s ∧
    bitsOf x.toNat 41 0 = 0 ∧
    s.dev.bit (offISRC n) 63 = true ∧
    new = s.dev.fld (offISRC n) 61 42 := by
  refine ⟨regAt (offISRC 300) (2 ^ 63 + 2 ^ 61 + 3 * 2 ^ 57 + 70 * 2 ^ 49) (run []), .cwin, 300, 2 ^ 61 + 3 * 2 ^ 57 + 70 * 2 ^ 49, ?_, ?_, ?_, ?_⟩
  all_goals first | decide +kernel | (dsimp only [ByCustody, Calm]; decide +kernel)

theorem wit_SourcesSendRequests_2_2 :
  ∃ (s : State) (v : View) (n : SourceId) (x : Reg),
    let lev := if bitsOf x.toNat 59 57 = 7 then 0 else bitsOf x.toNat 59 57
    let new := if n.val < 1008 then setBits (bitsOf x.toNat 61 42) 17 15 lev else setBits (bitsOf x.toNat 61 42) 18 15 (s.dev.fld (offISRC n) 60 57)
    ByCustody v (offISRC n) s ∧
    bitsOf x.toNat 41 0 = 0 ∧
    s.dev.bit (offISRC n) 63 = false ∧
    bitOf x.toNat 62 = false := by
  refine ⟨run [], .cwin, 1010, 2 ^ 61, ?_, ?_, ?_, ?_⟩
  all_goals first | decide +kernel | (dsimp only [ByCustody, Calm]; decide +kernel)

theorem wit_SourcesSendRequests_2_3 :
  ∃ (s : State) (v : View) (n : SourceId) (x : Reg),
    let lev := if bitsOf x.toNat 59 57 = 7 then 0 else bitsOf x.toNat 59 57
    let new := if n.val < 1008 then setBits (bitsOf x.toNat 61 42) 17 15 lev else setBits (bitsOf x.toNat 61 42) 18 15 (s.dev.fld (offISRC n) 60 57)
    ByCustody v (offISRC n) s ∧
    bitsOf x.toNat 41 0 = 0 := by
  refine ⟨run [], .cwin, 300, 2 ^ 61, ?_, ?_⟩
  all_goals first | decide +kernel | (dsimp only [ByCustody, Calm]; decide +kernel)

theorem wit_PairCommandsComplete_0 :
  ∃ (s : State) (v : View) (t : TwinId),
    let st := s.dev.pair
    let me := joinsAsPrimary st s.dev.roleStandby
    ByCustody v offSNCMD s ∧
    (st = 0 ∨ st = 3 ∨ st = 4 ∨ st = 6) ∧
    (s.dev.mode = 1 ∨ s.dev.mode = 2) ∧
    t.mode.toNat = s.dev.mode ∧
    me ≠ joinsAsPrimary t.state.toNat t.standby := by
  first
    | (refine ⟨pair 1 0 0 0, .cwin, { standby := true, state := 0, mode := 1, epoch := 3, nextSeq := 9 }, ?_, ?_, ?_, ?_, ?_⟩ <;> (first | decide +kernel | (dsimp only [ByCustody, Calm]; decide +kernel)))
    | (refine ⟨pair 1 1 0 0, .cwin, { standby := false, state := 0, mode := 1, epoch := 3, nextSeq := 9 }, ?_, ?_, ?_, ?_, ?_⟩ <;> (first | decide +kernel | (dsimp only [ByCustody, Calm]; decide +kernel)))

theorem wit_PairCommandsComplete_1_0 :
  ∃ (s : State) (v : View) (force : Bool),
    let sends := s.dev.pair = 2 ∧ (now s).heartbeats = true
    ByCustody v offSNCMD s ∧
    s.dev.roleStandby = true ∧
    s.dev.mode ≠ 3 ∧
    ((s.dev.pair = 2 ∧ ((now s).heartbeats = true ∨ (now s).edges = false ∨ force = true)) ∨ (s.dev.pair = 4 ∧ (s.dev.bit offSNSTAT 25 = false ∨ force = true))) ∧
    sends := by
  refine ⟨sinter (fun x => { x with lastHb := 99000 }) (pair 1 1 2 0), .cwin, false, ?_, ?_, ?_, ?_, ?_⟩
  all_goals first | decide +kernel | (dsimp only [ByCustody, Calm]; decide +kernel)

theorem wit_PairCommandsComplete_1_1 :
  ∃ (s : State) (v : View) (force : Bool),
    let sends := s.dev.pair = 2 ∧ (now s).heartbeats = true
    ByCustody v offSNCMD s ∧
    s.dev.roleStandby = true ∧
    s.dev.mode ≠ 3 ∧
    ((s.dev.pair = 2 ∧ ((now s).heartbeats = true ∨ (now s).edges = false ∨ force = true)) ∨ (s.dev.pair = 4 ∧ (s.dev.bit offSNSTAT 25 = false ∨ force = true))) := by
  refine ⟨pair 1 1 4 0, .cwin, false, ?_, ?_, ?_, ?_⟩
  all_goals first | decide +kernel | (dsimp only [ByCustody, Calm]; decide +kernel)

theorem wit_PairCommandsComplete_2_0 :
  ∃ (s : State) (v : View),
    ByCustody v offSNCMD s ∧
    s.dev.roleStandby = false ∧
    s.dev.pair = 2 ∧
    s.dev.mode = 1 := by
  refine ⟨pair 1 0 2 0, .cwin, ?_, ?_, ?_, ?_⟩
  all_goals first | decide +kernel | (dsimp only [ByCustody, Calm]; decide +kernel)

theorem wit_PairCommandsComplete_2_1 :
  ∃ (s : State) (v : View),
    ByCustody v offSNCMD s ∧
    s.dev.roleStandby = false ∧
    s.dev.pair = 2 ∧
    s.dev.mode = 2 := by
  refine ⟨pair 2 0 2 0, .cwin, ?_, ?_, ?_, ?_⟩
  all_goals first | decide +kernel | (dsimp only [ByCustody, Calm]; decide +kernel)

theorem wit_PairCommandsComplete_3 :
  ∃ (s : State) (v : View),
    ByCustody v offSNCMD s ∧
    s.dev.pair = 5 := by
  refine ⟨pair 2 0 5 0, .cwin, ?_, ?_⟩
  all_goals first | decide +kernel | (dsimp only [ByCustody, Calm]; decide +kernel)

theorem wit_PairCommandsComplete_4 :
  ∃ (s : State) (v : View),
    ByCustody v offSNCMD s ∧
    s.dev.pair ≠ 5 := by
  refine ⟨pair 2 0 2 0, .cwin, ?_, ?_⟩
  all_goals first | decide +kernel | (dsimp only [ByCustody, Calm]; decide +kernel)

theorem wit_PairCommandsComplete_5 :
  ∃ (s : State) (v : View),
    ByCustody v offSNCMD s ∧
    (s.dev.pair = 2 ∨ s.dev.pair = 3 ∨ s.dev.pair = 4 ∨ s.dev.pair = 6) := by
  refine ⟨pair 2 0 6 0, .cwin, ?_, ?_⟩
  all_goals first | decide +kernel | (dsimp only [ByCustody, Calm]; decide +kernel)

theorem wit_RecordsFlow_0_0 :
  ∃ (s : State) (r : Record) (t : List Record),
    s.dev.active = true ∧
    s.dev.sn.net = r :: t ∧
    (now s).ringRoom r.seq.toNat = true ∧
    s.dev.sendsRecords = true ∧
    s.dev.mode ≠ 3 := by
  refine ⟨sinter (fun x => { x with net := [aRecord] }) (regAt offSNJRNL (2 ^ 63) (pair 1 0 2 0)), aRecord, [], ?_, ?_, ?_, ?_, ?_⟩
  all_goals decide +kernel

theorem wit_RecordsFlow_0_1 :
  ∃ (s : State) (r : Record) (t : List Record),
    s.dev.active = true ∧
    s.dev.sn.net = r :: t ∧
    (now s).ringRoom r.seq.toNat = true ∧
    s.dev.sendsRecords = true ∧
    s.dev.mode = 3 := by
  refine ⟨sinter (fun x => { x with net := [aRecord] }) (regAt offSNJRNL (2 ^ 63) (pair 3 0 2 0)), aRecord, [], ?_, ?_, ?_, ?_, ?_⟩
  all_goals decide +kernel

theorem wit_RecordsFlow_0_2 :
  ∃ (s : State) (r : Record) (t : List Record),
    s.dev.active = true ∧
    s.dev.sn.net = r :: t ∧
    (now s).ringRoom r.seq.toNat = true := by
  refine ⟨sinter (fun x => { x with net := [aRecord] }) (regAt offSNJRNL (2 ^ 63) (run [])), aRecord, [], ?_, ?_, ?_⟩
  all_goals decide +kernel

theorem wit_RecordsFlow_1 :
  ∃ (s : State) (r : Record) (d1 : Dev),
    s.dev.active = true ∧
    s.dev.mode ≠ 3 ∧
    s.dev.applies = true ∧
    s.dev.sn.rx = [] ∧
    r.seq.toNat = s.dev.sn.applied + 1 ∧
    r.epoch.toNat = s.dev.epoch ∧
    (now s).applyRecord r = some d1 := by
  refine ⟨pair 1 1 2 0, aRecord, _, ?_, ?_, ?_, ?_, ?_, ?_, rfl⟩
  all_goals decide +kernel

theorem wit_RecordsFlow_2 :
  ∃ (s : State) (r : Record),
    s.dev.active = true ∧
    s.dev.mode ≠ 3 ∧
    s.dev.applies = true ∧
    s.dev.sn.rx = [] ∧
    s.dev.sn.applied + 1 < r.seq.toNat := by
  refine ⟨pair 1 1 2 0, { aRecord with seq := 2 }, ?_, ?_, ?_, ?_, ?_⟩
  all_goals decide +kernel

theorem wit_RecordsFlow_3 :
  ∃ (s : State),
    (s.dev.applies = true ∨ s.dev.mode = 3) ∧
    s.dev.sn.ackedAt ≠ s.dev.sn.applied ∧
    s.dev.sn.ackTime + 1000 ≤ s.fum.time := by
  refine ⟨sinter (fun x => { x with applied := 5 }) (pair 1 1 2 0), ?_, ?_, ?_⟩
  all_goals decide +kernel

theorem wit_RecordsFlow_4 :
  ∃ (s : State) (n : BitVec 64),
    s.dev.sendsRecords = true ∧
    s.dev.mode ≠ 3 ∧
    s.dev.rd offSNACK < n.toNat ∧
    n.toNat < s.dev.rd offSNSEQ ∧
    s.dev.sn.demote = false := by
  refine ⟨regAt offSNSEQ 9 (pair 1 0 2 0), 8, ?_, ?_, ?_, ?_, ?_⟩
  all_goals decide +kernel

theorem wit_RecordsFlow_5 :
  ∃ (s : State),
    s.dev.sendsRecords = true ∧
    s.dev.pair = 2 ∧
    (now s).lagging = true ∧
    s.dev.sn.lagSeen = false := by
  refine ⟨sinter (fun x => { x with unacked := [(1, 0)] }) (pair 1 0 2 0), ?_, ?_, ?_, ?_⟩
  all_goals decide +kernel

theorem wit_RecordsFlow_6 :
  ∃ (s : State),
    (s.dev.sn.net = [] ∨ s.dev.active = false) := by
  refine ⟨sinter (fun x => { x with young := [(1, 0)] }) (pair 1 0 2 0), ?_⟩
  all_goals decide +kernel

theorem wit_RecordsFlow_7 :
  ∃ (s : State) (l : BitVec 37),
    let a := l.toNat * 128
    let d := (now s).lineRead (s.dev.phys a)
    s.dev.active = true ∧
    ((s.dev.roleStandby = false ∧ s.dev.pair = 1) ∨ s.dev.pair = 2) ∧
    s.dev.postQueued [s.dev.phys a] = false ∧
    s.dev.region a = .localMem := by
  refine ⟨pair 1 0 1 0, 5, ?_, ?_, ?_, ?_⟩
  all_goals decide +kernel

theorem wit_RecordsFlow_8 :
  ∃ (s : State) (l : BitVec 37) (cs : List Cell) (x : LineInfo),
    let a := l.toNat * 128
    s.dev.active = true ∧
    s.dev.roleStandby = true ∧
    (s.dev.pair = 1 ∨ s.dev.pair = 2) ∧
    s.dev.heldFrame (s.dev.phys a) = false ∧
    s.dev.region a = .localMem ∧
    s.dev.cal.moves = [] ∧
    cs.length = 128 := by
  refine ⟨pair 1 1 1 0, 5, List.replicate 128 7, {}, ?_, ?_, ?_, ?_, ?_, ?_, ?_⟩
  all_goals decide +kernel

theorem wit_RecordsFlow_9 :
  ∃ (s : State),
    let last := s.dev.sn.joinEnd.getD (s.dev.rd offSNSEQ - 1)
    s.dev.pair = 1 ∧
    s.dev.sendsRecords = true ∧
    s.dev.mode ≠ 3 := by
  first
    | (refine ⟨pair 1 0 1 0, ?_, ?_, ?_⟩ <;> (decide +kernel))
    | (refine ⟨regAt offSNSEQ 9 (pair 1 0 1 0), ?_, ?_, ?_⟩ <;> (decide +kernel))

theorem wit_RecordsFlow_10 :
  ∃ (s : State) (q : QueueId) (i : BitVec 16) (b : List Byte),
    let e : QDesc := { index := i.toNat, gen := s.dev.qGen q, bytes := b, batch := s.dev.batchNow }
    s.dev.lockMode = true ∧
    s.dev.silentQueues = true ∧
    s.dev.qEnabled q = true ∧
    s.dev.rstBusy q = false ∧
    s.dev.slotFree q i.toNat = true ∧
    b.length = descSize (s.dev.qGen q) ∧
    i.toNat < s.dev.sqSize q ∧
    e.badStatus = 0 := by
  refine ⟨onD (fun d => { d with sn := { d.sn with batch := 1 } }) (regAt offSNCFG 6 (regAt offSNSTAT (2 * 2 ^ 28) (queueOf []))), 256, 3, (descA 0 0 0 0 0 0).bytes, ?_, ?_, ?_, ?_, ?_, ?_, ?_, ?_⟩
  all_goals decide +kernel

theorem wit_RecordsFlow_11 :
  ∃ (s : State),
    s.dev.lockMode = true ∧
    s.dev.sn.closing = false ∧
    s.dev.sn.peerDigests = [] ∧
    (s.dev.roleStandby = false → 4096 ≤ s.dev.sn.batchCount ∨ s.dev.sn.batchAt + 50000 ≤ s.fum.time) := by
  refine ⟨sinter (fun x => { x with batchCount := 4096 }) (pair 2 0 2 0), ?_, ?_, ?_, ?_⟩
  all_goals decide +kernel

theorem wit_RecordsFlow_12 :
  ∃ (s : State) (n : Nat) (a x : BitVec 64) (t : List (Nat × BitVec 64)),
    s.dev.lockMode = true ∧
    s.dev.sn.closed = (n, a) :: t ∧
    s.dev.sn.peerDigests = [] ∧
    s.dev.sn.demote = false := by
  first
    | (refine ⟨sinter (fun x => { x with closed := [(3, 7)] }) (pair 2 0 2 0), 3, 7, 7, [], ?_, ?_, ?_, ?_⟩ <;> (decide +kernel))
    | (refine ⟨sinter (fun x => { x with closed := [(3, 7)] }) (pair 2 0 2 0), 3, 7, 8, [], ?_, ?_, ?_, ?_⟩ <;> (decide +kernel))

theorem wit_TwinsWatchEachOther_0 :
  ∃ (s : State),
    s.dev.active = true ∧
    s.dev.bit offSNSTAT 27 = true ∧
    s.dev.pair ∈ [1, 2, 3, 4, 5] ∧
    s.dev.mode ≠ 3 ∧
    s.dev.sn.hbAt + 2000 ≤ s.fum.time := by
  refine ⟨pair 1 0 2 0, ?_, ?_, ?_, ?_, ?_⟩
  all_goals decide +kernel

theorem wit_TwinsWatchEachOther_1_0 :
  ∃ (s : State) (sb : Bool) (e : BitVec 32) (n : BitVec 64) (t : Nat),
    s.dev.bit offSNSTAT 27 = true ∧
    s.dev.pair ∈ [1, 2, 3, 4, 5] ∧
    s.dev.roleStandby = false ∧
    sb = false ∧
    laterEpoch e.toNat s.dev.epoch = true ∧
    s.dev.pair ≠ 4 := by
  refine ⟨pair 1 0 2 0, false, 5, 0, 0, ?_, ?_, ?_, ?_, ?_, ?_⟩
  all_goals decide +kernel

theorem wit_TwinsWatchEachOther_1_1 :
  ∃ (s : State) (sb : Bool) (e : BitVec 32) (n : BitVec 64) (t : Nat),
    s.dev.bit offSNSTAT 27 = true ∧
    s.dev.pair ∈ [1, 2, 3, 4, 5] := by
  first
    | (refine ⟨pair 1 1 2 0, false, 0, 0, 200000, ?_, ?_⟩ <;> (decide +kernel))
    | (refine ⟨pair 1 1 2 0, false, 0, 0, 50000, ?_, ?_⟩ <;> (decide +kernel))

theorem wit_TwinsWatchEachOther_2_0 :
  ∃ (s : State),
    s.dev.roleStandby = false ∧
    s.dev.pair ∈ [1, 2, 3, 5] ∧
    s.dev.mode ≠ 3 ∧
    s.dev.active = true ∧
    s.dev.sn.arbAt + 5000 ≤ s.fum.time := by
  refine ⟨pair 1 0 2 0, ?_, ?_, ?_, ?_, ?_⟩
  all_goals decide +kernel

theorem wit_TwinsWatchEachOther_2_1 :
  ∃ (s : State),
    s.dev.roleStandby = false ∧
    s.dev.pair ∈ [1, 2, 3, 5] ∧
    s.dev.mode ≠ 3 ∧
    s.dev.sn.arbAt + 1000 ≤ s.fum.time := by
  refine ⟨pair 1 0 2 0, ?_, ?_, ?_, ?_⟩
  all_goals decide +kernel

theorem wit_TwinsWatchEachOther_3 :
  ∃ (s : State),
    s.dev.roleStandby = true := by
  refine ⟨pair 1 1 2 0, ?_⟩
  all_goals decide +kernel

theorem wit_TwinsWatchEachOther_4 :
  ∃ (s : State),
    s.dev.sn.lastEdge + 30000 ≤ s.fum.time := by
  refine ⟨pair 1 1 2 (2 ^ 25), ?_⟩
  all_goals decide +kernel

theorem wit_TwinsWatchEachOther_5_0 :
  ∃ (s : State),
    s.dev.pair ∈ [1, 2] ∧
    s.dev.mode ≠ 3 ∧
    s.dev.sn.lastHb + 30000 ≤ s.fum.time ∧
    s.dev.roleStandby = true ∧
    (now s).edges = true := by
  refine ⟨sinter (fun x => { x with lastEdge := 99000 }) (pair 1 1 2 (2 ^ 25)), ?_, ?_, ?_, ?_, ?_⟩
  all_goals decide +kernel

theorem wit_TwinsWatchEachOther_5_1 :
  ∃ (s : State),
    s.dev.pair ∈ [1, 2] ∧
    s.dev.mode ≠ 3 ∧
    s.dev.sn.lastHb + 30000 ≤ s.fum.time ∧
    s.dev.roleStandby = true ∧
    (now s).edges = false ∧
    s.dev.pair = 2 := by
  refine ⟨pair 1 1 2 0, ?_, ?_, ?_, ?_, ?_, ?_⟩
  all_goals decide +kernel

theorem wit_TwinsWatchEachOther_5_2 :
  ∃ (s : State),
    s.dev.pair ∈ [1, 2] ∧
    s.dev.mode ≠ 3 ∧
    s.dev.sn.lastHb + 30000 ≤ s.fum.time ∧
    s.dev.roleStandby = false ∧
    s.dev.bit offSNSTAT 26 = true := by
  refine ⟨pair 1 0 2 (2 ^ 26), ?_, ?_, ?_, ?_, ?_⟩
  all_goals decide +kernel

theorem wit_TwinsWatchEachOther_5_3 :
  ∃ (s : State),
    s.dev.pair ∈ [1, 2] ∧
    s.dev.mode ≠ 3 ∧
    s.dev.sn.lastHb + 30000 ≤ s.fum.time ∧
    s.dev.roleStandby = false ∧
    s.dev.bit offSNSTAT 26 = false := by
  refine ⟨pair 1 0 2 0, ?_, ?_, ?_, ?_, ?_⟩
  all_goals decide +kernel

theorem wit_TwinsWatchEachOther_6 :
  ∃ (s : State),
    s.dev.roleStandby = true ∧
    s.dev.pair = 2 ∧
    s.dev.mode ≠ 3 := by
  refine ⟨pair 1 1 2 0, ?_, ?_, ?_⟩
  all_goals decide +kernel

theorem wit_TwinsWatchEachOther_7_0 :
  ∃ (s : State) (n : BitVec 64),
    (s.dev.mode = 1 ∨ s.dev.mode = 2) ∧
    s.dev.roleStandby = true ∧
    s.dev.pair = 2 ∧
    (s.dev.mode = 2 ∨ n.toNat ≤ s.dev.sn.applied) ∧
    s.dev.bit offPLCFG 63 = true := by
  refine ⟨regAt offPLCFG (2 ^ 63) (pair 1 1 2 0), 0, ?_, ?_, ?_, ?_, ?_⟩
  all_goals decide +kernel

theorem wit_TwinsWatchEachOther_7_1 :
  ∃ (s : State) (n : BitVec 64),
    (s.dev.mode = 1 ∨ s.dev.mode = 2) ∧
    s.dev.roleStandby = true ∧
    s.dev.pair = 2 ∧
    (s.dev.mode = 2 ∨ n.toNat ≤ s.dev.sn.applied) := by
  refine ⟨pair 2 1 2 0, 7, ?_, ?_, ?_, ?_⟩
  all_goals decide +kernel

theorem wit_TwinsWatchEachOther_7_2 :
  ∃ (s : State) (n : BitVec 64),
    (s.dev.mode = 1 ∨ s.dev.mode = 2) ∧
    s.dev.roleStandby = false ∧
    s.dev.pair ∈ [1, 2, 3] := by
  refine ⟨pair 2 0 2 0, 7, ?_, ?_, ?_⟩
  all_goals decide +kernel

theorem wit_TwinsWatchEachOther_8_0 :
  ∃ (s : State) (up half : Bool),
    s.dev.inReset = false ∧
    up = true := by
  refine ⟨regAt offCUSTSTAT 10 (run []), true, true, ?_, ?_⟩
  all_goals decide +kernel

theorem wit_TwinsWatchEachOther_8_1 :
  ∃ (s : State) (up half : Bool),
    s.dev.inReset = false := by
  refine ⟨regAt offCUSTSTAT 10 (run []), true, true, ?_⟩
  all_goals decide +kernel

theorem wit_TwinsWatchEachOther_9 :
  ∃ (s : State),
    s.dev.inReset = false ∧
    s.fum.time / 1000000000 ≠ s.dev.board.ppsAt := by
  refine ⟨{ regAt offCUSTSTAT 10 (run []) with fum := { time := 2500000000 } }, ?_, ?_⟩
  all_goals decide +kernel

theorem wit_TwinsWatchEachOther_10 :
  ∃ (s : State),
    s.dev.fld offSNCFG 39 36 = 1 ∧
    ¬ (s.dev.roleStandby = true ∧ s.dev.pair ∈ [1, 2]) := by
  refine ⟨regAt offSNCFG (2 ^ 36) (run []), ?_, ?_⟩
  all_goals decide +kernel

theorem wit_TwinsWatchEachOther_11 :
  ∃ (s : State) (p : Bool),
    (if p then s.dev.board.eth1 else s.dev.board.eth0) = true := by
  refine ⟨onD (fun d => { d with board := { d.board with eth0 := true } }) (run []), false, ?_⟩
  all_goals decide +kernel

theorem wit_PoolServes_0_0 :
  ∃ (s : State) (p : Fin 32) (c : CoreId) (a : BitVec 38) (n : Nat),
    let ps := s.dev.physN a.toNat n
    let d1 := (now s).readLines ps
    Pooled s.dev ∧
    s.dev.exported a.toNat n = true ∧
    s.dev.postQueued ps = false := by
  refine ⟨pooled, 3, 0, 0x4000, 4, ?_, ?_, ?_⟩
  all_goals first | decide +kernel | (dsimp only [Pooled]; decide +kernel)

theorem wit_PoolServes_0_1 :
  ∃ (s : State) (p : Fin 32) (c : CoreId) (a : BitVec 38) (n : Nat),
    let ps := s.dev.physN a.toNat n
    Pooled s.dev ∧
    s.dev.exported a.toNat n = false := by
  refine ⟨pooled, 3, 0, 2 ^ 37, 4, ?_, ?_⟩
  all_goals first | decide +kernel | (dsimp only [Pooled]; decide +kernel)

theorem wit_PoolServes_1_0 :
  ∃ (s : State) (p : Fin 32) (a : BitVec 38) (cs : List Cell),
    let ps := s.dev.physN a.toNat cs.length
    Pooled s.dev ∧
    s.dev.exported a.toNat cs.length = true ∧
    s.dev.postQueued ps = false := by
  refine ⟨pooled, 3, 0x4000, [1, 2, 3, 4], ?_, ?_, ?_⟩
  all_goals first | decide +kernel | (dsimp only [Pooled]; decide +kernel)

theorem wit_PoolServes_1_1 :
  ∃ (s : State) (p : Fin 32) (a : BitVec 38) (cs : List Cell),
    let ps := s.dev.physN a.toNat cs.length
    Pooled s.dev ∧
    s.dev.exported a.toNat cs.length = false := by
  refine ⟨pooled, 3, 2 ^ 37, [1, 2, 3, 4], ?_, ?_⟩
  all_goals first | decide +kernel | (dsimp only [Pooled]; decide +kernel)

theorem wit_PoolServes_2_0 :
  ∃ (s : State) (p : Fin 32) (a : BitVec 38) (op : BitVec 4) (ty : BitVec 2) (dsm : Bool) (x y : List Cell) (jr : Bool) (tag : BitVec 16) (rnum : BitVec 22),
    let i : Instr := .farRequest p (.posting a op ty dsm x y jr tag rnum)
    let q : Posting := { id := rnum.toNat, who := .peer p rnum, op := op, ty := ty, dsm := dsm, x := x, y := y, loc := s.dev.phys a.toNat, jr := jr, segtag := tag }
    let n := postCells ty.toNat
    Pooled s.dev ∧
    s.dev.exported a.toNat n = true ∧
    s.dev.sn.farRnum.find p.val ≠ some rnum := by
  refine ⟨pooled, 3, 0x4000, 0, 2, false, natCells 4 1, [], false, 0, 9, ?_, ?_, ?_⟩
  all_goals first | decide +kernel | (dsimp only [Pooled]; decide +kernel)

theorem wit_PoolServes_2_1 :
  ∃ (s : State) (p : Fin 32) (a : BitVec 38) (op : BitVec 4) (ty : BitVec 2) (dsm : Bool) (x y : List Cell) (jr : Bool) (tag : BitVec 16) (rnum : BitVec 22),
    let i : Instr := .farRequest p (.posting a op ty dsm x y jr tag rnum)
    let q : Posting := { id := rnum.toNat, who := .peer p rnum, op := op, ty := ty, dsm := dsm, x := x, y := y, loc := s.dev.phys a.toNat, jr := jr, segtag := tag }
    let n := postCells ty.toNat
    Pooled s.dev ∧
    s.dev.exported a.toNat n = true ∧
    s.dev.sn.farRnum.find p.val = some rnum := by
  refine ⟨sinter (fun x => { x with farRnum := [(3, 9)] }) pooled, 3, 0x4000, 0, 2, false, natCells 4 1, [], false, 0, 9, ?_, ?_, ?_⟩
  all_goals first | decide +kernel | (dsimp only [Pooled]; decide +kernel)

theorem wit_PoolServes_2_2 :
  ∃ (s : State) (p : Fin 32) (a : BitVec 38) (op : BitVec 4) (ty : BitVec 2) (dsm : Bool) (x y : List Cell) (jr : Bool) (tag : BitVec 16) (rnum : BitVec 22),
    let i : Instr := .farRequest p (.posting a op ty dsm x y jr tag rnum)
    let q : Posting := { id := rnum.toNat, who := .peer p rnum, op := op, ty := ty, dsm := dsm, x := x, y := y, loc := s.dev.phys a.toNat, jr := jr, segtag := tag }
    let n := postCells ty.toNat
    Pooled s.dev ∧
    s.dev.exported a.toNat n = false := by
  refine ⟨pooled, 3, 2 ^ 37, 0, 2, false, natCells 4 1, [], false, 0, 9, ?_, ?_⟩
  all_goals first | decide +kernel | (dsimp only [Pooled]; decide +kernel)

theorem wit_PoolServes_3 :
  ∃ (s : State) (p : Fin 32) (seq ack : Nat) (b : PoolBody),
    s.dev.bit offPLCFG 57 = true := by
  refine ⟨regAt offPLCFG (2 ^ 63 + 2 ^ 57) pooled, 3, 1, 0, .ackOnly, ?_⟩
  all_goals decide +kernel

theorem wit_PoolServes_4_0 :
  ∃ (s : State) (p : Fin 32) (seq ack : Nat) (f : PoolBody),
    let secured := (frameBody f).1
    let b := (frameBody f).2
    let x := s.dev.peers.getD' p {}
    let rest := x.unacked.filter fun u => decide (ack < u.1)
    let d0 := (now s).poolAck p ack
    s.dev.active = true ∧
    s.dev.bit offPLCFG 63 = true ∧
    (secured = true ∨ s.dev.bit offPLCFG 57 = false) ∧
    b = .ackOnly := by
  refine ⟨pooled, 3, 0, 0, .ackOnly, ?_, ?_, ?_, ?_⟩
  all_goals decide +kernel

theorem wit_PoolServes_4_1 :
  ∃ (s : State) (p : Fin 32) (seq ack : Nat) (f : PoolBody),
    let secured := (frameBody f).1
    let b := (frameBody f).2
    let x := s.dev.peers.getD' p {}
    let rest := x.unacked.filter fun u => decide (ack < u.1)
    let d0 := (now s).poolAck p ack
    s.dev.active = true ∧
    s.dev.bit offPLCFG 63 = true ∧
    (secured = true ∨ s.dev.bit offPLCFG 57 = false) ∧
    b ≠ .ackOnly ∧
    seq ≠ x.rxSeq + 1 := by
  refine ⟨pooled, 3, 5, 0, .postAck 9 0 [], ?_, ?_, ?_, ?_, ?_⟩
  all_goals decide +kernel

theorem wit_PoolServes_4_2 :
  ∃ (s : State) (p : Fin 32) (seq ack : Nat) (f : PoolBody),
    let secured := (frameBody f).1
    let b := (frameBody f).2
    let x := s.dev.peers.getD' p {}
    let rest := x.unacked.filter fun u => decide (ack < u.1)
    let d0 := (now s).poolAck p ack
  ∃ d1,
    s.dev.active = true ∧
    s.dev.bit offPLCFG 63 = true ∧
    (secured = true ∨ s.dev.bit offPLCFG 57 = false) ∧
    b ≠ .ackOnly ∧
    seq = x.rxSeq + 1 ∧
    (d0.updPeer p fun y => { y with rxSeq := seq }).poolBody p b = some d1 := by
  refine ⟨pooled, 3, 1, 0, .postAck 9 0 [], _, ?_, ?_, ?_, ?_, ?_, rfl⟩
  all_goals decide +kernel

theorem wit_PoolServes_4_3 :
  ∃ (s : State) (p : Fin 32) (seq ack : Nat) (f : PoolBody),
    let secured := (frameBody f).1
    let b := (frameBody f).2
    let x := s.dev.peers.getD' p {}
    let rest := x.unacked.filter fun u => decide (ack < u.1)
    let d0 := (now s).poolAck p ack
    s.dev.active = true ∧
    s.dev.bit offPLCFG 63 = true ∧
    (secured = true ∨ s.dev.bit offPLCFG 57 = false) ∧
    b ≠ .ackOnly ∧
    seq = x.rxSeq + 1 ∧
    (d0.updPeer p fun y => { y with rxSeq := seq }).poolBody p b = none := by
  refine ⟨onD (fun d => { d with hub := { d.hub with held := [4] } }) pooled, 3, 1, 0, .request (.read 0 0x4000 4), ?_, ?_, ?_, ?_, ?_, rfl⟩
  all_goals decide +kernel

theorem wit_PoolServes_5 :
  ∃ (s : State) (p : Fin 32) (n : Nat) (b : PoolBody) (t : List (Nat × PoolBody)),
    let x := s.dev.peers.getD' p {}
    x.unacked = (n, b) :: t ∧
    s.dev.active = true ∧
    x.sentAt + 20000 ≤ s.fum.time := by
  refine ⟨onD (fun d => { d with peers := [(3, { unacked := [(1, .postAck 9 0 [])] })] }) pooled, 3, 1, .postAck 9 0 [], [], ?_, ?_, ?_⟩
  all_goals decide +kernel

theorem wit_PoolServes_7_0 :
  ∃ (s : State) (p up : Bool),
    let lost := ∃ l : Fin 8, .ethLane p l ∈ s.dev.hub.fenced
    s.dev.inReset = false ∧
    up = true ∧
    lost := by
  refine ⟨onD (fun d => { d with hub := { d.hub with fenced := [.ethLane true 2] } }) (regAt offCUSTSTAT 10 pooled), true, true, ?_, ?_, ⟨2, .head _⟩⟩
  all_goals decide +kernel

theorem wit_PoolServes_7_1 :
  ∃ (s : State) (p up : Bool),
    let lost := ∃ l : Fin 8, .ethLane p l ∈ s.dev.hub.fenced
    s.dev.inReset = false ∧
    ¬ (up = true ∧ lost) ∧
    up = false := by
  refine ⟨regAt offCUSTSTAT 10 pooled, true, false, ?_, (fun h => by cases h.1), ?_⟩
  all_goals decide +kernel

theorem wit_PoolServes_7_2 :
  ∃ (s : State) (p up : Bool),
    let lost := ∃ l : Fin 8, .ethLane p l ∈ s.dev.hub.fenced
    s.dev.inReset = false ∧
    ¬ (up = true ∧ lost) := by
  refine ⟨regAt offCUSTSTAT 10 pooled, true, true, ?_, (fun h => by obtain ⟨l, hl⟩ := h.2; cases hl)⟩
  all_goals decide +kernel

theorem wit_FaultsAreFencedAndRecovered_0_0 :
  ∃ (s : State) (u : UnitRef) (a : BitVec 44) (has : Bool) (got : BitVec 10) (ok : Bool),
    let i : Instr := .parityError u a has got ok
    let few := ok = true ∧ ((transients s).filter fun x => x == u).length < s.dev.fld offFHCFG 7 0
    let n := s.dev.fld offFHSTAT 47 16
    let passes := cellParity u = true ∧ ((upto 10).filter fun k => bitOf got.toNat k).length % 2 = 1
    s.dev.active = true ∧
    passes := by
  refine ⟨run [], .core 2, 0, false, 1, false, ?_, ?_⟩
  all_goals decide +kernel

theorem wit_FaultsAreFencedAndRecovered_0_1 :
  ∃ (s : State) (u : UnitRef) (a : BitVec 44) (has : Bool) (got : BitVec 10) (ok : Bool),
    let i : Instr := .parityError u a has got ok
    let few := ok = true ∧ ((transients s).filter fun x => x == u).length < s.dev.fld offFHCFG 7 0
    let n := s.dev.fld offFHSTAT 47 16
    let passes := cellParity u = true ∧ ((upto 10).filter fun k => bitOf got.toNat k).length % 2 = 1
    s.dev.active = true ∧
    ¬ passes ∧
    few := by
  refine ⟨regAt offFHCFG 5 (run []), .core 2, 0, false, 0, true, ?_, ?_, ?_⟩
  all_goals decide +kernel

theorem wit_FaultsAreFencedAndRecovered_0_2 :
  ∃ (s : State) (u : UnitRef) (a : BitVec 44) (has : Bool) (got : BitVec 10) (ok : Bool),
    let i : Instr := .parityError u a has got ok
    let few := ok = true ∧ ((transients s).filter fun x => x == u).length < s.dev.fld offFHCFG 7 0
    let n := s.dev.fld offFHSTAT 47 16
    let passes := cellParity u = true ∧ ((upto 10).filter fun k => bitOf got.toNat k).length % 2 = 1
    s.dev.active = true ∧
    ¬ passes ∧
    ¬ few ∧
    Fresh u s.dev := by
  first
    | (refine ⟨run [], .core 2, 0, false, 0, false, ?_, ?_, ?_, ?_⟩ <;> (first | decide +kernel | (dsimp only [Fresh]; decide +kernel)))
    | (refine ⟨run [], .bankColumn 1 5 3, 0, false, 0, false, ?_, ?_, ?_, ?_⟩ <;> (first | decide +kernel | (dsimp only [Fresh]; decide +kernel)))
    | (refine ⟨run [], .microWord 4, 0, false, 0, false, ?_, ?_, ?_, ?_⟩ <;> (first | decide +kernel | (dsimp only [Fresh]; decide +kernel)))
    | (refine ⟨run [], .postingUnit 7, 0, false, 0, false, ?_, ?_, ?_, ?_⟩ <;> (first | decide +kernel | (dsimp only [Fresh]; decide +kernel)))

theorem wit_FaultsAreFencedAndRecovered_0_3 :
  ∃ (s : State) (u : UnitRef) (a : BitVec 44) (has : Bool) (got : BitVec 10) (ok : Bool),
    let i : Instr := .parityError u a has got ok
    let few := ok = true ∧ ((transients s).filter fun x => x == u).length < s.dev.fld offFHCFG 7 0
    let n := s.dev.fld offFHSTAT 47 16
    let passes := cellParity u = true ∧ ((upto 10).filter fun k => bitOf got.toNat k).length % 2 = 1
    s.dev.active = true ∧
    ¬ passes ∧
    ¬ few ∧
    ¬ Fresh u s.dev := by
  refine ⟨onD (fun d => { d with hub := { d.hub with fenced := [.core 2] } }) (run []), .core 2, 0, false, 0, false, ?_, ?_, ?_, ?_⟩
  all_goals first | decide +kernel | (dsimp only [Fresh]; decide +kernel)

theorem wit_FaultsAreFencedAndRecovered_1 :
  ∃ (s : State) (u : UnitRef) (t : Nat) (rest : List (UnitRef × Nat)),
    s.dev.active = true ∧
    s.dev.hub.lasting = (u, t) :: rest := by
  first
    | (refine ⟨onD (fun d => { d with hub := { d.hub with lasting := [(.core 0, 99000)] } }) (run []), _, _, _, ?_, rfl⟩ <;> (decide +kernel))
    | (refine ⟨onD (fun d => { d with hub := { d.hub with lasting := [(.geyser 0, 99000)] } }) (run []), _, _, _, ?_, rfl⟩ <;> (decide +kernel))
    | (refine ⟨onD (fun d => { d with hub := { d.hub with lasting := [(.postingUnit 5, 99000)] } }) (run []), _, _, _, ?_, rfl⟩ <;> (decide +kernel))
    | (refine ⟨onD (fun d => { d with hub := { d.hub with lasting := [(.twinLane 5, 99000)] } }) (run []), _, _, _, ?_, rfl⟩ <;> (decide +kernel))
    | (refine ⟨onD (fun d => { d with hub := { d.hub with lasting := [(.ethLane true 5, 99000)] } }) (run []), _, _, _, ?_, rfl⟩ <;> (decide +kernel))
    | (refine ⟨onD (fun d => { d with hub := { d.hub with lasting := [(.custodyCore, 99000)] } }) (run []), _, _, _, ?_, rfl⟩ <;> (decide +kernel))

theorem wit_FaultsAreFencedAndRecovered_2 :
  ∃ (s : State) (r : Recovery) (t : List Recovery) (d1 : Dev),
    s.dev.active = true ∧
    s.dev.hub.recoveries = r :: t ∧
    (now s).finishPath r.u = (d1, true) ∧
    d1.hub.recoveries = r :: t := by
  refine ⟨onD (fun d => { d with hub := { d.hub with recoveries := [{ u := .core 0, start := 0, total := 1000000 }] } }) (run []), _, _, _, ?_, rfl, rfl, ?_⟩
  all_goals decide +kernel

theorem wit_FaultsAreFencedAndRecovered_3 :
  ∃ (s : State) (r : Recovery) (t : List Recovery),
    s.dev.active = true ∧
    s.dev.hub.recoveries = r :: t ∧
    r.start + r.total < s.fum.time := by
  refine ⟨onD (fun d => { d with hub := { d.hub with recoveries := [{ u := .core 0, start := 0, total := 1000 }] } }) (run []), _, _, ?_, rfl, ?_⟩
  all_goals decide +kernel

theorem wit_FaultsAreFencedAndRecovered_4_1 :
  ∃ (s : State) (c : CoreId),
    (s.dev.core c).microStall = true := by
  refine ⟨core0 (fun k => { k with microStall := true }) (run []), 0, ?_⟩
  all_goals decide +kernel

theorem wit_FaultsAreFencedAndRecovered_4_0 :
  ∃ (s : State) (c : CoreId),
    (s.dev.core c).microStall = true ∧
    Fresh (.core c) s.dev := by
  refine ⟨core0 (fun k => { k with microStall := true }) (run []), 0, ?_, ?_⟩
  all_goals first | decide +kernel | (dsimp only [Fresh]; decide +kernel)

theorem wit_LogEntriesMerge_0_0 :
  ∃ (d : Dev) (kind cls ut ux sp a x n : Nat),
    let key := 2 ^ 31 + kind * 2 ^ 29 + cls * 2 ^ 16 + ut * 2 ^ 12 + ux
    let same := d.fld (offELOG n 0) 63 32 = key ∧ d.fld (offELOG n 2) 47 0 = a
    let h := d.fld offFHSTAT 7 0
    kind < 3 ∧
    cls < 256 ∧
    cls ≠ 0x10 ∧
    ut < 16 ∧
    ux < 4096 ∧
    sp < 4 ∧
    a < 2 ^ 48 ∧
    x < 2 ^ 64 ∧
    Newest d n ∧
    kind ≠ 1 ∧
    same ∧
    d.fld (offELOG n 0) 31 0 < 2 ^ 32 - 1 := by
  refine ⟨((run []).dev.log 0 5 1 2 3 4 6), 0, 5, 1, 2, 3, 4, 6, 0, ?_, ?_, ?_, ?_, ?_, ?_, ?_, ?_, ?_, ?_, ?_, ?_⟩
  all_goals first | decide +kernel | (dsimp only [Newest]; decide +kernel)

theorem wit_LogEntriesMerge_0_1 :
  ∃ (d : Dev) (kind cls ut ux sp a x n : Nat),
    let key := 2 ^ 31 + kind * 2 ^ 29 + cls * 2 ^ 16 + ut * 2 ^ 12 + ux
    let same := d.fld (offELOG n 0) 63 32 = key ∧ d.fld (offELOG n 2) 47 0 = a
    let h := d.fld offFHSTAT 7 0
    kind < 3 ∧
    cls < 256 ∧
    cls ≠ 0x10 ∧
    ut < 16 ∧
    ux < 4096 ∧
    sp < 4 ∧
    a < 2 ^ 48 ∧
    x < 2 ^ 64 ∧
    Newest d n ∧
    (kind = 1 ∨ ¬ same) := by
  first
    | (refine ⟨((run []).dev.log 0 5 1 2 3 4 6), 1, 5, 1, 2, 3, 4, 6, 0, ?_, ?_, ?_, ?_, ?_, ?_, ?_, ?_, ?_, .inl rfl⟩ <;> (first | decide +kernel | (dsimp only [Newest]; decide +kernel)))
    | (refine ⟨((run []).dev.log 0 5 1 2 3 4 6), 0, 6, 1, 2, 3, 4, 6, 0, ?_, ?_, ?_, ?_, ?_, ?_, ?_, ?_, ?_, .inr ?_⟩ <;> (first | decide +kernel | (dsimp only [Newest]; decide +kernel)))

theorem wit_ResetsAndStarts_0 :
  ∃ s : State,
    s.dev.board.railsDropped = true ∧
    s.fum.on = true := by
  refine ⟨onD (fun d => { d with board := { d.board with railsDropped := true } }) (run []), ?_, ?_⟩
  all_goals decide +kernel

theorem wit_ResetsAndStarts_1_0 :
  ∃ (s : State) (p : Bool) (a b : ImageInfo),
    let i : Instr := .startStepComplete 0 p a b
    let n := s.dev.nextStep
    s.dev.cust.starting = true ∧
    s.dev.board.perst = false ∧
    s.dev.board.thermtrip = false ∧
    n ∈ [1, 2, 6, 7, 8, 9, 10] ∧
    n = 2 := by
  refine ⟨starting 1, false, {}, {}, ?_, ?_, ?_, ?_, ?_⟩
  all_goals decide +kernel

theorem wit_ResetsAndStarts_1_1 :
  ∃ (s : State) (p : Bool) (a b : ImageInfo),
    let i : Instr := .startStepComplete 0 p a b
    let n := s.dev.nextStep
    s.dev.cust.starting = true ∧
    s.dev.board.perst = false ∧
    s.dev.board.thermtrip = false ∧
    n ∈ [1, 2, 6, 7, 8, 9, 10] ∧
    n = 6 ∧
    s.dev.cust.warm = false := by
  refine ⟨starting 5, false, {}, {}, ?_, ?_, ?_, ?_, ?_, ?_⟩
  all_goals decide +kernel

theorem wit_ResetsAndStarts_1_2 :
  ∃ (s : State) (p : Bool) (a b : ImageInfo),
    let i : Instr := .startStepComplete 0 p a b
    let n := s.dev.nextStep
    s.dev.cust.starting = true ∧
    s.dev.board.perst = false ∧
    s.dev.board.thermtrip = false ∧
    n ∈ [1, 2, 6, 7, 8, 9, 10] ∧
    n = 7 := by
  refine ⟨starting 6, false, {}, {}, ?_, ?_, ?_, ?_, ?_⟩
  all_goals decide +kernel

theorem wit_ResetsAndStarts_1_3 :
  ∃ (s : State) (p : Bool) (a b : ImageInfo),
    let i : Instr := .startStepComplete 0 p a b
    let n := s.dev.nextStep
    s.dev.cust.starting = true ∧
    s.dev.board.perst = false ∧
    s.dev.board.thermtrip = false ∧
    n ∈ [1, 2, 6, 7, 8, 9, 10] ∧
    n = 8 := by
  refine ⟨starting 7, false, {}, {}, ?_, ?_, ?_, ?_, ?_⟩
  all_goals decide +kernel

theorem wit_ResetsAndStarts_1_4 :
  ∃ (s : State) (p : Bool) (a b : ImageInfo),
    let i : Instr := .startStepComplete 0 p a b
    let n := s.dev.nextStep
    s.dev.cust.starting = true ∧
    s.dev.board.perst = false ∧
    s.dev.board.thermtrip = false ∧
    n ∈ [1, 2, 6, 7, 8, 9, 10] ∧
    n = 10 := by
  refine ⟨starting 9, false, {}, {}, ?_, ?_, ?_, ?_, ?_⟩
  all_goals decide +kernel

theorem wit_ResetsAndStarts_1_5 :
  ∃ (s : State) (p : Bool) (a b : ImageInfo),
    let i : Instr := .startStepComplete 0 p a b
    let n := s.dev.nextStep
    s.dev.cust.starting = true ∧
    s.dev.board.perst = false ∧
    s.dev.board.thermtrip = false ∧
    n ∈ [1, 2, 6, 7, 8, 9, 10] := by
  refine ⟨starting 0, false, {}, {}, ?_, ?_, ?_, ?_⟩
  all_goals decide +kernel

theorem wit_ResetsAndStarts_1_6 :
  ∃ (s : State) (p : Bool) (a b : ImageInfo),
    let i : Instr := .startStepComplete 0 p a b
    let n := s.dev.nextStep
    s.dev.cust.starting = true ∧
    s.dev.board.perst = false ∧
    s.dev.board.thermtrip = false ∧
    n = 3 ∧
    (a.readable = true ∨ b.readable = true) := by
  refine ⟨starting 2, false, {}, {}, ?_, ?_, ?_, ?_, ?_⟩
  all_goals decide +kernel

theorem wit_ResetsAndStarts_1_7 :
  ∃ (s : State) (p : Bool) (a b : ImageInfo),
    let i : Instr := .startStepComplete 0 p a b
    let n := s.dev.nextStep
    s.dev.cust.starting = true ∧
    s.dev.board.perst = false ∧
    s.dev.board.thermtrip = false ∧
    n = 3 ∧
    a.readable = false ∧
    b.readable = false := by
  refine ⟨starting 2, false, { readable := false }, { readable := false }, ?_, ?_, ?_, ?_, ?_, ?_⟩
  all_goals decide +kernel

theorem wit_ResetsAndStarts_1_8 :
  ∃ (s : State) (p : Bool) (a b : ImageInfo),
    let i : Instr := .startStepComplete 0 p a b
    let n := s.dev.nextStep
  ∃ c x,
    s.dev.cust.starting = true ∧
    s.dev.board.perst = false ∧
    s.dev.board.thermtrip = false ∧
    n = 4 ∧
    s.dev.chooseImage s.fuses = some (c, x) := by
  refine ⟨starting 3, false, {}, {}, _, _, ?_, ?_, ?_, ?_, rfl⟩
  all_goals decide +kernel

theorem wit_ResetsAndStarts_1_9 :
  ∃ (s : State) (p : Bool) (a b : ImageInfo),
    let i : Instr := .startStepComplete 0 p a b
    let n := s.dev.nextStep
    s.dev.cust.starting = true ∧
    s.dev.board.perst = false ∧
    s.dev.board.thermtrip = false ∧
    n = 4 ∧
    imageOk s.fuses s.dev.cust.flashA = false ∧
    imageOk s.fuses s.dev.cust.flashB = false := by
  refine ⟨onD (fun d => { d with cust := { d.cust with flashA := { signed := false }, flashB := { signed := false } } }) (starting 3), false, {}, {}, ?_, ?_, ?_, ?_, ?_, ?_⟩
  all_goals decide +kernel

theorem wit_ResetsAndStarts_1_10 :
  ∃ (s : State) (p : Bool) (a b : ImageInfo),
    let i : Instr := .startStepComplete 0 p a b
    let n := s.dev.nextStep
    s.dev.cust.starting = true ∧
    s.dev.board.perst = false ∧
    s.dev.board.thermtrip = false ∧
    n = 5 ∧
    s.dev.runningImage.patchTagOk = true := by
  refine ⟨starting 4, false, {}, {}, ?_, ?_, ?_, ?_, ?_⟩
  all_goals decide +kernel

theorem wit_ResetsAndStarts_1_11 :
  ∃ (s : State) (p : Bool) (a b : ImageInfo),
    let i : Instr := .startStepComplete 0 p a b
    let n := s.dev.nextStep
    s.dev.cust.starting = true ∧
    s.dev.board.perst = false ∧
    s.dev.board.thermtrip = false ∧
    n = 5 ∧
    s.dev.runningImage.patchTagOk = false := by
  refine ⟨onD (fun d => { d with cust := { d.cust with flashA := { patchTagOk := false }, flashB := { patchTagOk := false } } }) (starting 4), false, {}, {}, ?_, ?_, ?_, ?_, ?_⟩
  all_goals decide +kernel

theorem wit_ResetsAndStarts_2 :
  ∃ (s : State) (e : Fin 8) (p : Bool) (a b : ImageInfo),
    s.dev.cust.starting = true ∧
    s.dev.board.perst = false ∧
    s.dev.board.thermtrip = false ∧
    e ≠ 0 ∧
    errStep e = s.dev.nextStep := by
  refine ⟨starting 5, 5, false, {}, {}, ?_, ?_, ?_, ?_, ?_⟩
  all_goals decide +kernel

theorem wit_ResetsAndStarts_3 :
  ∃ (s : State) (k : WarmCause),
    s.dev.board.railsDropped = false ∧
    (k = .perst ∨ s.dev.board.linkUp = true) := by
  refine ⟨run [], .perst, ?_, ?_⟩
  all_goals decide +kernel

theorem wit_ResetsAndStarts_4 :
  ∃ s : State,
    s.dev.board.railsDropped = false := by
  refine ⟨run [], ?_⟩
  all_goals decide +kernel

theorem wit_ResetsAndStarts_5_0 :
  ∃ (s : State) (v : View) (m : BitVec 12),
  ∃ i < 12,
    ByCustody v offISLRST s ∧
    m.getLsbD i = true := by
  refine ⟨run [], .cwin, 1, 0, ?_, ?_, ?_⟩
  all_goals first | decide +kernel | (dsimp only [ByCustody, Calm]; decide +kernel)

theorem wit_ResetsAndStarts_5_1 :
  ∃ (s : State) (v : View) (m : BitVec 12),
  ∃ i < 12,
    ByCustody v offISLRST s ∧
    m.getLsbD i = false := by
  refine ⟨run [], .cwin, 1, 3, ?_, ?_, ?_⟩
  all_goals first | decide +kernel | (dsimp only [ByCustody, Calm]; decide +kernel)

theorem wit_ResetsAndStarts_5_2 :
  ∃ (s : State) (v : View) (m : BitVec 12),
    ByCustody v offISLRST s := by
  refine ⟨run [], .cwin, 1, ?_⟩
  all_goals first | decide +kernel | (dsimp only [ByCustody, Calm]; decide +kernel)

theorem wit_ResetsAndStarts_6 :
  ∃ (s : State) (v : View) (c : CoreId),
    ByCustody v offCORERST s := by
  refine ⟨run [], .cwin, 0, ?_⟩
  all_goals first | decide +kernel | (dsimp only [ByCustody, Calm]; decide +kernel)

theorem wit_ResetsAndStarts_8 :
  ∃ (s : State) (up half p : Bool) (n : SourceId),
    s.dev.inReset = true := by
  refine ⟨run [], true, true, false, 300, ?_⟩
  all_goals decide +kernel

theorem wit_ResetsAndStarts_9 :
  ∃ s : State,
    s.fum.on = false := by
  refine ⟨{ run [] with fum := { on := false } }, ?_⟩
  all_goals decide +kernel

theorem wit_CustodyServes_0 :
  ∃ (s : State) (v : View) (tag : Byte),
    Free' v s := by
  refine ⟨run [], .cwin, 5, ?_⟩
  all_goals first | decide +kernel | (dsimp only [Calm, Boxed, Free']; decide +kernel)

theorem wit_CustodyServes_1 :
  ∃ (s : State) (v : View) (tag : Byte),
    Boxed v s ∧
    s.dev.bit (mbStat (viewPf0 v)) 17 = true := by
  refine ⟨regAt offMBSTAT (2 ^ 17) (run []), .cwin, 5, ?_, ?_⟩
  all_goals first | decide +kernel | (dsimp only [Calm, Boxed]; decide +kernel)

theorem wit_CustodyServes_2 :
  ∃ (s : State) (v : View) (tag : Byte) (x : ImageInfo) (cb : Bool) (k : StackId) (ch : Fin 32) (row : Nat) (sn : Reg) (sl : Fin 4) (sg : Bool),
    Free' v s ∧
    viewPf0 v = true := by
  refine ⟨regAt offCUSTSTAT 10 (run []), .pf0, 5, {}, false, 0, 0, 0, 0, 0, true, ?_, ?_⟩
  all_goals first | decide +kernel | (dsimp only [Calm, Boxed, Free']; decide +kernel)

theorem wit_CustodyServes_3_0 :
  ∃ (s : State) (v : View) (tag : Byte),
    let img := s.dev.bit offCUSTSTAT 11
    let ready := s.dev.phase ≠ 15
  ∃ x,
    Free' v s ∧
    viewPf0 v = false ∧
    imageOk s.fuses x = true := by
  refine ⟨run [], .cwin, 5, {}, ?_, ?_, ?_⟩
  all_goals first | decide +kernel | (dsimp only [Calm, Boxed, Free']; decide +kernel)

theorem wit_CustodyServes_3_1 :
  ∃ (s : State) (v : View) (tag : Byte),
    let img := s.dev.bit offCUSTSTAT 11
    let ready := s.dev.phase ≠ 15
  ∃ x,
    Free' v s ∧
    viewPf0 v = false ∧
    imageOk s.fuses x = false := by
  refine ⟨run [], .cwin, 5, { signed := false }, ?_, ?_, ?_⟩
  all_goals first | decide +kernel | (dsimp only [Calm, Boxed, Free']; decide +kernel)

theorem wit_CustodyServes_3_2 :
  ∃ (s : State) (v : View) (tag : Byte),
    let img := s.dev.bit offCUSTSTAT 11
    let ready := s.dev.phase ≠ 15
    Free' v s ∧
    viewPf0 v = false ∧
    ready := by
  refine ⟨regAt offCUSTSTAT 10 (run []), .cwin, 5, ?_, ?_, ?_⟩
  all_goals first | decide +kernel | (dsimp only [Calm, Boxed, Free']; decide +kernel)

theorem wit_CustodyServes_3_3 :
  ∃ (s : State) (v : View) (tag : Byte),
    let img := s.dev.bit offCUSTSTAT 11
    let ready := s.dev.phase ≠ 15
  ∃ (k : StackId) (ch : Fin 32) (row : Nat),
    Free' v s ∧
    viewPf0 v = false ∧
    ready := by
  refine ⟨regAt offCUSTSTAT 10 (run []), .cwin, 5, 0, 0, 0, ?_, ?_, ?_⟩
  all_goals first | decide +kernel | (dsimp only [Calm, Boxed, Free']; decide +kernel)

theorem wit_CustodyServes_3_4 :
  ∃ (s : State) (v : View) (tag : Byte),
    let img := s.dev.bit offCUSTSTAT 11
    let ready := s.dev.phase ≠ 15
    Free' v s ∧
    viewPf0 v = false ∧
    ready := by
  refine ⟨regAt offCUSTSTAT 10 (run []), .cwin, 5, ?_, ?_, ?_⟩
  all_goals first | decide +kernel | (dsimp only [Calm, Boxed, Free']; decide +kernel)

theorem wit_CustodyServes_3_5 :
  ∃ (s : State) (v : View) (tag : Byte),
    let img := s.dev.bit offCUSTSTAT 11
    let ready := s.dev.phase ≠ 15
    Free' v s ∧
    viewPf0 v = false := by
  refine ⟨regAt offCUSTSTAT 10 (run []), .cwin, 5, ?_, ?_⟩
  all_goals first | decide +kernel | (dsimp only [Calm, Boxed, Free']; decide +kernel)

theorem wit_CustodyServes_4_0 :
  ∃ (s : State) (c : CoreId),
    s.dev.active = true ∧
    s.dev.cust.mcRun = true ∧
    (s.dev.core c).mcWait = true ∧
    (s.dev.core c).micro = none ∧
    (s.dev.core c).ext = [] ∧
    (s.dev.core c).entry = none ∧
    (∀ j < 96, j ≠ c.val → (s.dev.core j).mcWait = false) := by
  refine ⟨onD (fun d => { d with cust := { d.cust with mcRun := true } }) (core0 (fun k => { k with mcWait := true }) (run [])), 0, ?_, ?_, ?_, ?_, ?_, ?_, (by decide +revert)⟩
  all_goals decide +kernel

theorem wit_CustodyServes_4_1 :
  ∃ (s : State) (c : CoreId),
    s.dev.active = true ∧
    s.dev.cust.mcRun = true ∧
    (s.dev.core c).mcWait = true ∧
    (s.dev.core c).micro = none ∧
    (s.dev.core c).ext = [] ∧
    (s.dev.core c).entry = none := by
  refine ⟨onD (fun d => { d with cust := { d.cust with mcRun := true } }) (core0 (fun k => { k with mcWait := true }) (run [])), 0, ?_, ?_, ?_, ?_, ?_, ?_⟩
  all_goals decide +kernel

theorem wit_CustodyServes_5 :
  ∃ (s : State) (v : View) (b : LockBlock),
    ByCustody v (lockReg b) s := by
  refine ⟨run [], .cwin, .faultHub, ?_⟩
  all_goals first | decide +kernel | (dsimp only [ByCustody, Calm]; decide +kernel)

theorem wit_CustodyServes_6_0 :
  ∃ (s : State) (t : TapOp),
    let open' := s.dev.debugLocked = false
    let ok := match t with
      | .idcode | .bypass | .samplePreload => True
      | .extest => s.dev.board.perst = true
      | .ieee1500 => open'
      | .bist => open' ∧ s.dev.board.perst = true
    s.dev.board.railsDropped = false ∧
    ok := by
  refine ⟨run [], .idcode, ?_, ?_⟩
  all_goals decide +kernel

theorem wit_CustodyServes_6_1 :
  ∃ (s : State) (t : TapOp),
    let open' := s.dev.debugLocked = false
    let ok := match t with
      | .idcode | .bypass | .samplePreload => True
      | .extest => s.dev.board.perst = true
      | .ieee1500 => open'
      | .bist => open' ∧ s.dev.board.perst = true
    s.dev.board.railsDropped = false ∧
    ¬ ok := by
  refine ⟨run [], .extest, ?_, ?_⟩
  all_goals decide +kernel

theorem wit_CustodyServes_7_0 :
  ∃ (s : State) (a : BitVec 44) (cs : List Cell) (n : Nat) (busy : Bool),
    let ps := s.dev.physN a.toNat n
    let qs := s.dev.physN a.toNat cs.length
    let free (l : List PLoc) : Prop := s.dev.postQueued l = false ∧ ∀ p ∈ l, p.isLocal = true ∨ s.dev.bankHeld p.addr = false
    s.dev.debugLocked = true := by
  refine ⟨run [], 0, [], 4, false, ?_⟩
  all_goals decide +kernel

theorem wit_CustodyServes_7_1 :
  ∃ (s : State) (a : BitVec 44) (cs : List Cell) (n : Nat) (busy : Bool),
    let ps := s.dev.physN a.toNat n
    let qs := s.dev.physN a.toNat cs.length
    let free (l : List PLoc) : Prop := s.dev.postQueued l = false ∧ ∀ p ∈ l, p.isLocal = true ∨ s.dev.bankHeld p.addr = false
    let d := (now s).readLines ps
    s.dev.debugLocked = false ∧
    s.dev.active = true ∧
    (∀ p ∈ ps, s.dev.debugReach p.addr = true) ∧
    free ps ∧
    (busy = false ∨ ∀ p ∈ ps, p.isLocal = true) := by
  refine ⟨onD (fun d => { d with cust := { d.cust with debugOpen := true } }) (run []), 64, [], 4, false, ?_, ?_, ?_, ?_, ?_⟩
  all_goals decide +kernel

theorem wit_CustodyServes_7_2 :
  ∃ (s : State) (a : BitVec 44) (cs : List Cell) (n : Nat) (busy : Bool),
    let ps := s.dev.physN a.toNat n
    let qs := s.dev.physN a.toNat cs.length
    let free (l : List PLoc) : Prop := s.dev.postQueued l = false ∧ ∀ p ∈ l, p.isLocal = true ∨ s.dev.bankHeld p.addr = false
    s.dev.debugLocked = false ∧
    s.dev.active = true ∧
    (∀ p ∈ qs, s.dev.debugReach p.addr = true) ∧
    free qs ∧
    (∀ p ∈ qs, s.dev.ownCheck p.addr 6 = .ok) := by
  refine ⟨onD (fun d => { d with cust := { d.cust with debugOpen := true } }) (run []), 64, [1, 2], 4, false, ?_, ?_, ?_, ?_, ?_⟩
  all_goals decide +kernel

theorem wit_CustodyServes_7_3 :
  ∃ (s : State) (a : BitVec 44) (cs : List Cell) (n : Nat) (busy : Bool),
    let ps := s.dev.physN a.toNat n
    let qs := s.dev.physN a.toNat cs.length
    let free (l : List PLoc) : Prop := s.dev.postQueued l = false ∧ ∀ p ∈ l, p.isLocal = true ∨ s.dev.bankHeld p.addr = false
    s.dev.debugLocked = false ∧
    s.dev.active = true ∧
    (∀ p ∈ qs, s.dev.debugReach p.addr = true) ∧
    free qs ∧
    (∃ p ∈ qs, s.dev.ownCheck p.addr 6 = .refused) := by
  refine ⟨onD (fun d => { d with cust := { d.cust with debugOpen := true } }) (run []), 2 ^ 43, [1, 2], 4, false, ?_, ?_, ?_, ?_, ?_⟩
  all_goals decide +kernel

theorem wit_CustodyServes_7_4 :
  ∃ (s : State) (a : BitVec 44) (cs : List Cell) (n : Nat) (busy : Bool),
    let ps := s.dev.physN a.toNat n
    let qs := s.dev.physN a.toNat cs.length
    let free (l : List PLoc) : Prop := s.dev.postQueued l = false ∧ ∀ p ∈ l, p.isLocal = true ∨ s.dev.bankHeld p.addr = false
    s.dev.debugLocked = false ∧
    (∀ p ∈ qs, s.dev.debugReach p.addr = true) ∧
    (∀ p ∈ qs, s.dev.ownCheck p.addr 6 ≠ .refused) ∧
    (∃ p ∈ qs, s.dev.ownCheck p.addr 6 = .waits) := by
  refine ⟨onD (fun d => { d with cust := { d.cust with debugOpen := true } }.updIsl 0 fun x => { x with heldBanks := upto 16 }) (run []), 2 ^ 43, [1, 2], 4, false, ?_, ?_, ?_, ?_⟩
  all_goals decide +kernel

theorem wit_CustodyServes_7_5 :
  ∃ (s : State) (a : BitVec 44) (cs : List Cell) (n : Nat) (busy : Bool),
    let ps := s.dev.physN a.toNat n
    let qs := s.dev.physN a.toNat cs.length
    let free (l : List PLoc) : Prop := s.dev.postQueued l = false ∧ ∀ p ∈ l, p.isLocal = true ∨ s.dev.bankHeld p.addr = false
    s.dev.debugLocked = false ∧
    s.dev.active = true ∧
    (∀ p ∈ ps, s.dev.debugReach p.addr = true) ∧
    free ps ∧
    busy = true ∧
    (∃ p ∈ ps, p.isLocal = false) := by
  refine ⟨onD (fun d => { d with cust := { d.cust with debugOpen := true } }) (run []), 2 ^ 43, [], 4, true, ?_, ?_, ?_, ?_, ?_, ?_⟩
  all_goals decide +kernel

theorem wit_CustodyServes_7_6 :
  ∃ (s : State) (a : BitVec 44) (cs : List Cell) (n : Nat) (busy : Bool),
    let ps := s.dev.physN a.toNat n
    let qs := s.dev.physN a.toNat cs.length
    let free (l : List PLoc) : Prop := s.dev.postQueued l = false ∧ ∀ p ∈ l, p.isLocal = true ∨ s.dev.bankHeld p.addr = false
  ∃ p,
    s.dev.debugLocked = false ∧
    (ps.find? fun p => !s.dev.debugReach p.addr) = some p := by
  refine ⟨onD (fun d => { d with cust := { d.cust with debugOpen := true } }) (run []), BitVec.ofNat 44 hostWinBase, [], 4, false, ((run []).dev.physN (BitVec.ofNat 44 hostWinBase).toNat 4).headD { addr := 0 }, ?_, ?_⟩
  all_goals decide +kernel

theorem wit_CustodyServes_8 :
  ∃ (s : State) (t : Transport) (b : Byte),
    let ks := if b = 0xFF then [1, 2, 3, 4, 5, 6] else [b.toNat]
    s.dev.custodyUp = true ∧
    (t = .pcieVdm → s.dev.board.linkUp = true) ∧
    (b = 0xFF ∨ (1 ≤ b.toNat ∧ b.toNat ≤ 6)) := by
  refine ⟨regAt offCUSTSTAT 10 (run []), .smbus, 2, ?_, ?_, ?_⟩
  all_goals decide +kernel

theorem wit_CustodyServes_9 :
  ∃ (s : State) (f : Bool),
    let shows (k : CfgField) (v : Nat) : Prop := exec (.configurationRequest f (.read k)) s = .next (withDev s ((now s).send (.cfgData (BitVec.ofNat 32 v))))
    s.dev.board.perst = false ∧
    s.dev.board.railsDropped = false ∧
    s.dev.board.thermtrip = false ∧
    s.dev.board.linkUp = true := by
  refine ⟨run [], true, ?_, ?_, ?_, ?_⟩
  all_goals decide +kernel

theorem wit_PowerAndTimeAreKept_0_0 :
  ∃ (s : State) (v : View),
    let refuses (n : Nat) : Prop := Lands (.dormantRequest v) s fun d => d.fld offPWRSTAT 11 8 = n ∧ d.board.dormant = false
    let paired := s.dev.pair = 1 ∨ s.dev.pair = 2
    let streams := ∃ x ∈ s.dev.islands, x.2.ctxs ≠ []
    ByCustody v offPWRCTL s ∧
    s.dev.board.dormant = false ∧
    paired := by
  refine ⟨regAt offSNSTAT (2 ^ 28) (run []), .cwin, ?_, ?_, ?_⟩
  all_goals first | decide +kernel | (dsimp only [ByCustody, Calm]; decide +kernel)

theorem wit_PowerAndTimeAreKept_0_1 :
  ∃ (s : State) (v : View),
    let refuses (n : Nat) : Prop := Lands (.dormantRequest v) s fun d => d.fld offPWRSTAT 11 8 = n ∧ d.board.dormant = false
    let paired := s.dev.pair = 1 ∨ s.dev.pair = 2
    let streams := ∃ x ∈ s.dev.islands, x.2.ctxs ≠ []
    ByCustody v offPWRCTL s ∧
    s.dev.board.dormant = false ∧
    ¬ paired ∧
    streams := by
  refine ⟨stream fun x => x, .cwin, ?_, ?_, ?_, ?_⟩
  all_goals first | decide +kernel | (dsimp only [ByCustody, Calm]; decide +kernel)

theorem wit_PowerAndTimeAreKept_0_2 :
  ∃ (s : State) (v : View),
    let refuses (n : Nat) : Prop := Lands (.dormantRequest v) s fun d => d.fld offPWRSTAT 11 8 = n ∧ d.board.dormant = false
    let paired := s.dev.pair = 1 ∨ s.dev.pair = 2
    let streams := ∃ x ∈ s.dev.islands, x.2.ctxs ≠ []
    ByCustody v offPWRCTL s ∧
    s.dev.board.dormant = false ∧
    ¬ paired ∧
    ¬ streams ∧
    s.dev.quiet = false := by
  refine ⟨core0 (fun k => { k with posts := [{ id := 3, slot := none, bank := 0, gs := none, gr := none, first := 0, n := 4 }] }) (run []), .cwin, ?_, ?_, ?_, ?_, ?_⟩
  all_goals first | decide +kernel | (dsimp only [ByCustody, Calm]; decide +kernel)

theorem wit_PowerAndTimeAreKept_0_3 :
  ∃ (s : State) (v : View),
    let refuses (n : Nat) : Prop := Lands (.dormantRequest v) s fun d => d.fld offPWRSTAT 11 8 = n ∧ d.board.dormant = false
    let paired := s.dev.pair = 1 ∨ s.dev.pair = 2
    let streams := ∃ x ∈ s.dev.islands, x.2.ctxs ≠ []
    ByCustody v offPWRCTL s ∧
    s.dev.board.dormant = false ∧
    s.dev.dormantRefusal = 0 := by
  refine ⟨run [], .cwin, ?_, ?_, ?_⟩
  all_goals first | decide +kernel | (dsimp only [ByCustody, Calm]; decide +kernel)

theorem wit_PowerAndTimeAreKept_1_0 :
  ∃ (s : State) (ns : Nat),
    1000 ≤ ns ∧
    s.dev.board.dormant = true := by
  refine ⟨onD (fun d => { d with board := { d.board with dormant := true } }) (run []), 1000, ?_, ?_⟩
  all_goals decide +kernel

theorem wit_PowerAndTimeAreKept_1_1 :
  ∃ (s : State) (ns : Nat),
    ns < 1000 := by
  refine ⟨run [], 999, ?_⟩
  all_goals decide +kernel

theorem wit_PowerAndTimeAreKept_2 :
  ∃ s : State,
    s.dev.board.dormant = true ∧
    pwrState s.dev = 2 := by
  refine ⟨regAt offPWRSTAT 2 (onD (fun d => { d with board := { d.board with dormant := true } }) (run [])), ?_, ?_⟩
  all_goals decide +kernel

theorem wit_PowerAndTimeAreKept_3_0 :
  ∃ (s : State) (i : IslandId),
    let idle := s.dev.bit (offISLCLK i) 8 = true ∧ (s.dev.isl i).running = none ∧ (s.dev.isl i).order = [] ∧ (s.dev.isl i).atomics = [] ∧ ∀ c, c / 8 = i.val → ((s.dev.core c).idle = true ∨ (s.dev.core c).fenced = true) ∧ (s.dev.core c).sbuf = []
    s.dev.active = true ∧
    idle := by
  refine ⟨onD (fun d => { d with cores := d.cores ++ (upto 8).map fun i => (24 + i, { idle := true }) }) (run []), 3, ?_, ⟨by decide +kernel, by decide +kernel, by decide +kernel, by decide +kernel, by intro c h; rcases (by have h : c / 8 = 3 := h; omega : c = 24 ∨ c = 25 ∨ c = 26 ∨ c = 27 ∨ c = 28 ∨ c = 29 ∨ c = 30 ∨ c = 31) with rfl | rfl | rfl | rfl | rfl | rfl | rfl | rfl <;> decide +kernel⟩⟩
  all_goals decide +kernel

theorem wit_PowerAndTimeAreKept_3_1 :
  ∃ (s : State) (i : IslandId),
    let idle := s.dev.bit (offISLCLK i) 8 = true ∧ (s.dev.isl i).running = none ∧ (s.dev.isl i).order = [] ∧ (s.dev.isl i).atomics = [] ∧ ∀ c, c / 8 = i.val → ((s.dev.core c).idle = true ∨ (s.dev.core c).fenced = true) ∧ (s.dev.core c).sbuf = []
    ¬ idle := by
  exact ⟨regAt (offISLCLK 3) 22 (run []), 3, fun h => absurd h.1 (by decide +kernel)⟩

theorem wit_PowerAndTimeAreKept_4 :
  ∃ (s : State) (v : View) (i : IslandId) (x : Reg),
    ByCustody v (offISLCLK i) s := by
  refine ⟨run [], .cwin, 3, 31, ?_⟩
  all_goals first | decide +kernel | (dsimp only [ByCustody, Calm]; decide +kernel)

theorem wit_PowerAndTimeAreKept_6_0 :
  ∃ (s : State) (stack : Bool) (t : Int),
    (if stack = false ∧ s.dev.xgrade = true then 220 else 210) ≤ t ∧
    s.dev.board.railsDropped = false ∧
    Gasps s.dev := by
  refine ⟨regAt offSNSTAT (2 * 2 ^ 28) (run []), false, 220, ?_, ?_, ?_⟩
  all_goals first | decide +kernel | (dsimp only [Gasps]; decide +kernel)

theorem wit_PowerAndTimeAreKept_6_1 :
  ∃ (s : State) (stack : Bool) (t : Int),
    (if stack = false ∧ s.dev.xgrade = true then 220 else 210) ≤ t ∧
    s.dev.board.railsDropped = false ∧
    ¬ Gasps s.dev := by
  refine ⟨run [], false, 220, ?_, ?_, ?_⟩
  all_goals first | decide +kernel | (dsimp only [Gasps]; decide +kernel)

theorem wit_PowerAndTimeAreKept_6_2 :
  ∃ (s : State) (stack : Bool) (t : Int),
    (if stack = false ∧ s.dev.xgrade = true then 220 else 210) ≤ t ∧
    s.dev.board.railsDropped = false := by
  refine ⟨run [], false, 220, ?_, ?_⟩
  all_goals decide +kernel

theorem wit_PowerAndTimeAreKept_7_0 :
  ∃ (s : State) (n : Fin 16),
    let p := s.dev.fld (offFCMPC n) 63 32
    let i : Instr := .comparatorMatch n
    s.dev.bit (offFCMPC n) 0 = true ∧
    s.dev.rd (offFCMPT n) ≤ s.fum.time ∧
    s.fum.time + p < 2 ^ 64 ∧
    s.dev.board.railsDropped = false ∧
    s.dev.bit (offFCMPC n) 1 = true := by
  refine ⟨regAt (offFCMPC 2) 3 (run []), 2, ?_, ?_, ?_, ?_, ?_⟩
  all_goals decide +kernel

theorem wit_PowerAndTimeAreKept_7_1 :
  ∃ (s : State) (n : Fin 16),
    let p := s.dev.fld (offFCMPC n) 63 32
    let i : Instr := .comparatorMatch n
    s.dev.bit (offFCMPC n) 0 = true ∧
    s.dev.rd (offFCMPT n) ≤ s.fum.time ∧
    s.fum.time + p < 2 ^ 64 ∧
    s.dev.board.railsDropped = false ∧
    s.dev.bit (offFCMPC n) 3 = true ∧
    s.dev.board.dormant = true := by
  refine ⟨regAt (offFCMPC 2) 9 (onD (fun d => { d with board := { d.board with dormant := true } }) (run [])), 2, ?_, ?_, ?_, ?_, ?_, ?_⟩
  all_goals decide +kernel

theorem wit_PowerAndTimeAreKept_7_2 :
  ∃ (s : State) (n : Fin 16),
    let p := s.dev.fld (offFCMPC n) 63 32
    let i : Instr := .comparatorMatch n
    s.dev.bit (offFCMPC n) 0 = true ∧
    s.dev.rd (offFCMPT n) ≤ s.fum.time ∧
    s.fum.time + p < 2 ^ 64 ∧
    s.dev.board.railsDropped = false := by
  refine ⟨regAt (offFCMPC 2) (7 * 2 ^ 32 + 1) (run []), 2, ?_, ?_, ?_, ?_⟩
  all_goals decide +kernel

theorem wit_PowerAndTimeAreKept_7_3 :
  ∃ (s : State) (n : Fin 16),
    let p := s.dev.fld (offFCMPC n) 63 32
    let i : Instr := .comparatorMatch n
  ∃ c sl,
    s.dev.bit (offFCMPC n) 0 = true ∧
    s.dev.rd (offFCMPT n) ≤ s.fum.time ∧
    s.fum.time + p < 2 ^ 64 ∧
    s.dev.board.railsDropped = false ∧
    bitsOf (s.dev.rd (offFCMPC n)) 3 1 = 2 ∧
    s.dev.fld (offFCMPC n) 23 17 = c ∧
    s.dev.fld (offFCMPC n) 16 11 = sl ∧
    c < 96 ∧
    (n.val < 8 → ((s.dev.core c).slot sl).world = false) := by
  refine ⟨regAt (offFCMPC 2) (2 ^ 11 + 5) (run []), 2, 0, 1, ?_, ?_, ?_, ?_, ?_, ?_, ?_, ?_, ?_⟩
  all_goals decide +kernel

theorem wit_PowerAndTimeAreKept_7_4 :
  ∃ (s : State) (n : Fin 16),
    let p := s.dev.fld (offFCMPC n) 63 32
    let i : Instr := .comparatorMatch n
    s.dev.bit (offFCMPC n) 0 = true ∧
    s.dev.rd (offFCMPT n) ≤ s.fum.time ∧
    s.fum.time + p < 2 ^ 64 ∧
    s.dev.board.railsDropped = true ∧
    p = 0 := by
  refine ⟨regAt (offFCMPC 2) 3 (onD (fun d => { d with board := { d.board with railsDropped := true } }) (run [])), 2, ?_, ?_, ?_, ?_, ?_⟩
  all_goals decide +kernel

theorem wit_PowerAndTimeAreKept_7_5 :
  ∃ (s : State) (n : Fin 16),
    let p := s.dev.fld (offFCMPC n) 63 32
    let i : Instr := .comparatorMatch n
    s.dev.bit (offFCMPC n) 0 = true ∧
    s.dev.rd (offFCMPT n) ≤ s.fum.time ∧
    s.fum.time + p < 2 ^ 64 ∧
    s.dev.board.railsDropped = true := by
  refine ⟨regAt (offFCMPC 2) 3 (onD (fun d => { d with board := { d.board with railsDropped := true } }) (run [])), 2, ?_, ?_, ?_, ?_⟩
  all_goals decide +kernel

theorem wit_PowerAndTimeAreKept_8_0 :
  ∃ (s : State) (k : Fin 4) (x : BitVec 10),
    let th := s.dev.fld (offFANA k) 9 0
    let hy := s.dev.fld (offFANA k) 25 16
    let crossed := if s.dev.bit (offFANA k) 30 then x.toNat < th else th < x.toNat
    let back := if s.dev.bit (offFANA k) 30 then th + hy ≤ x.toNat else x.toNat + hy ≤ th
    let i : Instr := .analogAlarm k x
    s.dev.bit (offFANA k) 31 = false ∧
    crossed := by
  refine ⟨regAt (offFANA 3) 100 (run []), 3, 200, ?_, ?_⟩
  all_goals decide +kernel

theorem wit_PowerAndTimeAreKept_8_1 :
  ∃ (s : State) (k : Fin 4) (x : BitVec 10),
    let th := s.dev.fld (offFANA k) 9 0
    let hy := s.dev.fld (offFANA k) 25 16
    let crossed := if s.dev.bit (offFANA k) 30 then x.toNat < th else th < x.toNat
    let back := if s.dev.bit (offFANA k) 30 then th + hy ≤ x.toNat else x.toNat + hy ≤ th
    let i : Instr := .analogAlarm k x
    s.dev.bit (offFANA k) 31 = true ∧
    back := by
  refine ⟨regAt (offFANA 3) (2 ^ 31 + 0x3FF) (run []), 3, 0x3FF, ?_, ?_⟩
  all_goals decide +kernel

theorem wit_PowerAndTimeAreKept_8_2 :
  ∃ (s : State) (k : Fin 4) (x : BitVec 10),
    let th := s.dev.fld (offFANA k) 9 0
    let hy := s.dev.fld (offFANA k) 25 16
    let crossed := if s.dev.bit (offFANA k) 30 then x.toNat < th else th < x.toNat
    let back := if s.dev.bit (offFANA k) 30 then th + hy ≤ x.toNat else x.toNat + hy ≤ th
    let i : Instr := .analogAlarm k x
    ¬ (if s.dev.bit (offFANA k) 31 then back else crossed) := by
  refine ⟨regAt (offFANA 3) 0x3FF (run []), 3, 0x3FF, ?_⟩
  all_goals decide +kernel

theorem wit_PowerAndTimeAreKept_9_0 :
  ∃ s : State,
    s.dev.bit offFWD 16 = true ∧
    s.fum.wdLeft = 0 ∧
    s.dev.board.wdExpired = false := by
  refine ⟨regAt offFWD (2 ^ 16 + 5) { run [] with fum := { wdLeft := 0 } }, ?_, ?_, ?_⟩
  all_goals decide +kernel

theorem wit_PowerAndTimeAreKept_9_1 :
  ∃ s : State,
    s.dev.bit offFWD 16 = true ∧
    s.fum.wdLeft = 0 ∧
    s.dev.board.wdExpired = true ∧
    Fresh .custodyCore s.dev := by
  refine ⟨regAt offFWD (2 ^ 16 + 5) (onD (fun d => { d with board := { d.board with wdExpired := true } }) { run [] with fum := { wdLeft := 0 } }), ?_, ?_, ?_, ?_⟩
  all_goals first | decide +kernel | (dsimp only [Fresh]; decide +kernel)

theorem wit_PowerAndTimeAreKept_9_2 :
  ∃ s : State,
    s.dev.bit offFWD 16 = true ∧
    s.fum.wdLeft = 0 := by
  refine ⟨regAt offFWD (2 ^ 16 + 5) { run [] with fum := { wdLeft := 0 } }, ?_, ?_⟩
  all_goals decide +kernel

theorem wit_PowerAndTimeAreKept_10 :
  ∃ (s : State) (v : View) (x : Byte),
    ByCustody v offFWD s := by
  refine ⟨run [], .cwin, 0xA5, ?_⟩
  all_goals first | decide +kernel | (dsimp only [ByCustody, Calm]; decide +kernel)

theorem wit_PowerAndTimeAreKept_11 :
  ∃ (s : State) (v : View) (x : BitVec 32),
    ByCustody v offFTBADJ s := by
  refine ⟨run [], .cwin, 7, ?_⟩
  all_goals first | decide +kernel | (dsimp only [ByCustody, Calm]; decide +kernel)

theorem wit_PowerAndTimeAreKept_12_0 :
  ∃ (s : State) (k : RefClock),
    k = .sysclk ∧
    s.dev.active = true := by
  refine ⟨run [], .sysclk, ?_, ?_⟩
  all_goals decide +kernel

theorem wit_PowerAndTimeAreKept_12_1 :
  ∃ (s : State) (k : RefClock),
    k = .pcie ∧
    s.dev.board.linkUp = true := by
  refine ⟨run [], .pcie, ?_, ?_⟩
  all_goals decide +kernel

theorem wit_PowerAndTimeAreKept_12_2 :
  ∃ (s : State) (k : RefClock),
    k = .eth := by
  refine ⟨run [], .eth, ?_⟩
  all_goals decide +kernel

theorem wit_PowerAndTimeAreKept_13_0 :
  ∃ (s : State) (c : CoreId),
    Probed (offDBGC c) s ∧
    s.dev.bit (offDBGC c) 1 = true ∧
    s.dev.bit (offDBGC c) 0 = true := by
  refine ⟨onD (fun d => { d with cust := { d.cust with debugOpen := true } }) (regAt (offDBGC 3) 3 (run [])), 3, ?_, ?_, ?_⟩
  all_goals first | decide +kernel | (dsimp only [ByCustody, Calm, Probed]; decide +kernel)

theorem wit_PowerAndTimeAreKept_13_1 :
  ∃ (s : State) (c : CoreId),
    Probed (offDBGC c) s := by
  refine ⟨onD (fun d => { d with cust := { d.cust with debugOpen := true } }) (run []), 3, ?_⟩
  all_goals first | decide +kernel | (dsimp only [ByCustody, Calm, Probed]; decide +kernel)

theorem wit_PowerAndTimeAreKept_14 :
  ∃ (s : State) (i : IslandId),
    Probed (offTRCTL i) s := by
  refine ⟨onD (fun d => { d with cust := { d.cust with debugOpen := true } }) (run []), 3, ?_⟩
  all_goals first | decide +kernel | (dsimp only [ByCustody, Calm, Probed]; decide +kernel)

theorem wit_RegisterWritesComplete_1 :
  ∃ (s : State) (v : View) (off : BitVec 28) (x : Reg),
    (now s).answers v off.toNat = true ∧
    Calm s ∧
    off.toNat % 8 = 0 ∧
    (off.toNat < 0x1F00000 ∨ 0x2000000 ≤ off.toNat) ∧
    mbData v off.toNat = none ∧
    regFields (regKey v off.toNat) = none ∧
    offVoid off.toNat = false := by
  refine ⟨run [], .cwin, 0x3F000, 5, ?_, ?_, ?_, ?_, ?_, ?_, ?_⟩
  all_goals first | decide +kernel | (dsimp only [Calm]; decide +kernel)

theorem wit_RegisterWritesComplete_2 :
  ∃ (s : State) (off : BitVec 28) (n : Fin 9) (x : Reg) (o : Nat),
    let key := off.toNat / 8 * 8
    (now s).answers .pf0 off.toNat = true ∧
    Calm s ∧
    (n.val = 8 ∨ n.val = 4) ∧
    off.toNat % n.val = 0 ∧
    off.toNat < 0x20000 ∧
    (∀ m < 1024, key ≠ offISRC m ∨ s.dev.bit (offISRC m) 60 = true) ∧
    (∀ f ∈ (regFields key).getD [], f.w0 = true → ∃ m < 1024, key = offISRC m) ∧
    o < 0x30000 ∧
    (∀ m < 1024, o ≠ offISRC m) := by
  refine ⟨regAt offCUSTSTAT 10 (run []), 0x3100, 8, 5, offCUSTSTAT, ?_, ?_, ?_, ?_, ?_, ?_, ?_, ?_, (by intro m hm h; have h : 139264 = 0x8000 + 8 * m := h; omega)⟩
  all_goals first | decide +kernel | (dsimp only [Calm]; decide +kernel)

theorem wit_RegisterWritesComplete_3 :
  ∃ (s : State) (v : View) (x : Reg),
    ByCustody v offRSTVEC s ∧
    x.toNat < 2 ^ 36 := by
  refine ⟨run [], .cwin, 5, ?_, ?_⟩
  all_goals first | decide +kernel | (dsimp only [ByCustody, Calm]; decide +kernel)

theorem wit_IntegerInstructionsKeepTheRest_0 :
  ∀ r ∈ oneSource,
  ∃ (s : State) (c : CoreId) (ob : BitVec 6) (a e : Spec) (x : Nat) (dst : Dst) (upd : AMap Word) (d1 d2 : Dev),
    let i : Ins := { c := c, op := r.op, ob := ob.toNat, specs := [a, e] }
    let n := widthCells ob
    let v := r.val (bits ob) x
    let cs := natCells n v.1
    Ready i (now s) ∧
    (ob.toNat % 16 = 0 ∧ r.ok ob = true ∧ okIntSrc n a = true ∧ okIntDst n e = true) ∧
    One c n a e (now s) x dst upd d1 ∧
    Writes c upd dst cs d1 d2 ∧
    NoTrap c v.2 d2 ∧
    Plain c (dstBlocks cs dst) d1 := by
  intro r hr
  simp only [oneSource, List.mem_cons, List.not_mem_nil, or_false] at hr
  rcases hr with rfl | rfl | rfl | rfl | rfl | rfl
  all_goals refine ⟨run [(1, 7)], 0, 32, reg 1, reg 2, _, _, _, _, _, ready ?_, ?_, ⟨_, _, gives₂ ?_, gives₂ ?_⟩, writes ?_ ?_, noTrap ?_, ?_⟩
  all_goals first | decide +kernel | (dsimp only [Ready, NoTrap, Plain]; decide +kernel)

theorem wit_IntegerInstructionsKeepTheRest_1 :
  ∀ r ∈ twoSources,
  ∃ (s : State) (c : CoreId) (ob : BitVec 6) (a b e : Spec) (x y : Nat) (dst : Dst) (upd : AMap Word) (d1 d2 : Dev),
    let i : Ins := { c := c, op := r.op, ob := ob.toNat, specs := [a, b, e] }
    let n := widthCells ob
    let nb := if r.word then 4 else n
    let v := r.val (bits ob) x y
    let cs := natCells n v.1
    Ready i (now s) ∧
    (ob.toNat % 16 = 0 ∧ r.ok ob = true ∧ okIntSrc n a = true ∧ okIntSrc nb b = true ∧ okIntDst n e = true) ∧
    Two c n nb a b e (now s) x y dst upd d1 ∧
    Writes c upd dst cs d1 d2 ∧
    NoTrap c v.2 d2 ∧
    Plain c (dstBlocks cs dst) d1 := by
  intro r hr
  simp only [twoSources, List.mem_cons, List.not_mem_nil, or_false] at hr
  rcases hr with rfl | rfl | rfl | rfl | rfl | rfl | rfl | rfl | rfl | rfl | rfl | rfl | rfl | rfl
  all_goals first
    | (refine ⟨run [(1, 7), (2, 9)], 0, 32, reg 1, reg 2, reg 3, _, _, _, _, _, _, ready ?_, ?_, ⟨_, _, ⟨_, _, gives₂ ?_, gives₂ ?_⟩, gives₂ ?_⟩, writes ?_ ?_, noTrap ?_, ?_⟩ <;> (first | decide +kernel | (dsimp only [Ready, NoTrap, Plain]; decide +kernel)))
    | (refine ⟨run [(1, 7), (2, 9)], 0, 48, reg 2, reg 4, reg 6, _, _, _, _, _, _, ready ?_, ?_, ⟨_, _, ⟨_, _, gives₂ ?_, gives₂ ?_⟩, gives₂ ?_⟩, writes ?_ ?_, noTrap ?_, ?_⟩ <;> (first | decide +kernel | (dsimp only [Ready, NoTrap, Plain]; decide +kernel)))

theorem wit_IntegerInstructionsKeepTheRest_2 :
  ∀ r ∈ compares,
  ∃ (s : State) (c : CoreId) (ob : BitVec 6) (a b e : Spec) (x y : Nat) (upd : AMap Word) (d1 d2 : Dev),
    let i : Ins := { c := c, op := r.op, ob := ob.toNat, specs := [a, b, e] }
    let n := widthCells ob
    Ready i (now s) ∧
    (ob.toNat % 16 = 0 ∧ okIntSrc n a = true ∧ okIntSrc n b = true ∧ okReg e = true) ∧
    Sources c n n a b (now s) x y upd d1 ∧
    WritesG c upd e.reg.toNat (if r.holds (bits ob) x y then 1 else 0) d1 d2 ∧
    Plain c 0 d1 := by
  intro r hr
  simp only [compares, List.mem_cons, List.not_mem_nil, or_false] at hr
  rcases hr with rfl | rfl | rfl | rfl | rfl | rfl | rfl
  all_goals refine ⟨run [(1, 7), (2, 9)], 0, 32, reg 1, reg 2, reg 3, _, _, _, _, _, ready ?_, ?_, ⟨_, _, gives₂ ?_, gives₂ ?_⟩, writesG ?_ ?_, ?_⟩
  all_goals first | decide +kernel | (dsimp only [Ready, Plain]; decide +kernel)

theorem wit_EntriesAreTaken_0 :
  ∃ (c : Nat) (v : Delivery) (d d1 d2 d3 : Dev) (cs : List Cell) (sg : SegReg) (x : SegDesc) (ps : List PLoc),
    let d0 := d.updCore c Core.flushExp
    let k := d0.core c
    let ws := cellsWords cs
    let w0 := (ws.getD 0 0).toNat
    let l := v.level.getD (bitsOf w0 30 28)
    let n := if v.micro.isSome then 18 else 12
    let own := bitsOf w0 15 0 = 0
    let top := if own then (k.gr 15).toNat else (ws.getD 2 0).toNat
    let base := (top + 2 ^ 36 - 4 * n) % 2 ^ 36
    let u := match v.micro with | some u => (u.upc.toNat, u.ck.toNat) | none => (0, 0)
    (d.core c).plev ≠ 7 ∧
    v.vec ≠ 41 ∧
    Gives (readLin c v.world {} ((k.wr v.world).hdtb.toNat * 4096 + 16 * v.vec) 16) d0 cs d1 ∧
    hdtOk ws v = true ∧
    (v.level.isSome = true ∨ l = 7 ∨ (k.mlev < l ∧ k.plev < l)) ∧
    (v.world = true ∨ d1.levelWorld c l = false) ∧
    (if own then 2 * flagNat v.world + 1 = k.ctx ∧ sg = k.segAt k.bankNo 1 ∧ d2 = d1 else Gives (loadSeg c v.world false (bitsOf w0 15 0) {}) d1 sg d2) ∧
    Gives (segCheck sg .write { off := base } (4 * n)) d2 x d2 ∧
    Gives (do
      let ps ← linAccess c v.world true .write x.key.toNat (k.wr v.world).pkr.toNat { off := base } (x.base.toNat + base) (4 * n)
      storeLoc c { cells := ps, jr := x.jr, segtag := x.segtag } ((frameWords k v l (decide own) d2.now u.1 u.2).flatMap (natCells 4))
      pure ps) d2 ps d3 := by
  refine ⟨0, { vec := 2, world := true, spc := 8, fpc := 8 }, (handler 2 3 (run [(15, 1024)])).dev, _, _, _, _, flat, data, _, ?_, ?_, gives' (by decide +kernel), ?_, ?_, ?_, (by rw [if_pos (by decide +kernel)]; exact ⟨by decide +kernel, by decide +kernel, rfl⟩), givesAs (by decide +kernel) (by decide +kernel), gives' ?_⟩
  all_goals first | decide +kernel | (unfold Gives; decide +kernel)

theorem wit_EntriesAreTaken_1 :
  ∀ r ∈ supOnly,
  ∃ (s : State) (c : CoreId),
    let i : Ins := { c := c, op := r.2.1, sec := r.2.2, ob := 0 }
  ∃ d,
    Ready i (now s) ∧
    (s.dev.core c).sup = false ∧
    PipeEmpty c (now s) ∧
    Refused c (now s) d := by
  intro r hr
  simp only [supOnly, List.mem_cons, List.not_mem_nil, or_false] at hr
  rcases hr with rfl | rfl | rfl | rfl
  all_goals refine ⟨user, 0, _, ready ?_, ?_, ?_, ⟨_, gives₀ ?_, rfl⟩⟩
  all_goals first | decide +kernel | (dsimp only [Ready, PipeEmpty]; decide +kernel)

theorem wit_EntriesAreTaken_2_0 :
  ∃ (s : State) (c : CoreId) (ob : BitVec 6) (e : Spec) (d : Dev),
    PipeEmpty c (now s) ∧
    Refused c (now s) d ∧
    Ready { c := c, op := 0o012, ob := ob.toNat, specs := [e] } (now s) ∧
    ¬ InCS c (now s) ∧
    ctlPerWorld ob.toNat = true ∧
    okIntDst 4 e = true := by
  refine ⟨user, 0, 1, reg 1, _, ?_, ⟨_, gives₀ ?_, rfl⟩, ready ?_, ?_, ?_, ?_⟩
  all_goals first | decide +kernel | (dsimp only [Ready, PipeEmpty, InCS]; decide +kernel)

theorem wit_EntriesAreTaken_2_1 :
  ∃ (s : State) (c : CoreId) (ob : BitVec 6) (e : Spec) (d : Dev),
    PipeEmpty c (now s) ∧
    Refused c (now s) d ∧
    Ready { c := c, op := 0o013, ob := ob.toNat, specs := [e] } (now s) ∧
    ¬ InCS c (now s) ∧
    ctlPerWorld ob.toNat = true ∧
    okIntSrc 4 e = true := by
  refine ⟨user, 0, 1, reg 1, _, ?_, ⟨_, gives₀ ?_, rfl⟩, ready ?_, ?_, ?_, ?_⟩
  all_goals first | decide +kernel | (dsimp only [Ready, PipeEmpty, InCS]; decide +kernel)

theorem wit_StepRunsTheFrontCommand_0 :
  ∃ (c : Instr) (rest : List Instr) (s : State),
    s.pending = c :: rest := by
  refine ⟨.vaonPowerUp, [], { run [] with pending := [.vaonPowerUp] }, ?_⟩
  all_goals decide +kernel

theorem wit_StepRunsTheFrontCommand_1 :
  ∃ s : State,
    s.pending = [] ∧
    s.fum.on = false := by
  refine ⟨{ run [] with fum := { on := false } }, ?_, ?_⟩
  all_goals decide +kernel

theorem wit_StepRunsTheFrontCommand_2 :
  ∃ s : State,
    s.pending = [] ∧
    s.fum.on = true ∧
    s.fum.clockLost = false ∧
    s.fum.frac < 2 ^ 32 ∧
    s.fum.absorb = 0 ∧
    s.dev.fld offFTBADJ 63 32 = 0 ∧
    s.dev.regNet = [] ∧
    Calm s := by
  refine ⟨run [], ?_, ?_, ?_, ?_, ?_, ?_, ?_, ?_⟩
  all_goals first | decide +kernel | (dsimp only [Calm]; decide +kernel)

theorem wit_TimeNeverGoesBackward_0 :
  ∃ s t : State,
    step s = .next t ∧
    s.pending.head? ≠ some .vaonPowerUp ∧
    s.pending.head? ≠ some .vaonRemoval := by
  refine ⟨adding, _, steps ?_, ?_, ?_⟩
  all_goals decide +kernel

theorem wit_FusesOnlyGain_0_0 :
  ∃ s t : State,
    step s = .next t ∧
    s.fuses.svn ≤ 64 := by
  refine ⟨adding, _, steps ?_, ?_⟩
  all_goals decide +kernel

theorem wit_FusesOnlyGain_0_1 :
  ∃ s t : State,
    step s = .next t := by
  refine ⟨adding, _, steps ?_⟩
  all_goals decide +kernel

theorem wit_MemoryStaysCanonical_0 :
  ∃ s t : State,
    step s = .next t ∧
    Safety.memOk s := by
  refine ⟨adding, _, steps ?_, (by unfold Safety.memOk; decide +kernel)⟩
  all_goals decide +kernel

theorem wit_NothingStaysOnItsWay_0 :
  ∃ s t : State,
    step s = .next t ∧
    Calm s := by
  refine ⟨adding, _, steps ?_, ?_⟩
  all_goals first | decide +kernel | (dsimp only [Calm]; decide +kernel)

/-! ## Forms that are refused -/

theorem test_wf_spec : Instr.wf (.neg 0 32 { mode := 5, reg := 1, seg := 0, ext := 1, xs := [] } (reg 2)) = false := by decide
theorem test_wf_inline : Instr.wf (.br 0 1 []) = false := by decide
theorem test_wf_record : Instr.wf (.recordApply aRecord) = false := by decide
theorem test_wf_line : Instr.wf (.lineCopyResponse 0 [1, 2] {}) = false := by decide
theorem test_wf_scrub : Instr.wf (.scrubRead 0 (3 * 2 ^ 21) .clean) = false := by decide
theorem test_wf_size : Instr.wf (.registerWrite .pf1 0 0 0) = false := by decide
theorem test_wf_read : Instr.wf (.clmoveRead .pf0 0) = false := by decide
theorem test_wf_window : Instr.wf (.cellWindowRead 0 0) = false ∧ Instr.wf (.cellWindowWrite 0 []) = false := by decide
theorem test_wf_row : Instr.wf (.softRepair .cwin 0 0 0 (2 ^ 16)) = false := by decide
theorem test_wf_debug : Instr.wf (.custodyDebugAccess 0 none 0 false) = false := by decide
theorem test_wf : Instr.wf (.neg 0 32 { mode := 5, reg := 1, seg := 0, ext := 1, xs := [7] } (reg 2)) = true := by decide

/-! ## Cases that the manual works out -/

/-- What a command leaves. -/
def eff (i : Instr) (s : State) : State := match exec i s with | .next t => t | _ => s

/-- G registers of core 0. -/
def gs (rs : List Nat) (s : State) : List Nat := rs.map fun r => ((s.dev.core 0).gr r).toNat

/-- Sticky flags of core 0. -/
def sf (s : State) : Nat := bitsOf (s.dev.core 0).cstat.toNat 13 6

/-- The `n` cells that core 0 sees at linear address `a`. -/
def seen (a n : Nat) (s : State) : List Nat := ((answer (readLin 0 true {} a n) s.dev).getD []).map BitVec.toNat

/-- `s` with cells `cs` from physical address `a`. -/
def cellsAt (a : Nat) (cs : List Nat) (s : State) : State :=
  { s with dev := s.dev.pokes (s.dev.physN a cs.length) (cs.map (BitVec.ofNat 9)) }

/-- The specifier that a parcel spells, with its extension parcels (R67). -/
def par (p : Nat) (xs : List Parcel) : Spec :=
  { mode := BitVec.ofNat 4 (p / 1024), reg := BitVec.ofNat 4 (p / 64), seg := BitVec.ofNat 3 (p / 8), ext := BitVec.ofNat 3 p, xs := xs }

/-- A word of packed cells. -/
def packed (cs : List Nat) : Word := BitVec.ofNat 36 (cellsNat (cs.map (BitVec.ofNat 9)))

-- R82 (the chapter's example of an overflowing sum).
theorem test_add_overflow : let s := (eff (.add 0 32 (reg 1) (reg 2) (reg 3)) (run [(1, 0o377777777777), (2, 1)]));
    gs [3] s = [0o400000000000] ∧ sf s = 128 := by decide +kernel
-- R90, the example of multiply and divide.
theorem test_mul : gs [3] (eff (.besidePipeComplete 0) (eff (.mul 0 32 (reg 1) (reg 2) (reg 3)) (run [(1, 365), (2, 86400)]))) = [31536000] := by
  decide +kernel
theorem test_div : gs [3, 9] (eff (.besidePipeComplete 0) (eff (.div 0 0o51 (par 0o00100 []) (par 0o00200 []) (par 0o00300 []))
    (run [(1, 1000000), (2, 7)]))) = [142857, 1] := by decide +kernel
theorem test_div_by_zero : let s := (eff (.besidePipeComplete 0) (eff (.div 0 0o51 (reg 1) (reg 2) (reg 3)) (run [(1, 1000), (2, 0)])));
    gs [3, 9] s = [0o777777777777, 1000] ∧ sf s = 64 := by decide +kernel
-- R94, the example of bit fields.
theorem test_extu : gs [3] (eff (.extu 0 32 (reg 2) (reg 1) (reg 3)) (run [(2, 0o123456701234), (1, 0o4411)])) = [0o701] := by decide +kernel
theorem test_ext : gs [3] (eff (.ext 0 32 (reg 2) (reg 1) (reg 3)) (run [(2, 0o123456701234), (1, 0o4411)])) = [0o777777777701] := by
  decide +kernel
theorem test_ins : gs [2] (eff (.ins 0 32 (reg 5) (reg 1) (reg 2)) (run [(2, 0o123456701234), (1, 0o4411), (5, 0o55)])) = [0o123456055234] := by
  decide +kernel
-- R96, the example.
theorem test_perm : gs [4, 5] (eff (.perm 0 48 (reg 2) (reg 1) (reg 4)) (run [(2, 0o001002003004), (3, 0o005006007410), (1, 0o765432107760)])) =
    [0o010007006005, 0o004003002001] := by decide +kernel
-- R100, the example of a loop.
theorem test_loop : let k := ((eff (.loop 0 1 [0o13] (reg 6)) (core0 (fun k => { k with pc := 0o2000 }) (run [(6, 3)]))).dev.core 0);
    k.pc = 0o2003 ∧ k.bank.dep = 1 := by decide +kernel
-- R104, the example of CALL, its stack 32,512 cells lower.
theorem test_call : let s := (eff (.call 0 0o21 0o00030 [0o00400])
      (core0 (fun k => { k with pc := 0o10000 }) (run [(3, 0o000020000000), (4, 0o151), (14, 0o100040), (15, 0o1000)])));
    (s.dev.core 0).pc = 0o10400 ∧ gs [15] s = [0o754] ∧
    seen 0o754 20 s = [0o40030, 0o10003, 0o20000000, 0o151, 0o100040].flatMap fun w => (natCells 4 w).map BitVec.toNat := by decide +kernel
-- R115, the example of overflowing packed sums, in sign mode C.
theorem test_dadd : let s := (eff (.dadd 0 3 0o1414 (at' 1 0) (at' 2 0) (at' 3 0))
      (cellsAt 64 [0x99, 0x99, 0x99, 0x9C, 0, 0, 0, 0x1C] (run [(1, 64), (2, 68), (3, 72)])));
    seen 72 4 s = [0, 0, 0, 0x0C] ∧ sf s = 128 := by decide +kernel
theorem test_dsub : let s := (eff (.dsub 0 3 0o1414 (at' 1 0) (at' 2 0) (at' 3 0))
      (cellsAt 64 [0x99, 0x99, 0x99, 0x9D, 0, 0, 0, 0x1C] (run [(1, 64), (2, 68), (3, 72)])));
    seen 72 4 s = [0, 0, 0, 0x0D] ∧ sf s = 128 := by decide +kernel
-- R128, the example: +28.845 under variant 2, and the last step of the chapter's worked example.
theorem test_dsrp_even : seen 96 3 (eff (.dsrp 0 2 0o12 (at' 1 0) (par 0o32001 [0o37777]) (at' 2 0))
    (cellsAt 64 [0x28, 0x84, 0x5C] (run [(1, 64), (2, 96)]))) = [0x02, 0x88, 0x4C] := by decide +kernel
theorem test_dsrp : seen 96 4 (eff (.dsrp 0 7 0o15 (par 0o3100 []) (par 0o32001 [0o37773]) (par 0o3200 []))
    (cellsAt 64 [0, 0, 0, 0x28, 0x83, 0x47, 0x49, 0x7C] (run [(9, 64), (10, 96)]))) = [0, 0x02, 0x88, 0x3C] := by decide +kernel
-- The worked example of chapter 5.
theorem test_dmul : seen 96 12 (eff (.besidePipeComplete 0) (eff (.dmul 0 7 0o1454 (par 0o2200 []) (par 0o34003 [0o00010, 0o12112, 0o01400]) (par 0o3000 []))
    (cellsAt 64 [256, 0, 0, 0, 0x12, 0x34, 0x56, 0x7C] (cellsAt 96 [0, 0, 0, 0, 0, 0, 0x77, 0x12, 0x50, 0, 0, 0x0C] (run [(2, 64), (8, 96)]))))) =
    [0, 0, 0, 0, 0, 1, 0x05, 0x24, 0x68, 0x36, 0x75, 0x0C] := by decide +kernel
theorem test_ddiv : let s := (eff (.besidePipeComplete 0) (eff (.ddiv 0 11 0o434 (par 0o3000 []) (par 0o34002 [0o03305, 0o30000]) (par 0o3100 []))
      (cellsAt 96 [0, 0, 0, 0, 0, 1, 0x05, 0x24, 0x68, 0x36, 0x75, 0x0C] (cellsAt 128 [0, 0, 0, 0, 0, 0, 0, 0x0C] (run [(8, 96), (9, 128)])))));
    seen 128 8 s = [0, 0, 0, 0x28, 0x83, 0x47, 0x49, 0x7C] ∧ seen 96 12 s = [0, 0, 0, 0, 0, 0, 0, 0, 0, 0, 0x34, 0x5C] := by decide +kernel
-- R129, the example.
theorem test_cvzp : seen 96 3 (eff (.cvzp 0 4 0o1000 (at' 2 0) (at' 3 0)) (cellsAt 64 [0xF0, 0xF8, 0xF7, 0xF0, 0xD5] (run [(2, 64), (3, 96)]))) =
    [0x08, 0x70, 0x5D] := by decide +kernel
theorem test_cvpz : seen 96 5 (eff (.cvpz 0 2 0o2000 (at' 2 0) (at' 3 0)) (cellsAt 64 [0x08, 0x70, 0x5D] (run [(2, 64), (3, 96)]))) =
    [0xF0, 0xF8, 0xF7, 0xF0, 0xD5] := by decide +kernel
-- R131, the example.
theorem test_cvdb : let s := (eff (.cvdb 0 5 0 (at' 2 0) (reg 3)) (cellsAt 64 [0x34, 0x35, 0x97, 0x38, 0x36, 0x8C] (run [(2, 64)])));
    gs [3] s = [0o400000000000] ∧ sf s = 128 := by decide +kernel
-- R152, the example of overlapping moves.
theorem test_mva : seen 64 8 (eff (.mva 0 0o30 (at' 4 0) (at' 5 0))
    (cellsAt 64 [0x41, 0x42, 0x43, 0x44, 0x45, 0x46, 0x47, 0x48] (run [(4, 64), (5, 65), (6, 6)]))) =
    [0x41, 0x41, 0x41, 0x41, 0x41, 0x41, 0x41, 0x48] := by decide +kernel
theorem test_mvl : seen 64 8 (eff (.mvl 0 0o30 (at' 4 0) (at' 5 0))
    (cellsAt 64 [0x41, 0x42, 0x43, 0x44, 0x45, 0x46, 0x47, 0x48] (run [(4, 64), (5, 65), (6, 6)]))) =
    [0x41, 0x41, 0x42, 0x43, 0x44, 0x45, 0x46, 0x48] := by decide +kernel
-- R157, the example, on the field's first cells.
theorem test_xlat : let s := (eff (.xlat 0 0o30 (par 0o2200 []) (par 0o2300 []))
      (cellsAt 64 [0x162, 0x72, 0x20] (cellsAt 1024 ((upto 256).map fun n => if 0x61 ≤ n ∧ n ≤ 0x7A then n - 32 else n) (run [(2, 64), (3, 1024), (6, 3)]))));
    seen 64 3 s = [0x142, 0x52, 0x20] ∧ gs [2, 6] s = [67, 0] := by decide +kernel
theorem test_xtst : gs [2, 6, 7] (eff (.xtst 0 0o30 (par 0o2200 []) (par 0o2400 []) (par 0o0700 []))
    (cellsAt 64 [0x142, 0x52, 0x20] (cellsAt 1024 ((upto 256).map fun n => if n = 0x20 then 2 else if n = 0x2C then 1 else 0)
      (run [(2, 64), (4, 1024), (6, 3)])))) = [66, 1, 2] := by decide +kernel
-- The worked example of chapter 6, its two runs.
theorem test_edtm : let s := (eff (.edtm 0 0o30 (par 0o2200 []) (par 0o2300 []) (par 0o2400 []) (par 0o0700 []) (par 0o1000 []))
      (cellsAt 128 [0x120] (cellsAt 96 [0x00, 0x98, 0x76, 0x5D] (cellsAt 64 [0x2A, 256, 256, 0x2C, 256, 256, 257, 0x2E, 256, 256, 0x43, 0x52]
        (run [(2, 64), (3, 96), (4, 128), (6, 12)])))));
    seen 128 12 s = [0x2A, 0x2A, 0x2A, 0x2A, 0x139, 0x38, 0x37, 0x2E, 0x36, 0x35, 0x43, 0x52] ∧ gs [7, 8] s = [1, 132] := by decide +kernel
theorem test_edtm_positive : let s := (eff (.edtm 0 0o30 (par 0o2200 []) (par 0o2300 []) (par 0o2400 []) (par 0o0700 []) (par 0o1000 []))
      (cellsAt 128 [0x120] (cellsAt 96 [0x00, 0x00, 0x00, 0x5C] (cellsAt 64 [0x2A, 256, 256, 0x2C, 256, 256, 257, 0x2E, 256, 256, 0x43, 0x52]
        (run [(2, 64), (3, 96), (4, 128), (6, 12)])))));
    seen 128 12 s = [0x2A, 0x2A, 0x2A, 0x2A, 0x2A, 0x2A, 0x130, 0x2E, 0x30, 0x35, 0x2A, 0x2A] ∧ gs [7, 8] s = [1, 134] := by decide +kernel
-- The worked example of chapter 7: elements 1, 2 and 5 of the decimal addition.
theorem test_vadd : let s := (eff (.vadd 0 1 (par 0o0200 []) (par 0o0100 []) (par 0o0200 []))
      (core0 (fun k => { k with vcfg := BitVec.ofNat 36 (2 * 2 ^ 34 + 16 * 2 ^ 16 + 3)
                                v := [(16, packed [0, 1, 0, 0x0C]), (17, packed [0, 0, 0, 0x5C]), (18, packed [0, 0, 7, 0x5D]),
                                      (32, packed [0x99, 0x99, 0x50, 0x0C]), (33, packed [0, 0, 0, 0x5D]), (34, packed [0, 0, 7, 0x5D])] }) (run [])));
    (upto 3).map (fun l => (s.dev.core 0).v.getD' (32 + l) 0) =
      [packed [0x99, 0x99, 0x50, 0x0C], packed [0, 0, 0, 0x0C], packed [0, 0, 0x15, 0x0D]] ∧ sf s = 128 := by decide +kernel
-- R295, the example of the interleave.
theorem test_interleave : puOf 174504 0 = 190 ∧ puOf 174504 1 = 189 ∧ puOf 174504 2 = 246 ∧ storageLine 174504 0 / 256 = 5 := by decide +kernel
-- The worked example of chapter 13: where frame 74 holds line 19 under the near policy.
theorem test_near : puOf 305576 1 = 22 := by decide +kernel
-- R515, the example of register offsets.
theorem test_offsets : offPUSTAT 190 = 0x0967800 ∧ offBANKOWN 9 6 = 0x1910030 ∧ offSCHEDCFG 27 = 0x13B0100 := by decide +kernel
-- R503, the example of a comparator over which the time base steps.
theorem test_comparator : let s := (eff (.comparatorMatch 3) { regAt (offFCMPC 3) (1000000 * 2 ^ 32 + 27 * 2 ^ 17 + 5 * 2 ^ 11 + 5)
      (regAt (offFCMPT 3) 5001000000 (run [])) with fum := { time := 5002700000 } });
    s.dev.rd (offFCMPT 3) = 5003000000 ∧ s.dev.fld (offFCMPC 3) 31 24 = 1 := by decide +kernel
end Sys2Proof.Tests
end

/-! # Proofs: integer arithmetic, logic, shifts, fields, counts and compares -/

namespace Sys2Proof.Proofs

open Sys2Proof Sys2Proof.Machine Sys2Proof.Claims

/-! ## An instruction whose body completes -/

/-- When no enabled trap follows, raising flags only sets them (R57). -/
theorem raiseFlags_noTrap {c sf : Nat} {d : Dev} (h : NoTrap c sf d) : Gives (raiseFlags c sf) d none (flagged c sf d) := by
  unfold NoTrap at h
  exact congrArg (fun t => (Except.ok t, flagged c sf d)) h

/-- A core that may execute an instruction finds nothing in the checks made before its own (R48, R65, R211). -/
theorem frontChecks_ready {x : Ins} {d : Dev} (h : Ready x d) : Gives (frontChecks x) d () d :=
  have ⟨_, noMicro, noFault, short⟩ := h
  frontChecks_run noMicro noFault short

/-- A body that completes without a transfer or a trap is an instruction's effect, and execution goes on (R80, R101). -/
theorem runInstr_goesOn {x : Ins} {body : M Done} {d d1 : Dev} (ready : Ready x d) (h : Gives body d {} d1) :
    runInstr x body d = goesOn x.c x.len d1 :=
  runInstr_done ready.1 (frontChecks_ready ready) h (complete_falls x.c x.len d1)

theorem instr_goesOn {x : Ins} {body : M Done} {s : State} {d1 : Dev} (ready : Ready x (now s)) (h : Gives body (now s) {} d1) :
    instr x body s = .next (withDev s (goesOn x.c x.len d1)) :=
  congrArg (fun d => Host.Outcome.next (withDev s d)) (runInstr_goesOn ready h)

/-! ## The three shapes of an integer instruction -/

/-- The end of a body that writes a result and raises flags, none of which takes a trap (R72, R57). -/
theorem writeAndFlag_gives {c sf : Nat} {upd : AMap Word} {dst : Dst} {cs : List Cell} {d d' : Dev}
    (w : Writes c upd dst cs d d') (t : NoTrap c sf d') :
    Gives (do commitUpd c upd; putDst c dst cs; return { trap := ← raiseFlags c sf }) d ({} : Done) (flagged c sf d') := by
  obtain ⟨d1, commits, puts⟩ := w
  exact (bind_ok commits).trans <| (bind_ok puts).trans <| bind_ok (raiseFlags_noTrap t)

/-- An instruction of one source writes its result, raises its flags and goes on. -/
theorem intUn_completes {c op : Nat} {ob : BitVec 6} {okW : Bool} {a e : Spec} {f : Nat → Nat → Nat × Nat} {s : State} {x : Nat} {dst : Dst}
    {upd : AMap Word} {d1 d2 : Dev} (ready : Ready { c := c, op := op, ob := ob.toNat, specs := [a, e] } (now s))
    (ok : ob.toNat % 16 = 0 ∧ okW = true ∧ okIntSrc (widthCells ob) a = true ∧ okIntDst (widthCells ob) e = true)
    (opds : One c (widthCells ob) a e (now s) x dst upd d1)
    (w : Writes c upd dst (natCells (widthCells ob) (f (bits ob) x).1) d1 d2) (t : NoTrap c (f (bits ob) x).2 d2) :
    intUn c op ob okW a e f s = .next (withDev s
      (goesOn c (Ins.len { c := c, op := op, ob := ob.toNat, specs := [a, e] }) (flagged c (f (bits ob) x).2 d2))) := by
  obtain ⟨u, d0, source, dest⟩ := opds
  refine instr_goesOn ready ?_
  exact (bind_ok (need_true _ _ (by simp [lowZero, ok]))).trans <| (bind_ok source).trans <| (bind_ok dest).trans <|
    writeAndFlag_gives w t

/-- An instruction of two sources writes its result, raises its flags and goes on. -/
theorem intBin_completes {c op : Nat} {ob : BitVec 6} {okW word : Bool} {a b e : Spec} {f : Nat → Nat → Nat → Nat × Nat} {s : State}
    {x y : Nat} {dst : Dst} {upd : AMap Word} {d1 d2 : Dev}
    (ready : Ready { c := c, op := op, ob := ob.toNat, specs := [a, b, e] } (now s))
    (ok : ob.toNat % 16 = 0 ∧ okW = true ∧ okIntSrc (widthCells ob) a = true ∧
      okIntSrc (if word then 4 else widthCells ob) b = true ∧ okIntDst (widthCells ob) e = true)
    (opds : Two c (widthCells ob) (if word then 4 else widthCells ob) a b e (now s) x y dst upd d1)
    (w : Writes c upd dst (natCells (widthCells ob) (f (bits ob) x y).1) d1 d2) (t : NoTrap c (f (bits ob) x y).2 d2) :
    intBin c op ob okW word a b e f s = .next (withDev s
      (goesOn c (Ins.len { c := c, op := op, ob := ob.toNat, specs := [a, b, e] }) (flagged c (f (bits ob) x y).2 d2))) := by
  obtain ⟨v, d0, ⟨u, d', source1, source2⟩, dest⟩ := opds
  refine instr_goesOn ready ?_
  exact (bind_ok (need_true _ _ (by simp [lowZero, ok]))).trans <| (bind_ok source1).trans <| (bind_ok source2).trans <|
    (bind_ok dest).trans <| writeAndFlag_gives w t

/-- A compare writes 0 or 1 into its G register and goes on (R85). -/
theorem intCmp_completes {c op : Nat} {ob : BitVec 6} {a b e : Spec} {p : Nat → Nat → Nat → Bool} {s : State} {x y : Nat}
    {upd : AMap Word} {d1 d2 : Dev} (ready : Ready { c := c, op := op, ob := ob.toNat, specs := [a, b, e] } (now s))
    (ok : ob.toNat % 16 = 0 ∧ okIntSrc (widthCells ob) a = true ∧ okIntSrc (widthCells ob) b = true ∧ okReg e = true)
    (opds : Sources c (widthCells ob) (widthCells ob) a b (now s) x y upd d1)
    (w : WritesG c upd e.reg.toNat (if p (bits ob) x y then 1 else 0) d1 d2) :
    intCmp c op ob a b e p s = .next (withDev s
      (goesOn c (Ins.len { c := c, op := op, ob := ob.toNat, specs := [a, b, e] }) d2)) := by
  obtain ⟨u, d0, source1, source2⟩ := opds
  obtain ⟨d', commits, writes⟩ := w
  refine instr_goesOn ready ?_
  exact (bind_ok (need_true _ _ (by simp [lowZero, ok]))).trans <| (bind_ok source1).trans <| (bind_ok source2).trans <|
    (bind_ok commits).trans <| bind_ok writes

/-! ## The machine's result functions are the manual's formulas -/

/-- OV as the machine raises it: not set exactly when the result lies in the signed range (R87). -/
theorem flagBits_ovSigned (w : Nat) (v : Int) : flagBits [(fOV, ovSigned w v)] = ovOf w v := by
  have out_of_range : ovSigned w v = !decide (-(2 ^ (w - 1) : Nat) ≤ v ∧ v < (2 ^ (w - 1) : Nat)) := by
    simp only [ovSigned, Bool.decide_and, Bool.not_and, ← decide_not, Int.not_le, Int.not_lt]
  by_cases fits : -(2 ^ (w - 1) : Nat) ≤ v ∧ v < (2 ^ (w - 1) : Nat)
  · rw [out_of_range, decide_eq_true fits, ovOf, if_pos fits]; rfl
  · rw [out_of_range, decide_eq_false fits, ovOf, if_neg fits]; rfl

theorem exactS_eq_fit (w : Nat) (v : Int) : exactS w v = fit w v := congrArg (wrap w v, ·) (flagBits_ovSigned w v)

/-- The count of 1 bits, bit by bit (R95). -/
theorem popOf_eq_length (w x : Nat) : popOf w x = ((List.range w).filter fun i => x.testBit i).length := by
  induction w generalizing x with
  | zero => rfl
  | succ w ih =>
    rw [popOf, ih, List.range_succ_eq_map, List.filter_cons, List.filter_map]
    have shift : ((fun i => x.testBit i) ∘ Nat.succ) = fun i => (x / 2).testBit i := by
      funext i; exact Nat.testBit_succ x i
    rw [shift]
    rcases Nat.mod_two_eq_zero_or_one x with even | odd
    · simp [even, Nat.testBit_zero]
    · simp [odd, Nat.testBit_zero, Nat.add_comm]

/-! ## The instructions by their shapes

Once the table's formulas are spelled as the machine spells them, each command is its shape by definition. -/

theorem exec_oneSource : ∀ r ∈ oneSource, ∀ (c : CoreId) (ob : BitVec 6) (a e : Spec) (s : State),
    exec (r.cmd c ob a e) s = intUn c r.op ob (r.ok ob) a e r.val s := by
  intro r hr c ob a e s
  simp only [oneSource, ← exactS_eq_fit, ← popOf_eq_length, List.mem_cons, List.not_mem_nil, or_false] at hr
  rcases hr with rfl | rfl | rfl | rfl | rfl | rfl <;> rfl

theorem exec_twoSources : ∀ r ∈ twoSources, ∀ (c : CoreId) (ob : BitVec 6) (a b e : Spec) (s : State),
    exec (r.cmd c ob a b e) s = intBin c r.op ob (r.ok ob) r.word a b e r.val s := by
  intro r hr c ob a b e s
  simp only [twoSources, ← exactS_eq_fit, List.mem_cons, List.not_mem_nil, or_false] at hr
  rcases hr with rfl | rfl | rfl | rfl | rfl | rfl | rfl | rfl | rfl | rfl | rfl | rfl | rfl | rfl <;> rfl

theorem exec_compares : ∀ r ∈ compares, ∀ (c : CoreId) (ob : BitVec 6) (a b e : Spec) (s : State),
    exec (r.cmd c ob a b e) s = intCmp c r.op ob a b e r.holds s := by
  intro r hr c ob a b e s
  have leInt (x y : Int) : (!decide (y < x)) = decide (x ≤ y) := by rw [← decide_not, decide_eq_decide, Int.not_lt]
  have leNat (x y : Nat) : (!decide (y < x)) = decide (x ≤ y) := by rw [← decide_not, decide_eq_decide, Nat.not_lt]
  simp only [compares, leInt, leNat, List.mem_cons, List.not_mem_nil, or_false] at hr
  rcases hr with rfl | rfl | rfl | rfl | rfl | rfl | rfl <;> rfl

/-! ## The statements -/

/-- Settles O1: each command has the shape of its table row, and that shape completes. -/
theorem integerResultsComplete : Obligations.IntegerResultsComplete := by
  constructor
  · intro r hr s c ob a e x dst upd d1 d2 i n v ready ok opds w t
    rw [exec_oneSource r hr]
    exact intUn_completes ready ok opds w t
  · intro r hr s c ob a b e x y dst upd d1 d2 i n nb v ready ok opds w t
    rw [exec_twoSources r hr]
    exact intBin_completes ready ok opds w t

/-- Settles O2: each command is the compare of its table row, and a compare completes. -/
theorem integerComparesComplete : Obligations.IntegerComparesComplete := by
  intro r hr s c ob a b e x y upd d1 d2 i n ready ok opds w
  rw [exec_compares r hr]
  exact intCmp_completes ready ok opds w

end Sys2Proof.Proofs

/-! # Proofs: decimal compares, tests and the count of leading zeros -/

namespace Sys2Proof.Proofs

open Sys2Proof Sys2Proof.Machine Sys2Proof.Claims

/-! ## Significant digits -/

/-- A number between two powers of ten has as many significant digits as the upper one's exponent. -/
theorem sigDigits_eq {fuel n v : Nat} (fits : n ≤ fuel) (low : 0 < n → 10 ^ (n - 1) ≤ v) (high : v < 10 ^ n) : sigDigits fuel v = n := by
  induction fuel generalizing n v with
  | zero => rw [sigDigits, Nat.le_zero.1 fits]
  | succ fuel ih =>
    cases n with
    | zero => rw [sigDigits, if_pos (Nat.lt_one_iff.1 high)]
    | succ n =>
      have low : 10 ^ n ≤ v := low n.succ_pos
      have nonzero : v ≠ 0 := Nat.ne_of_gt (Nat.lt_of_lt_of_le (Nat.pow_pos (by decide)) low)
      have low' : 0 < n → 10 ^ (n - 1) ≤ v / 10 := fun pos => by
        rwa [Nat.le_div_iff_mul_le (by decide), Nat.pow_pred_mul pos]
      have high' : v / 10 < 10 ^ n := by rwa [Nat.div_lt_iff_lt_mul (by decide), ← Nat.pow_succ]
      rw [sigDigits, if_neg nonzero, ih (Nat.le_of_succ_le_succ fits) low' high', Nat.add_comm]

/-- A number of `n` decimal digits, `n` at most 128, has `n` significant digits; 0 has none. -/
theorem sig_eq {m n : Nat} (h : m = 0 ∧ n = 0 ∨ 0 < n ∧ n ≤ 128 ∧ 10 ^ (n - 1) ≤ m ∧ m < 10 ^ n) : sig m = n := by
  rcases h with ⟨rfl, rfl⟩ | ⟨_, small, low, high⟩
  · rfl
  · exact sigDigits_eq small (fun _ => low) high

/-! ## The shapes of a compare and a test -/

/-- A compare of valid fields writes less and equal into its pair and goes on (R119). -/
theorem decCmp_completes {c op : Nat} {ob : BitVec 6} {lp : Parcel} {a b e : Spec} {z scan : Bool} {s : State} {x y : DecOp}
    {u upd : AMap Word} {m n : Int} {d1 d2 d3 d4 : Dev} (ready : Ready (decIns c op ob lp [a, b, e]) (now s))
    (ok : lp.toNat % 4 = 0 ∧ decL3 lp = 1 ∧ okDecSrc (ob.toNat + 1) a = true ∧ okDecSrc (decL2 lp) b = true ∧ okReg e = true ∧
      e.reg.toNat % 2 = 0)
    (source1 : Dec c 1 (ob.toNat + 1) scan .read a [] (now s) x u d1) (source2 : Dec c 2 (decL2 lp) scan .read b u d1 y upd d2)
    (valid : Val z x.cells m) (valid' : Val z y.cells n) (less : WritesG c upd e.reg.toNat (if m < n then 1 else 0) d2 d3)
    (equal : Gives (wrG c (e.reg.toNat + 1) (if m = n then 1 else 0)) d3 () d4) :
    decCmp c op ob lp a b e z scan s = .next (withDev s (goesOn c (decIns c op ob lp [a, b, e]).len d4)) := by
  obtain ⟨m, neg, value, rfl⟩ := valid
  obtain ⟨n, neg', value', rfl⟩ := valid'
  obtain ⟨d', commits, writes⟩ := less
  refine instr_goesOn ready ?_
  refine (bind_ok (need_true _ _ (by simp [decVar, decL1, ok]))).trans <| (bind_ok source1).trans <| (bind_ok source2).trans ?_
  simp only [value, value', flagNat, decide_eq_true_eq, beq_iff_eq, apply_ite (BitVec.ofNat 36)] at writes ⊢
  exact (bind_ok commits).trans <| (bind_ok writes).trans <| bind_ok equal

/-- DD as a test raises it (R113, R120). -/
theorem flagBits_dd (ok : Bool) : flagBits [(fDD, !ok)] = if ok then 0 else 32 := by
  cases ok <;> rfl

/-- A test writes whether its field is valid, raises DD when it is not, and goes on (R113, R120). -/
theorem decTst_completes {c op : Nat} {ob : BitVec 6} {a e : Spec} {z scan : Bool} {s : State} {x : DecOp} {upd : AMap Word}
    {d1 d2 : Dev} (ready : Ready (decIns c op ob 0 [a, e]) (now s)) (okA : okDecSrc (ob.toNat + 1) a = true) (okE : okReg e = true)
    (source : Dec c 1 (ob.toNat + 1) scan .read a [] (now s) x upd d1)
    (w : WritesG c upd e.reg.toNat (if (fieldVal z x.cells).isSome then 1 else 0) d1 d2)
    (t : NoTrap c (if (fieldVal z x.cells).isSome then 0 else 32) d2) :
    decTst c op ob 0 a e z scan s = .next (withDev s (goesOn c (decIns c op ob 0 [a, e]).len
      (flagged c (if (fieldVal z x.cells).isSome then 0 else 32) d2))) := by
  obtain ⟨d', commits, writes⟩ := w
  refine instr_goesOn ready ?_
  refine (bind_ok (need_true _ _ (by simp [decL1, okA, okE]))).trans <| (bind_ok source).trans <| (bind_ok commits).trans <|
    (bind_ok writes).trans ?_
  rw [flagBits_dd]
  exact bind_ok (raiseFlags_noTrap t)

/-- DCLZ of a valid field writes its digit positions less its significant digits and goes on (R121). -/
theorem execDclz_completes {c : CoreId} {ob : BitVec 6} {a e : Spec} {s : State} {x : DecOp} {upd : AMap Word} {m : Nat} {neg : Bool}
    {d1 d2 : Dev} (ready : Ready (decIns c 0o127 ob 0 [a, e]) (now s)) (okA : okDecSrc (ob.toNat + 1) a = true)
    (okE : okReg e = true) (source : Dec c 1 (ob.toNat + 1) false .read a [] (now s) x upd d1)
    (value : packedVal x.cells = some (m, neg)) (w : WritesG c upd e.reg.toNat (2 * (ob.toNat + 1) - 1 - sig m) d1 d2) :
    execDclz c ob 0 a e s = .next (withDev s (goesOn c (decIns c 0o127 ob 0 [a, e]).len d2)) := by
  obtain ⟨d', commits, writes⟩ := w
  refine instr_goesOn ready ?_
  refine (bind_ok (need_true _ _ (by simp [decL1, okA, okE]))).trans <| (bind_ok source).trans ?_
  have field : fieldVal false x.cells = some (m, neg) := value
  simp only [field]
  exact (bind_ok commits).trans <| bind_ok writes

/-! ## The instructions by their shapes -/

theorem exec_decCompares : ∀ r ∈ decCompares, ∀ (c : CoreId) (ob : BitVec 6) (lp : Parcel) (a b e : Spec) (s : State),
    exec (r.cmd c ob lp a b e) s = decCmp c r.op ob lp a b e r.z r.scan s := by
  intro r hr c ob lp a b e s
  simp only [decCompares, List.mem_cons, List.not_mem_nil, or_false] at hr
  rcases hr with rfl | rfl | rfl <;> rfl

theorem exec_decTests : ∀ r ∈ decTests, ∀ (c : CoreId) (ob : BitVec 6) (lp : Parcel) (a e : Spec) (s : State),
    exec (r.cmd c ob lp a e) s = decTst c r.op ob lp a e r.z r.scan s := by
  intro r hr c ob lp a e s
  simp only [decTests, List.mem_cons, List.not_mem_nil, or_false] at hr
  rcases hr with rfl | rfl | rfl <;> rfl

/-! ## The statement -/

/-- Settles O14: each compare and test has the shape of its table row, which completes; DCLZ takes the significant digits from the
digit positions. -/
theorem decimalComparesComplete : Obligations.DecimalComparesComplete := by
  refine ⟨?_, ?_, ?_⟩
  · intro r hr s c ob lp a b e x y u upd m n d1 d2 d3 d4 i ready ok source1 source2 valid valid' less equal
    rw [exec_decCompares r hr]
    exact decCmp_completes ready ok source1 source2 valid valid' less equal
  · intro r hr s c ob a e x upd d1 d2 i ok sf ready okA okE source w t
    rw [exec_decTests r hr]
    exact decTst_completes ready okA okE source w t
  · intro s c ob a e x upd m n neg d1 d2 i ready okA okE source value digits w
    exact execDclz_completes ready okA okE source value (by rwa [sig_eq digits])

end Sys2Proof.Proofs

/-! # Proofs: the error log -/

namespace Sys2Proof.Proofs

open Sys2Proof Sys2Proof.Machine Sys2Proof.Claims

/-! ## The registers of the log -/

theorem offELOG_ne_offFHSTAT (n k : Nat) : offELOG n k ≠ offFHSTAT := by
  simp only [offELOG, offFHSTAT]; omega

theorem offELOG_ne_offISRC {source : Nat} (n k : Nat) (h : source < 1024) : offELOG n k ≠ offISRC source := by
  simp only [offELOG, offISRC]; omega

theorem offFHSTAT_ne_offISRC {source : Nat} (h : source < 1024) : offFHSTAT ≠ offISRC source := by
  simp only [offFHSTAT, offISRC]; omega

theorem offELOG_ne_word (n : Nat) {j k : Nat} (h : j ≠ k) : offELOG n j ≠ offELOG n k := by
  simp only [offELOG]; omega

/-- The Reset column of every ELOG0 is 0 (R459). -/
theorem regReset_offELOG : ∀ n : Fin 256, regReset (offELOG n 0) = 0 := by decide +kernel

/-- A valid entry is one that has been written: ELOG0 resets to V = 0 (R459). -/
theorem find_of_valid {d : Dev} {n : Nat} (entry : n < 256) (valid : d.bit (offELOG n 0) 63 = true) :
    ∃ v, d.regs.find (offELOG n 0) = some v := by
  refine Option.ne_none_iff_exists'.1 fun unwritten => ?_
  have zero : d.rd (offELOG n 0) = 0 := by rw [Dev.rd, unwritten]; exact regReset_offELOG ⟨n, entry⟩
  rw [Dev.bit, zero] at valid
  exact absurd valid (by decide)

theorem rd_lt_of_newest {d : Dev} {n : Nat} (newest : Newest d n) : d.rd (offELOG n 0) < 2 ^ 64 := by
  obtain ⟨entry, valid, _⟩ := newest
  obtain ⟨v, written⟩ := find_of_valid entry valid
  rw [Dev.rd, written]
  exact v.isLt

/-- A field of a register keeps its value when another register is set. -/
theorem fld_setFld_reg {off o : Nat} (d : Dev) (hi lo v a b : Nat) (h : o ≠ off) : (d.setFld off hi lo v).fld o a b = d.fld o a b :=
  congrArg (bitsOf · a b) (d.rd_setFld_other hi lo v h)

/-- An event of a source touches the source's own register only (R222). -/
theorem rd_raise_other {o n : Nat} (d : Dev) (h : o ≠ offISRC n) : (d.raise n).rd o = d.rd o := by
  rcases Dev.raise_cases d n with ⟨_, e⟩ | ⟨_, r, _, e⟩ | ⟨_, _, e⟩ <;> rw [e]
  · exact d.rd_setBit_other _ _ h
  · exact d.rd_setBit_other _ _ h

/-! ## The newest entry -/

/-- The search for the newest entry looks at one entry, and goes on to older ones while V is 0. -/
theorem newestEntry_succ (d : Dev) (head fuel : Nat) :
    newestEntry d head (fuel + 1) = if d.bit (offELOG ((head + 256 - (256 - fuel)) % 256) 0) 63
      then some ((head + 256 - (256 - fuel)) % 256) else newestEntry d head fuel := by
  have entry : (head + 256 - (256 - fuel)) % 256 < 256 := Nat.mod_lt _ (by decide)
  rw [newestEntry]
  generalize (head + 256 - (256 - fuel)) % 256 = m at entry
  cases written : d.regs.find (offELOG m 0) with
  | none =>
    have invalid : d.bit (offELOG m 0) 63 ≠ true := fun valid => by
      obtain ⟨v, h⟩ := find_of_valid entry valid
      cases written.symm.trans h
    rw [if_neg invalid]
  | some v => simp only [Dev.bit, Dev.rd, written]

/-- With `fuel` entries left to look at, the search answers entry `n` when it is among them and every later one has V = 0. -/
theorem newestEntry_of_newer_invalid {d : Dev} {head n : Nat} (inRing : head < 256) (entry : n < 256)
    (valid : d.bit (offELOG n 0) 63 = true)
    (newer : ∀ m < 256, (head + 255 - m) % 256 < (head + 255 - n) % 256 → d.bit (offELOG m 0) 63 = false) :
    ∀ fuel ≤ 256, 256 ≤ fuel + (head + 255 - n) % 256 → newestEntry d head fuel = some n
  | 0, _, reach => by omega
  | fuel + 1, small, reach => by
    rw [newestEntry_succ]
    by_cases here : (head + 256 - (256 - fuel)) % 256 = n
    · rw [here, if_pos valid]
    · rw [newer _ (Nat.mod_lt _ (by decide)) (by omega)]
      exact newestEntry_of_newer_invalid inRing entry valid newer fuel (by omega) (by omega)

theorem newestEntry_of_newest {d : Dev} {n : Nat} (newest : Newest d n) : newestEntry d (d.fld offFHSTAT 7 0) 256 = some n := by
  obtain ⟨entry, valid, newer⟩ := newest
  exact newestEntry_of_newer_invalid (bitsOf_lt _ 7 0) entry valid newer 256 (Nat.le_refl _) (Nat.le_add_right _ _)

/-! ## What a report does -/

/-- The log after a new entry of header `hdr` at HEAD (R459). -/
def newEntry (d : Dev) (hdr sp a x : Nat) : Dev :=
  let head := d.fld offFHSTAT 7 0
  ((((d.wr (offELOG head 0) (2 ^ 63 + hdr + 1)).wr (offELOG head 1) d.now).wr (offELOG head 2) (sp * 2 ^ 62 + a % 2 ^ 48)).wr
    (offELOG head 3) x).setFld offFHSTAT 7 0 ((head + 1) % 256)

/-- KIND, CLASS, UTYPE and UIDX in their places of ELOG0 (R459). -/
def header (kind cls ut ux : Nat) : Nat := kind * 2 ^ 61 + cls * 2 ^ 48 + ut * 2 ^ 44 + ux * 2 ^ 32

theorem valid_header (kind cls ut ux : Nat) :
    2 ^ 63 + header kind cls ut ux = (2 ^ 31 + kind * 2 ^ 29 + cls * 2 ^ 16 + ut * 2 ^ 12 + ux) * 2 ^ 32 := by
  rw [header]; omega

/-- Whether the report merges into entry `n` (R461). -/
def merges (d : Dev) (kind cls ut ux a n : Nat) : Bool :=
  kind != 1 && d.rd (offELOG n 0) / 2 ^ 32 * 2 ^ 32 == 2 ^ 63 + header kind cls ut ux && d.fld (offELOG n 2) 47 0 == a % 2 ^ 48

section
variable {d : Dev} {kind cls ut ux sp a x n : Nat} (plain : cls ≠ 0x10) (newest : Newest d n)
include plain newest

theorem log_of_merges (h : merges d kind cls ut ux a n = true) :
    d.log kind cls ut ux sp a x = d.addSat (offELOG n 0) 31 0 1 := by
  have old := (congrArg (Option.filter (merges d kind cls ut ux a)) (newestEntry_of_newest newest)).trans (Option.filter_some_pos h)
  unfold merges header at old
  simp only [Dev.log, if_neg plain, old]

theorem log_of_not_merges (h : merges d kind cls ut ux a n = false) :
    d.log kind cls ut ux sp a x =
      let e := newEntry d (header kind cls ut ux) sp a x
      if d.bit (offELOG (d.fld offFHSTAT 7 0) 0) 63 then (e.setBit offFHSTAT 62 true).raise 1014 else e := by
  have old := (congrArg (Option.filter (merges d kind cls ut ux a)) (newestEntry_of_newest newest)).trans
    (Option.filter_some_neg (Bool.not_eq_true _ ▸ h))
  unfold merges header at old
  simp only [Dev.log, if_neg plain, old]
  rfl

end

/-- Merging is decided by R461's key: KIND, CLASS, UTYPE and UIDX with V are the upper half of ELOG0, ADDR is in ELOG2. -/
theorem merges_iff {d : Dev} {kind cls ut ux a n : Nat} (small : a < 2 ^ 48) (newest : Newest d n) :
    merges d kind cls ut ux a n = true ↔ kind ≠ 1 ∧
      d.fld (offELOG n 0) 63 32 = 2 ^ 31 + kind * 2 ^ 29 + cls * 2 ^ 16 + ut * 2 ^ 12 + ux ∧ d.fld (offELOG n 2) 47 0 = a := by
  have bound := rd_lt_of_newest newest
  have upper : d.fld (offELOG n 0) 63 32 = d.rd (offELOG n 0) / 2 ^ 32 := Nat.mod_eq_of_lt (by omega)
  rw [merges, valid_header, upper, Nat.mod_eq_of_lt small]
  simp only [Bool.and_eq_true, bne_iff_ne, beq_iff_eq, Nat.mul_left_inj (show 2 ^ 32 ≠ 0 by decide), and_assoc]

/-- Adding one to a COUNT below its maximum adds one to ELOG0. -/
theorem rd_addSat_count {d : Dev} {off : Nat} (bound : d.rd off < 2 ^ 64) (room : d.fld off 31 0 < 2 ^ 32 - 1) :
    (d.addSat off 31 0 1).rd off = d.rd off + 1 := by
  have count : d.fld off 31 0 = d.rd off % 2 ^ 32 := by rw [Dev.fld, bitsOf, Nat.pow_zero, Nat.div_one]
  rw [count] at room
  rw [Dev.addSat, count, satNat, if_pos (by omega), Dev.setFld, Dev.rd_wr_same, setBits]
  omega

theorem fld_newEntry_head (d : Dev) (hdr sp a x : Nat) :
    (newEntry d hdr sp a x).fld offFHSTAT 7 0 = (d.fld offFHSTAT 7 0 + 1) % 256 :=
  (Dev.fld_setFld_same _ _ _ (by decide) (by decide)).trans (Nat.mod_mod _ _)

theorem rd_newEntry_word0 (d : Dev) (hdr sp a x : Nat) :
    (newEntry d hdr sp a x).rd (offELOG (d.fld offFHSTAT 7 0) 0) = (2 ^ 63 + hdr + 1) % 2 ^ 64 := by
  rw [newEntry, Dev.rd_setFld_other _ _ _ _ (offELOG_ne_offFHSTAT _ _), Dev.rd_wr_other _ _ (offELOG_ne_word _ (by decide)),
    Dev.rd_wr_other _ _ (offELOG_ne_word _ (by decide)), Dev.rd_wr_other _ _ (offELOG_ne_word _ (by decide)), Dev.rd_wr_same]

theorem rd_newEntry_word3 (d : Dev) (hdr sp a x : Nat) :
    (newEntry d hdr sp a x).rd (offELOG (d.fld offFHSTAT 7 0) 3) = x % 2 ^ 64 := by
  rw [newEntry, Dev.rd_setFld_other _ _ _ _ (offELOG_ne_offFHSTAT _ _), Dev.rd_wr_same]

/-- OVF and its source leave the log's registers and HEAD as they are (R459). -/
theorem overflow_keeps (e : Dev) (n k : Nat) :
    let t := (e.setBit offFHSTAT 62 true).raise 1014
    t.rd (offELOG n k) = e.rd (offELOG n k) ∧ t.fld offFHSTAT 7 0 = e.fld offFHSTAT 7 0 := by
  constructor
  · rw [rd_raise_other _ (offELOG_ne_offISRC n k (by decide)), Dev.rd_setBit_other _ _ _ (offELOG_ne_offFHSTAT n k)]
  · rw [Dev.fld, rd_raise_other _ (offFHSTAT_ne_offISRC (by decide))]
    exact e.fld_setFld_other offFHSTAT _ (Nat.le_refl 62) (by decide) (.inl (by decide))

/-- A report that does not merge stands at HEAD with its DATA, and HEAD advances, whether or not a valid entry is lost (R459). -/
theorem log_new {d : Dev} {kind cls ut ux sp a x n : Nat} (plain : cls ≠ 0x10) (newest : Newest d n)
    (h : merges d kind cls ut ux a n = false) :
    (d.log kind cls ut ux sp a x).rd (offELOG (d.fld offFHSTAT 7 0) 0) = (2 ^ 63 + header kind cls ut ux + 1) % 2 ^ 64 ∧
    (d.log kind cls ut ux sp a x).rd (offELOG (d.fld offFHSTAT 7 0) 3) = x % 2 ^ 64 ∧
    (d.log kind cls ut ux sp a x).fld offFHSTAT 7 0 = (d.fld offFHSTAT 7 0 + 1) % 256 := by
  rw [log_of_not_merges plain newest h, ← rd_newEntry_word0 d _ sp a x, ← rd_newEntry_word3 d (header kind cls ut ux) sp a x,
    ← fld_newEntry_head d (header kind cls ut ux) sp a x]
  dsimp only
  split
  · have ⟨word0, _⟩ := overflow_keeps (newEntry d (header kind cls ut ux) sp a x) (d.fld offFHSTAT 7 0) 0
    exact ⟨word0, overflow_keeps _ _ 3⟩
  · exact ⟨rfl, rfl, rfl⟩

/-! ## The statement -/

/-- Settles O48: the search finds the newest entry, and R461's key decides between a count there and a new entry at HEAD. -/
theorem logEntriesMerge : Obligations.LogEntriesMerge := by
  intro d kind cls ut ux sp a x n key same h hkind hcls plain hut hux _ ha hx newest
  constructor
  · intro notLasting equal room
    rw [log_of_merges plain newest ((merges_iff ha newest).2 ⟨notLasting, equal⟩)]
    exact ⟨rd_addSat_count (rd_lt_of_newest newest) room,
      fld_setFld_reg _ _ _ _ _ _ (offELOG_ne_offFHSTAT n 0).symm⟩
  · intro other
    have new : merges d kind cls ut ux a n = false := by
      rw [← Bool.not_eq_true, merges_iff ha newest]
      rintro ⟨notLasting, equal⟩
      exact other.elim notLasting (· equal)
    obtain ⟨word0, word3, head⟩ := log_new plain newest new (sp := sp) (x := x)
    refine ⟨word0.trans ?_, word3.trans (Nat.mod_eq_of_lt hx), head⟩
    rw [valid_header]
    exact Nat.mod_eq_of_lt (by omega)

end Sys2Proof.Proofs
